-- ==== Sys2Proof/Word.lean ====
section
/-! DEFINITION. Words of the machine and the sparse tables that State holds its numbered things in. -/

namespace Sys2Proof

/-- A byte, the smallest addressable unit (R4). -/
abbrev Byte := BitVec 8

/-- A 32-bit register or instruction word (R8, R23). -/
abbrev Word := BitVec 32

/-- A 64-bit value, held in an even-aligned pair (R8). -/
abbrev DWord := BitVec 64

/-- A table of numbered entries, in ascending order of the number, each number at most once. -/
abbrev Tbl (V : Type) := List (Nat × V)

/-- `Bits(x, hi, lo)` of R11, on a natural number: `n` bits of `x` from bit `lo`. -/
def bitsOf (x lo n : Nat) : Nat := (x >>> lo) % 2 ^ n

/-- One bit of a natural number. -/
def bitOf (x k : Nat) : Bool := (x >>> k) % 2 == 1

end Sys2Proof
end

