-- ==== Sys2Proof/Syntax.lean ====
section
/-! DEFINITION. The syntax: operands, the payloads of the device's steps, and one constructor of `Instr` for
every row of the opcode table (instruction forms, rake micro-words, queue bytecodes, device events). -/

namespace Sys2Proof

/-- A source operand as R24, R26 and R188 give it. A literal is the third word of R22. -/
inductive Src where
  | none
  | v (n : BitVec 8)
  | g (n : BitVec 6)
  | t (n : BitVec 3)
  | imm (i : BitVec 8)
  | lit (w : Word)
  | pred (neg : Bool) (code : BitVec 6)
  deriving DecidableEq, Repr

/-- A destination operand (R24). -/
inductive Dst where
  | none
  | v (n : BitVec 8)
  | g (n : BitVec 6)
  | t (n : BitVec 3)
  | p (n : BitVec 5)
  deriving DecidableEq, Repr

/-- The content of a standard or literal form (R23): sub-function bits [31:26], the empty-read bits [25:23], the
guard, the operands, and the memory control byte (R33) of the rows that have one. -/
structure Std where
  fn  : BitVec 6
  emp : BitVec 3
  gneg : Bool
  grd : BitVec 6
  d : Dst
  a : Src
  b : Src
  c : Src
  ctl : Byte
  deriving DecidableEq, Repr

/-- The group counters of R34, in the order of WAITSEL. -/
inductive Ctr where
  | ld | st | cp | mx | gt | cl | gr | ev
  deriving DecidableEq, Repr

/-- Transform port kinds (R65). -/
inductive PortKind where
  | asset | brine | side
  deriving DecidableEq, Repr

/-- The engine queue whose head an admission concerns (R365): the sluice queue, the array queue of a quarter, or a
graphics command by its place in the pan's list. -/
inductive EngineQ where
  | sluice
  | array (quarter : Nat)
  | graphics (idx : Nat)
  deriving DecidableEq, Repr

/-- A hardware unit (R386 UNIT codes 0 to 11), with its INST and SUB numbers. -/
inductive UnitKind where
  | sram | regBank | datapath | matrix | rake | panCtl | sluice | salWay | shadow | frontPort | sidePort | channel
  deriving DecidableEq, Repr

/-- A device register by name and instance. Their addresses are not in the spec (log 12). -/
inductive Reg where
  | asSlot (p s : Nat)
  | xinvVa (p : Nat) | xinvCmd (p : Nat) | xinvStat (p : Nat)
  | xfrBase (p : Nat) | xfrHead (p : Nat) | xfrTail (p : Nat) | xfrRetry (p : Nat)
  | xprTbl (p k off : Nat)
  | xprBase (p : Nat) | xprHead (p : Nat) | xprTail (p : Nat) | xprRetry (p : Nat)
  | xprOvfPa (p : Nat) | xprOvfCmd (p : Nat) | xprOvfStat (p : Nat)
  | salWays (p : Nat) | salDstat (p : Nat) | salPbud (pan : Nat)
  | panMem (pan : Nat)
  | evqCfg (pan : Nat) | evqHead (pan : Nat) | evqTail (pan : Nat) | evqRec (pan k : Nat)
  | strmCfg (i : Nat) | strmFmt (i : Nat) | strmFp (i : Nat) | strmBase (i : Nat) | strmLead (i : Nat)
  | strmBinva (i : Nat) | strmRing (i : Nat) | strmStat (i : Nat) | strmWce (i : Nat)
  | qctl (n : Nat) | qring (n : Nat) | qrsize (n : Nat) | qprog (n : Nat) | qwin (n k : Nat)
  | qwptr (n : Nat) | qrptr (n : Nat) | qfault (n : Nat) | qcmp (n : Nat) | qchead (n : Nat) | qctail (n : Nat)
  | stmSec | stmSub | ptpCfg | ptpStat | ptpOfs
  | dlPans (p k : Nat) | dlPlan (p : Nat) | dlStat (p : Nat)
  | schedCmd (p : Nat) | schedTmo (p : Nat)
  | enBal (pan : Nat) | enGrant (pan : Nat) | enRefill (pan : Nat) | enDef (pan : Nat)
  | plan (p : Nat) | pkgPlim | ec (k : Nat) | fll (pan : Nat)
  | rcvCtx (pan team : Nat) | rcvCmd
  | errBase | errHead | errTail | errLost
  | fenPan (pan : Nat) | fenBed (bed : Nat) | fenPort
  | epfCtl (port flow : Nat) | epfTpl (port flow k : Nat)
  | epcPkt (port flow : Nat) | epcByte (port flow : Nat) | epcOvs (port flow : Nat) | epcDisc (port flow : Nat)
  | aptCtl (port e : Nat) | aptBase (port e : Nat)
  | pmPart (p : Nat) | pmPans (p k : Nat) | pmOwn (e : Nat) | pmPeer (p k : Nat) | pmNonce (p k : Nat)
  deriving DecidableEq, Repr

/-- An SLT packet as it arrives (R392). `ok` is false where the header holds a reserved value. -/
structure SltPacket where
  vf : Nat
  conn : Nat
  seq : Nat
  ackseq : Nat
  addr : Nat
  len : Nat
  data : List Byte
  ok : Bool
  deriving DecidableEq, Repr

/-- What a remote device asks of a home bed through a side port (R395): a read, a write, or an exact add, at a virtual
address in a slot of the partition that owns the port, at a scope, as an acquire, a release or neither. -/
inductive RemoteOp where
  | read (len : Nat)
  | write (data : List Byte)
  | eadd (bf16 : Bool) (x : Word)
  deriving DecidableEq, Repr

structure RemoteReq where
  slot : Nat
  va : DWord
  op : RemoteOp
  scope : BitVec 2
  acq : Bool
  rel : Bool
  deriving DecidableEq, Repr

/-- What a side-port frame carries (R83, R395): a request, the answer to one, with its data or a remote-access error, the
identifier of the sender's dictionary, or the sender's demand for a frame again. -/
inductive SideBody where
  | request (id : Nat) (r : RemoteReq)
  | answer (id : Nat) (data : List Byte) (err : Bool)
  | dict (ident : BitVec 16)
  | again (lseq : Nat)
  deriving DecidableEq, Repr

/-- A side-port frame as it arrives: whether its CRC verifies, its link sequence number, what it carries, and, where its data
are coded by codec 3, their coded form (R83, R395). -/
structure SideFrame where
  crcOk : Bool
  lseq : Nat
  coded : Bool
  payload : List Byte
  body : SideBody
  deriving DecidableEq, Repr

/-- A hardware error report: the unit, its numbers, whether it was corrected, and where it struck (R386). -/
structure ErrReport where
  unit : UnitKind
  inst : Nat
  sub : Nat
  corrected : Bool
  part : Nat
  pa : Nat
  deriving DecidableEq, Repr

/-- A firmware image stream's verified facts (R401). -/
structure FwImage where
  sigOk : Bool
  digestOk : Bool
  version : Nat
  keyIdx : Nat
  digest : Nat
  deriving DecidableEq, Repr

/-- Every step of the device. The first group are the standard and literal forms of rows 0x00 to 0xDF, then the short
forms, the rake micro-words, the queue bytecodes, and the device events and register writes. -/
inductive Instr where
  | add (x : Std)  -- ADD, R193
  | sub (x : Std)  -- SUB, R193
  | addc (x : Std)  -- ADDC, R194
  | subb (x : Std)  -- SUBB, R194
  | mullo (x : Std)  -- MULLO, R193
  | mulhi (x : Std)  -- MULHI, R193
  | mad (x : Std)  -- MAD, R193
  | madw (x : Std)  -- MADW, R194
  | div (x : Std)  -- DIV, R195
  | rem (x : Std)  -- REM, R195
  | min (x : Std)  -- MIN, R193
  | max (x : Std)  -- MAX, R193
  | abs (x : Std)  -- ABS, R193
  | neg (x : Std)  -- NEG, R193
  | addsat (x : Std)  -- ADDSAT, R193
  | subsat (x : Std)  -- SUBSAT, R193
  | lea (x : Std)  -- LEA, R196
  | icmp (x : Std)  -- ICMP, R197
  | sel (x : Std)  -- SEL, R198
  | mov (x : Std)  -- MOV, R198
  | clamp (x : Std)  -- CLAMP, R193
  | sad (x : Std)  -- SAD, R199
  | dot4 (x : Std)  -- DOT4, R199
  | dot2 (x : Std)  -- DOT2, R199
  | cvti (x : Std)  -- CVTI, R200
  | bysel (x : Std)  -- BYSEL, R201
  | pack (x : Std)  -- PACK, R200
  | unpk (x : Std)  -- UNPK, R200
  | avg (x : Std)  -- AVG, R193
  | and (x : Std)  -- AND, R202
  | or (x : Std)  -- OR, R202
  | xor (x : Std)  -- XOR, R202
  | andn (x : Std)  -- ANDN, R202
  | orn (x : Std)  -- ORN, R202
  | not (x : Std)  -- NOT, R202
  | logt (x : Std)  -- LOGT, R202
  | shl (x : Std)  -- SHL, R203
  | shr (x : Std)  -- SHR, R203
  | sar (x : Std)  -- SAR, R203
  | rol (x : Std)  -- ROL, R203
  | ror (x : Std)  -- ROR, R203
  | fshl (x : Std)  -- FSHL, R204
  | fshr (x : Std)  -- FSHR, R204
  | bfe (x : Std)  -- BFE, R205
  | bfi (x : Std)  -- BFI, R205
  | popc (x : Std)  -- POPC, R206
  | clz (x : Std)  -- CLZ, R206
  | ctz (x : Std)  -- CTZ, R206
  | brev (x : Std)  -- BREV, R206
  | bmsk (x : Std)  -- BMSK, R205
  | plogt (x : Std)  -- PLOGT, R207
  | p2v (x : Std)  -- P2V, R207
  | v2p (x : Std)  -- V2P, R207
  | fadd (x : Std)  -- FADD, R213
  | fsub (x : Std)  -- FSUB, R213
  | fmul (x : Std)  -- FMUL, R213
  | ffma (x : Std)  -- FFMA, R213
  | fmin (x : Std)  -- FMIN, R215
  | fmax (x : Std)  -- FMAX, R215
  | fminm (x : Std)  -- FMINM, R215
  | fmaxm (x : Std)  -- FMAXM, R215
  | fcmp (x : Std)  -- FCMP, R217
  | fclass (x : Std)  -- FCLASS, R217
  | fclassPredicate (x : Std)  -- FCLASS_PREDICATE, R217
  | frnd (x : Std)  -- FRND, R218
  | ffrc (x : Std)  -- FFRC, R218
  | fscl (x : Std)  -- FSCL, R218
  | fexpt (x : Std)  -- FEXPT, R218
  | fcps (x : Std)  -- FCPS, R216
  | fdiv (x : Std)  -- FDIV, R213
  | fsqrt (x : Std)  -- FSQRT, R219
  | frcp (x : Std)  -- FRCP, R219
  | frsq (x : Std)  -- FRSQ, R219
  | fex2 (x : Std)  -- FEX2, R219
  | flg2 (x : Std)  -- FLG2, R219
  | fsin (x : Std)  -- FSIN, R219
  | fcos (x : Std)  -- FCOS, R219
  | ftanh (x : Std)  -- FTANH, R219
  | fdotp2 (x : Std)  -- FDOTP2, R214
  | hfma2 (x : Std)  -- HFMA2, R214
  | cvtf (x : Std)  -- CVTF, R221
  | cvtfi (x : Std)  -- CVTFI, R223
  | cvtif (x : Std)  -- CVTIF, R224
  | flgrd (x : Std)  -- FLGRD, R225
  | flgclr (x : Std)  -- FLGCLR, R225
  | vote (x : Std)  -- VOTE, R228
  | ballot (x : Std)  -- BALLOT, R228
  | shfl (x : Std)  -- SHFL, R228
  | shflup (x : Std)  -- SHFLUP, R228
  | shfldn (x : Std)  -- SHFLDN, R228
  | shflx (x : Std)  -- SHFLX, R228
  | redx (x : Std)  -- REDX, R229
  | scanx (x : Std)  -- SCANX, R229
  | matchLanes (x : Std)  -- MATCH, R228
  | elect (x : Std)  -- ELECT, R228
  | gbcast (x : Std)  -- GBCAST, R228
  | conv (x : Std)  -- CONV, R228
  | ld (x : Std)  -- LD, R233
  | st (x : Std)  -- ST, R233
  | lds (x : Std)  -- LDS, R233
  | sts (x : Std)  -- STS, R233
  | ldk (x : Std)  -- LDK, R233
  | pref (x : Std)  -- PREF, R239
  | cctlL1line (x : Std)  -- CCTL_L1LINE, R239
  | cctlL1all (x : Std)  -- CCTL_L1ALL, R239
  | cctlDemote (x : Std)  -- CCTL_DEMOTE, R239
  | fence (x : Std)  -- FENCE, R119
  | pfencePp (x : Std)  -- PFENCE_PP, R133
  | pfenceDp (x : Std)  -- PFENCE_DP, R133
  | atom (x : Std)  -- ATOM, R236
  | atoms (x : Std)  -- ATOMS, R236
  | red (x : Std)  -- RED, R236
  | reds (x : Std)  -- REDS, R236
  | atomx (x : Std)  -- ATOMX, R237
  | dflush (x : Std)  -- DFLUSH, R239
  | cas (x : Std)  -- CAS, R236
  | cass (x : Std)  -- CASS, R236
  | ecrd (x : Std)  -- ECRD, R238
  | ecclr (x : Std)  -- ECCLR, R238
  | cpy (x : Std)  -- CPY, R142
  | cpyt (x : Std)  -- CPYT, R143
  | cpyg (x : Std)  -- CPYG, R144
  | seminit (x : Std)  -- SEMINIT, R248
  | semacq (x : Std)  -- SEMACQ, R248
  | semrel (x : Std)  -- SEMREL, R248
  | tbinit (x : Std)  -- TBINIT, R249
  | tbexp (x : Std)  -- TBEXP, R249
  | tbarr (x : Std)  -- TBARR, R249
  | tbtst (x : Std)  -- TBTST, R250
  | tbwait (x : Std)  -- TBWAIT, R250
  | bar (x : Std)  -- BAR, R251
  | sgput (x : Std)  -- SGPUT, R252
  | sgputWait (x : Std)  -- SGPUT_WAIT, R252
  | sgget (x : Std)  -- SGGET, R252
  | sggetErr (x : Std)  -- SGGET_ERR, R252
  | sgrel (x : Std)  -- SGREL, R252
  | mma (x : Std)  -- MMA, R259
  | mmas (x : Std)  -- MMAS, R259
  | mtrn (x : Std)  -- MTRN, R261
  | mprm (x : Std)  -- MPRM, R261
  | mred (x : Std)  -- MRED, R261
  | mldb (x : Std)  -- MLDB, R257
  | mstc (x : Std)  -- MSTC, R262
  | mzero (x : Std)  -- MZERO, R263
  | mqry (x : Std)  -- MQRY, R263
  | rkbind (x : Std)  -- RKBIND, R284
  | rkray (x : Std)  -- RKRAY, R285
  | rkqry (x : Std)  -- RKQRY, R285
  | rksav (x : Std)  -- RKSAV, R287
  | rkres (x : Std)  -- RKRES, R286
  | rkref (x : Std)  -- RKREF, R288
  | rkflsh (x : Std)  -- RKFLSH, R287
  | rkcan (x : Std)  -- RKCAN, R287
  | binpop (x : Std)  -- BINPOP, R307
  | rstq (x : Std)  -- RSTQ, R308
  | rstqBin (x : Std)  -- RSTQ_BIN, R308
  | frgld (x : Std)  -- FRGLD, R309
  | rate (x : Std)  -- RATE, R310
  | rgst (x : Std)  -- RGST, R311
  | rgld (x : Std)  -- RGLD, R311
  | rgdone (x : Std)  -- RGDONE, R312
  | pstat (x : Std)  -- PSTAT, R313
  | bra (x : Std)  -- BRA, R318
  | brx (x : Std)  -- BRX, R318
  | call (x : Std)  -- CALL, R319
  | callx (x : Std)  -- CALLX, R319
  | ret (x : Std)  -- RET, R319
  | launch (x : Std)  -- LAUNCH, R324
  | join (x : Std)  -- JOIN, R326
  | post (x : Std)  -- POST, R327
  | regroup (x : Std)  -- REGROUP, R329
  | trap (x : Std)  -- TRAP, R333
  | srd (x : Std)  -- SRD, R334
  | swr (x : Std)  -- SWR, R334
  | twait (x : Std)  -- TWAIT, R323
  | recx (x : Std)  -- RECX, R328
  | eret (x : Std)  -- ERET, R332
  | halt (x : Std)  -- HALT, R335
  -- short forms, R320
  | nop
  | wait (n : BitVec 6) (sel : Byte)
  | yield
  | exit
  | brs (off : BitVec 24)
  | brp (code : BitVec 6) (neg : Bool) (off : BitVec 17)
  | movi (imm : BitVec 16) (d : Byte)
  | bkpt (code : Byte)
  -- rake micro-words, R275 and R276
  | rkNld (a : BitVec 3)
  | rkFex (d : BitVec 3) (f e : BitVec 4)
  | rkBox (d : BitVec 3) (f : BitVec 4)
  | rkTri (d : BitVec 3) (f : BitVec 4)
  | rkPtd (d a : BitVec 3) (f : BitVec 4)
  | rkEed (d a : BitVec 3) (f e : BitVec 4)
  | rkCmpf (a b : BitVec 3) (x : BitVec 2)
  | rkJmp (target : Byte)
  | rkJc (x : Bool) (target : Byte)
  | rkEnq (a b : BitVec 3)
  | rkNext (a : BitVec 3)
  | rkNextChild
  | rkHmin (a b : BitVec 3)
  | rkEmit (a : BitVec 3)
  | rkYld
  | rkDone (fin : Bool)
  | rkFlt (code : Byte)
  -- queue bytecodes, R341 and R342
  | qLdw (d a : BitVec 4) (w : BitVec 2) (i : BitVec 16)
  | qStw (d a : BitVec 4) (w : BitVec 2) (i : BitVec 16)
  | qMovi (d : BitVec 4) (i : BitVec 16)
  | qMoviHi (d : BitVec 4) (i : BitVec 16)
  | qAdd (d a : BitVec 4) (x : Bool) (i : BitVec 16)
  | qSub (d a : BitVec 4) (x : Bool) (i : BitVec 16)
  | qAnd (d a : BitVec 4) (x : Bool) (i : BitVec 16)
  | qOr (d a : BitVec 4) (x : Bool) (i : BitVec 16)
  | qShl (d a : BitVec 4) (x : Bool) (i : BitVec 16)
  | qShr (d a : BitVec 4) (x : Bool) (i : BitVec 16)
  | qCmp (d a : BitVec 4) (x : Bool) (c : BitVec 2) (i : BitVec 16)
  | qSel (d a : BitVec 4) (x : Bool) (i : BitVec 16)
  | qBr (a : BitVec 4) (c : BitVec 2) (i : BitVec 16)
  | qLoop (body : Byte) (n : BitVec 16)
  | qDispatch (d a : BitVec 4) (w : BitVec 2) (t : BitVec 4)
  | qNode (d a : BitVec 4) (n : BitVec 2) (g : BitVec 4)
  | qWaitw (d a : BitVec 4) (geu : Bool) (w : BitVec 2) (i : BitVec 16)
  | qSignal (d a : BitVec 4) (w : BitVec 2) (i : BitVec 16)
  | qFence
  | qPostrd (d : BitVec 4) (i : BitVec 3)
  | qPostrdWait (d : BitVec 4) (i : BitVec 3)
  | qTimeat (a : BitVec 4)
  | qIntr (a : BitVec 4) (i : BitVec 16)
  | qErr (i : BitVec 16)
  | qHalt
  | qNopb
  -- device events and register writes
  | runBegin (pan slot : Nat)  -- R14
  | groupExchange (pan slot : Nat)  -- R164
  | forcedExchange (pan slot : Nat)  -- R164
  | regroupComplete (pan team role : Nat)  -- R171
  | teamLanding (part : Nat)  -- R415
  | walkComplete (pan idx : Nat)  -- R53
  | invalidationArrival (pan part : Nat)  -- R61
  | xinvDone (part : Nat)  -- R61
  | xinvRange (part slot pages : Nat)  -- R61
  | xinvSlot (part slot : Nat)  -- R61
  | xinvPartition (part : Nat)  -- R61
  | xfrRetry (part slot : Nat)  -- R64
  | faultRecordPost (part : Nat)  -- R64
  | addressSpaceSlotWrite (part slot : Nat) (value : DWord)  -- R47
  | portFillComplete (kind : PortKind) (port : Nat)  -- R73
  | codedWriteback (part pa : Nat)  -- R78
  | xprTblWrite (part k off : Nat) (bytes : List Byte)  -- R71
  | xprRetry (part slot : Nat)  -- R77
  | xprRetryFail (part slot : Nat)  -- R77
  | overflowMove (part : Nat) (kind : PortKind) (port entry : Nat)  -- R80
  | overflowRelease (part : Nat) (kind : PortKind) (port entry : Nat)  -- R80
  | overflowRetry (part : Nat) (kind : PortKind) (port entry : Nat)  -- R80
  | portRecordPost (part : Nat)  -- R77
  | dictionaryLoad (port : Nat) (bytes : List Byte) (ident : BitVec 16)  -- R83
  | bedLoad (req : Nat)  -- R89
  | bedWrite (req : Nat)  -- R90
  | bedAtomic (req : Nat)  -- R92
  | orderedUpdateArrival (req : Nat)  -- R93
  | windowTimer (bed : Nat)  -- R94
  | bedCloseRequest (idx : Nat)  -- R239
  | exactAdd (req : Nat)  -- R98
  | tbInitOperation (req : Nat)  -- R103
  | tbExpectOperation (req : Nat)  -- R103
  | tbArriveOperation (req : Nat)  -- R103
  | tbDeliverOperation (req : Nat)  -- R103
  | tbTestOperation (req : Nat)  -- R103
  | phaseNotice (idx : Nat)  -- R104
  | watchRetest (pan slot : Nat)  -- R104
  | mergeBufferEvict (bed idx : Nat)  -- R90
  | lineFillReturn (idx : Nat)  -- R84
  | bedPersistRequest (idx : Nat)  -- R133
  | salternBudgetRefill (pan : Nat)  -- R105
  | salWaysWrite (part : Nat) (mask : BitVec 16)  -- R88
  | maskReductionComplete (part : Nat)  -- R88
  | loadReturn (idx : Nat)  -- R34
  | writeAck (idx : Nat)  -- R34
  | endpointStoreAccept (req : Nat)  -- R234
  | egressPacketSend (port flow : Nat)  -- R391
  | engineAdmission (pan : Nat) (q : EngineQ)  -- R365
  | sluiceStart (pan sluice : Nat)  -- R146
  | sliceComplete (pan sluice : Nat)  -- R145
  | evqTailWrite (pan : Nat) (value : Word)  -- R148
  | mldbBroadcast (pan team set : Nat) (bbuf : Bool)  -- R257
  | matrixCommandComplete (pan quarter : Nat)  -- R256
  | rakeClaim (pan : Nat)  -- R273
  | claimEntryReread (pan idx : Nat)  -- R273
  | visitAdmission (pan visit : Nat)  -- R290
  | nodeReadReturn (pan visit : Nat)  -- R282
  | saveRingReserve (pan visit : Nat)  -- R279
  | finishNotice (idx : Nat)  -- R416
  | graphicsCommandComplete (pan idx : Nat)  -- R305
  | streamEnable (stream : Nat)  -- R293
  | streamDisable (stream : Nat)  -- R293
  | chainAdmission (stream chain : Nat)  -- R360
  | chainClaimable (stream chain : Nat)  -- R360
  | chainKill (stream chain : Nat)  -- R301
  | stripSerialize (stream strip : Nat)  -- R302
  | stripEncode (stream strip : Nat)  -- R303
  | launchPlace (idx : Nat)  -- R324
  | overflowListMove (part grid : Nat)  -- R324
  | postWordAccept (idx : Nat)  -- R327
  | nodeRecordEnqueue (idx : Nat)  -- R350
  | nodeTimerExpiry (part grid node : Nat)  -- R351
  | twaitExpiry (pan slot : Nat)  -- R323
  | queueEnable (q : Nat)  -- R343
  | queueDisable (q : Nat)  -- R339
  | qwptrWrite (q : Nat) (value : Word)  -- R337
  | packetHeaderRead (q : Nat)  -- R338
  | packetStart (q : Nat)  -- R344
  | queueWaitRecheck (q : Nat)  -- R342
  | stagedEffectApply (q : Nat)  -- R345
  | gridComplete (part grid : Nat)  -- R347
  | energyTick (pan : Nat)  -- R366
  | plannerRecompute  -- R367
  | fllStep (pan : Nat)  -- R369
  | deadlineReserveRefill (part : Nat)  -- R359
  | teamIdleSeal (pan team : Nat)  -- R361
  | panGate (pan : Nat)  -- R370
  | schedDrain (part pan team : Nat) (sld : Bool)  -- R362
  | schedSeal (part pan team : Nat) (sld : Bool)  -- R362
  | schedTeardown (part pan team : Nat) (sld : Bool)  -- R362
  | schedRestore (part pan team : Nat) (sld : Bool)  -- R362
  | drainTimeout (pan team : Nat)  -- R362
  | sealTimeout (pan team : Nat)  -- R362
  | watchdogExpiry (pan team : Nat)  -- R362
  | contextSealed (pan team : Nat)  -- R382
  | contextRestore (idx pan : Nat)  -- R383
  | journalRecordDurable (pan : Nat)  -- R379
  | panPowerLoss (pan keep : Nat)  -- R384
  | panPowerRestore (pan : Nat)  -- R384
  | devicePowerLoss (keep : Nat)  -- R135
  | deviceReset  -- R401
  | firmwareImageReceive (img : FwImage) (source : Nat)  -- R401
  | rcvRestore (pan team : Nat)  -- R385
  | rcvDiscard (pan team : Nat)  -- R385
  | unitError (r : ErrReport)  -- R387
  | selfTestComplete (idx : Nat) (pass : Bool)  -- R387
  | partitionEnable (part : Nat)  -- R398
  | partitionDisable (part : Nat)  -- R398
  | partitionSeal (part : Nat)  -- R398
  | partitionBusyClear (part : Nat)  -- R398
  | pmPansWrite (part k : Nat) (value : DWord)  -- R419
  | pmOwnWrite (extent : Nat) (value : BitVec 4)  -- R419
  | attestationQuote (part : Nat) (challenge : List Byte)  -- R400
  | sltWrite (p : SltPacket)  -- R394
  | sltRead (p : SltPacket)  -- R394
  | sltAck (p : SltPacket)  -- R393
  | sltNack (p : SltPacket)  -- R393
  | sltResendTimer (vf conn : Nat)  -- R393
  | pauseFrameReceive (port : Nat)  -- R390
  | linkUp (port : Nat) (peer : DWord) (dict : BitVec 16)  -- R395
  | sideFrameReceive (port : Nat) (f : SideFrame)  -- R395
  | remoteRequest (port idx : Nat)  -- R395
  | ptpEnable (en : Bool)  -- R355
  | ptpAnnounce (gm : DWord)  -- R355
  | ptpSync (seq : Nat) (master arrival : Int)  -- R356
  | ptpFollowUp (seq : Nat) (master : Int)  -- R354
  | ptpDelayReq  -- R354
  | ptpDelayResp (received : Int)  -- R354
  | announceTimeout  -- R355
  | stmSecRead  -- R353
  | registerWrite (vf : Nat) (r : Reg) (value : DWord)  -- R6
  | errorLogPost  -- R386
  | completionRingPost (q : Nat)  -- R347
  | timeatExpiry (q : Nat)  -- R342
  | brineWindowWriteDone (idx : Nat)  -- R133
  | outputStripDrained (stream strip : Nat)  -- R296
  | portLinkLoss (port : Nat)  -- R395
  deriving DecidableEq, Repr

end Sys2Proof
end

