-- ==== Sys2Proof/Machine/Signature.lean ====
section
/-! DEFINITION. What each opcode accepts: the kind of each operand slot under each sub-function (R188, R191, R208,
R211, R220, R226 to R231, R242, R283, R306, R316, R334; a value of FN that a row's entry does not list has none, R32), and the rules of
the memory control byte (R33). -/

namespace Sys2Proof

/-- Kinds of source slot. `val` and `pair` take v, g, t or an immediate; `reg`, `regPair`, `regQuad` take no immediate;
`vreg n` is a v-register heading a range of `n`; `scale` is CVTF's v-register; `ctlw` is CVTF's control word. -/
inductive SKind where
  | none | val | pair | reg | regPair | regQuad | pred | lut | vreg (n : Nat) | scale | ctlw
  deriving DecidableEq, Repr

/-- Kinds of destination slot. The `L` kinds belong to long-latency producers and take no t-register (R24). -/
inductive DKind where
  | none | val | pair | valL | pairL | quadL | pred | predL
  deriving DecidableEq, Repr

/-- The operand kinds of one form, and the control-byte rule of rows 0x70 to 0x83 (R33). -/
structure Sig where
  d : DKind
  a : SKind := .none
  b : SKind := .none
  c : SKind := .none
  mem : Bool := false
  deriving DecidableEq, Repr

/-- A value slot under WID: a pair under WID 01 (R191). -/
def valW (wid : Nat) : SKind := if wid = 1 then .pair else .val

/-- A value destination under WID (R191). -/
def dvalW (wid : Nat) : DKind := if wid = 1 then .pair else .val

/-- Rows 0x00 to 0x3F (R191); LEA's index is 32 bits (R196). -/
def intSig (opc fn : Nat) : Option Sig :=
  let wid := fn / 16
  let sgn := fn / 8 % 2
  let sat := fn / 4 % 2
  let ops := fn % 4
  let v := valW wid
  let d := dvalW wid
  let need (b : Bool) (g : Sig) : Option Sig := if b then some g else none
  let w01 : Bool := wid < 2
  match opc with
  | 0x00 | 0x01 => need (sat == 0 && ops == 0) { d := d, a := v, b := v }
  | 0x02 | 0x03 => need (fn == 0) { d := .pair, a := .val, b := .val, c := .val }
  | 0x04 => need (ops == 0) { d := d, a := v, b := v }
  | 0x05 => need (sat == 0 && ops == 0) { d := d, a := v, b := v }
  | 0x06 => need (ops == 0) { d := d, a := v, b := v, c := v }
  | 0x07 => need (wid == 0 && ops == 0) { d := .pair, a := .val, b := .val, c := .pair }
  | 0x08 => need (w01 && ops == 0 && (sat == 0 || sgn == 1)) { d := d, a := v, b := v }
  | 0x09 => need (w01 && ops == 0 && sat == 0) { d := d, a := v, b := v }
  | 0x0A | 0x0B => need (sat == 0 && ops == 0) { d := d, a := v, b := v }
  | 0x0C => need (sgn == 1 && ops == 0) { d := d, a := v }
  | 0x0D => need (ops == 0) { d := d, a := v }
  | 0x0E | 0x0F => need (sat == 1 && ops < 2) { d := d, a := v, b := v }
  | 0x10 => need (wid == 1 && sat == 0 && ops == 0) { d := .pair, a := .pair, b := .val, c := .val }
  | 0x11 => need (w01 && sat == 0) { d := .pred, a := v, b := v }
  | 0x12 => need (w01 && fn % 16 == 0) { d := d, a := .pred, b := v, c := v }
  | 0x13 => need (w01 && fn % 16 == 0) { d := d, a := v }
  | 0x14 => need (sat == 0 && ops == 0) { d := d, a := v, b := v, c := v }
  | 0x15 => need (wid != 1 && sat == 0 && ops == 0) { d := .val, a := .val, b := .val, c := .val }
  | 0x16 => need (wid == 3 && ops < 2) { d := .val, a := .val, b := .val, c := .val }
  | 0x17 => need (wid == 2 && ops < 2) { d := .val, a := .val, b := .val, c := .val }
  | 0x18 => need (w01 && !(ops == 2 && wid == 0) && !(ops == 3 && wid == 1))
      { d := d, a := if ops = 3 then .pair else .val }
  | 0x19 => need (fn == 0) { d := .val, a := .val, b := .val, c := .val }
  | 0x1A => need (decide (2 ≤ wid) && ops == 0) { d := .val, a := .val, b := .val }
  | 0x1B => need (decide (2 ≤ wid) && sat == 0 && ops == 0) { d := .pair, a := .val }
  | 0x1C => need (sat == 0 && ops < 2) { d := d, a := v, b := v }
  | 0x20 | 0x21 | 0x22 | 0x23 | 0x24 => need (w01 && fn % 16 == 0) { d := d, a := v, b := v }
  | 0x25 => need (w01 && fn % 16 == 0) { d := d, a := v }
  | 0x26 => need (w01 && fn % 16 == 0) { d := d, a := v, b := v, c := .lut }
  | 0x27 | 0x28 | 0x2A | 0x2B => need (fn % 16 == 0) { d := d, a := v, b := .val }
  | 0x29 => need (sgn == 1 && sat == 0 && ops == 0) { d := d, a := v, b := .val }
  | 0x2C | 0x2D => need (w01 && fn % 16 == 0) { d := d, a := v, b := v, c := .val }
  | 0x2E => need (w01 && sat == 0 && ops == 0) { d := d, a := v, b := .val, c := .val }
  | 0x2F => need (w01 && fn % 16 == 0) { d := d, a := v, b := .val, c := .val }
  | 0x30 | 0x31 | 0x32 => need (w01 && fn % 16 == 0) { d := .val, a := v }
  | 0x33 => need (w01 && fn % 16 == 0) { d := d, a := v }
  | 0x34 => need (w01 && fn % 16 == 0) { d := d, a := .val, b := .val }
  | 0x35 => need (fn == 0) { d := .pred, a := .pred, b := .pred, c := .lut }
  | 0x36 => need (fn == 0) { d := .val, a := .val }
  | 0x37 => need (fn == 0) { d := .none, a := .val, b := .val }
  | _ => none

/-- The greatest element index of a CVTF format code (R220); none for the reserved code. -/
def cvtfIdxMax (code : Nat) : Option Nat :=
  match code with
  | 0 | 1 => some 0
  | 2 | 3 => some 1
  | 4 | 5 => some 3
  | 6 => some 7
  | _ => none

/-- The element index of a side of CVTF: XI is bit 2 on the .q4 side (R220). -/
def cvtfIdx (code low xi : Nat) : Nat := if code = 6 then xi * 4 + low else low

/-- CVTF's slots, from its control word (R220, R222). -/
def cvtfSig (prec rnd sgc ctl : Nat) : Option Sig :=
  let src := ctl % 8
  let dst := ctl / 8 % 8
  let xi := ctl / 128 % 2
  let sel := ctl / 256 % 16
  let q4 := src == 6 || dst == 6
  match cvtfIdxMax src, cvtfIdxMax dst with
  | some ms, some md =>
    if src ≠ dst ∧ cvtfIdx src prec xi ≤ ms ∧ cvtfIdx dst sgc xi ≤ md ∧ rnd ≤ 5 ∧ ctl < 4096
        ∧ (q4 = true ∨ (xi = 0 ∧ sel = 0)) then
      some { d := if dst = 1 then .pair else .val, a := if src = 1 then .regPair else .reg,
             b := if q4 then .scale else .none, c := .ctlw }
    else none
  | _, _ => none

/-- Rows 0x40 to 0x5F (R211). `dpred` says that the destination class is 11; `ctl` is CVTF's control word. -/
def floatSig (opc prec rnd sgc : Nat) (dpred : Bool) (ctl : Option Nat) : Option Sig :=
  let v := valW prec
  let d := dvalW prec
  let need (b : Bool) (g : Sig) : Option Sig := if b then some g else none
  let r : Bool := rnd < 5
  let ex : Bool := rnd == 0 && sgc == 0
  match opc with
  | 0x40 | 0x41 | 0x42 => need r { d := d, a := v, b := v }
  | 0x43 => need (r && prec < 2) { d := d, a := v, b := v, c := v }
  | 0x44 | 0x45 | 0x46 | 0x47 => need (rnd == 0) { d := d, a := v, b := v }
  | 0x48 => need (rnd == 0 && prec < 2) { d := .pred, a := v, b := v }
  | 0x49 =>
    if dpred then need (ex && prec < 2) { d := .pred, a := v, b := .val } else need ex { d := .val, a := v }
  | 0x4A => need (r && sgc == 0) { d := d, a := v }
  | 0x4B => need ex { d := d, a := v }
  | 0x4C => need (r && sgc == 0) { d := d, a := v, b := .val }
  | 0x4D => need ex { d := d, a := v }
  | 0x4E => need (rnd == 0 && sgc != 3) { d := d, a := v, b := v }
  | 0x50 => need r { d := d, a := v, b := v }
  | 0x51 | 0x52 | 0x53 => need (r && sgc == 0) { d := d, a := v }
  | 0x54 | 0x55 | 0x56 | 0x57 | 0x58 => need (ex && prec != 1) { d := d, a := v }
  | 0x59 => need (r && decide (2 ≤ prec)) { d := .val, a := .val, b := .val, c := .val }
  | 0x5A => need (r && decide (2 ≤ prec)) { d := .val, a := .val, b := .val, c := .val }
  | 0x5B => match ctl with
    | some k => cvtfSig prec rnd sgc k
    | none => none
  | 0x5C => need r { d := if sgc / 2 = 1 then .pair else .val, a := v }
  | 0x5D => need r { d := d, a := if sgc / 2 = 1 then .pair else .val }
  | 0x5E => need (ex && prec == 0) { d := .val }
  | 0x5F => need (ex && prec == 0) { d := .none, a := .val }
  | _ => none

/-- REDX and SCANX sub-functions (R229): whether the operand is a pair. -/
def redxPair (fn : Nat) : Option Bool :=
  if fn ≤ 9 then some false
  else if 0x10 ≤ fn ∧ fn < 0x30 ∧ fn % 8 < 5 then some (decide (0x28 ≤ fn))
  else none

/-- Rows 0x60 to 0x6B (R226, R228); none for an FN that the entry does not list (R32). -/
def laneSig (opc fn : Nat) : Option Sig :=
  let need (b : Bool) (g : Sig) : Option Sig := if b then some g else none
  let two (f : Bool → Sig) : Option Sig := if fn < 2 then some (f (fn == 1)) else none
  let sv (p : Bool) : SKind := if p then .pair else .val
  let dv (p : Bool) : DKind := if p then .pairL else .valL
  match opc with
  | 0x60 => need (fn < 3) { d := .predL, a := .pred, c := .val }
  | 0x61 => need (fn == 0) { d := .valL, a := .pred, c := .val }
  | 0x62 | 0x63 | 0x64 | 0x65 => two (fun p => { d := dv p, a := sv p, b := .val, c := .val })
  | 0x66 | 0x67 => match redxPair fn with
    | some p => some { d := dv p, a := sv p, c := .val }
    | none => none
  | 0x68 => two (fun p => { d := .valL, a := sv p, c := .val })
  | 0x69 => need (fn == 0) { d := .predL, c := .val }
  | 0x6A => two (fun p => { d := dv p, a := sv p, c := .val })
  | 0x6B => need (fn == 0) { d := .none, c := .val }
  | _ => none

/-- Register shape of an access size SZ (R232): 1, 2 or 4 registers; `load` admits the sign-extending codes. -/
def szRegs (sz : Nat) (load : Bool) : Option Nat :=
  match sz with
  | 0 | 2 | 4 => some 1
  | 1 | 3 => if load then some 1 else none
  | 5 => some 2
  | 6 => some 4
  | _ => none

/-- Destination slot of 1, 2 or 4 registers, long-latency (R230). -/
def dRegs (n : Nat) : DKind := if n = 1 then .valL else if n = 2 then .pairL else .quadL

/-- Data slot of 1, 2 or 4 registers; a quad takes registers only (R230). -/
def sRegs (n : Nat) : SKind := if n = 1 then .val else if n = 2 then .pair else .regQuad

/-- Whether an ATOP code names a 64-bit type (R235). -/
def atop64 (op : Nat) : Bool :=
  match op with
  | 0x02 | 0x03 | 0x06 | 0x07 | 0x0A | 0x0B | 0x10 | 0x11 | 0x12 | 0x13 | 0x15 | 0x1A | 0x1B => true
  | _ => false

/-- Rows 0x70 to 0x7E and 0x80 to 0x83 (R231); none for an FN that the entry does not list (R32). -/
def memSig (opc fn : Nat) : Option Sig :=
  let need (b : Bool) (g : Sig) : Option Sig := if b then some { g with mem := true } else none
  let sz := fn / 8
  let op := fn % 32
  let top := fn / 32
  let wv : SKind := if atop64 op then .pair else .val
  let wd : DKind := if atop64 op then .pairL else .valL
  match opc with
  | 0x70 | 0x74 => match szRegs sz true with
    | some n => need (fn % 8 == 0) { d := dRegs n, a := .regPair, b := .val }
    | none => none
  | 0x71 => match szRegs sz false with
    | some n => need (fn % 4 == 0) { d := if fn / 4 % 2 = 1 then .valL else .none, a := .regPair, b := sRegs n }
    | none => none
  | 0x72 => match szRegs sz true with
    | some n => need (fn % 8 == 0) { d := dRegs n, a := .val, b := .val }
    | none => none
  | 0x73 => match szRegs sz false with
    | some n => need (fn % 8 == 0) { d := .none, a := .val, b := sRegs n }
    | none => none
  | 0x75 => need (fn < 2) { d := .none, a := .regPair, b := .val }
  | 0x76 => if fn = 1 then need true { d := .none } else need (fn < 3) { d := .none, a := .regPair, b := .val }
  | 0x77 => need (fn == 0) { d := .none }
  | 0x78 => need (fn < 2) { d := .none }
  | 0x79 => need (op < 0x1C) { d := if top = 1 then .none else wd, a := .regPair, b := wv }
  | 0x7A => need (op < 0x1C) { d := if top = 1 then .none else wd, a := .val, b := wv }
  | 0x7B => need (op < 0x1E && op != 0x0F && op != 0x13)
      { d := if top = 1 then .valL else .none, a := .regPair, b := wv }
  | 0x7C => need (top == 0 && op < 0x1C && op != 0x0F && op != 0x13) { d := .none, a := .val, b := wv }
  | 0x7D => need (top == 0 && (op < 0x0C || (decide (0x14 ≤ op) && op < 0x18)))
      { d := .val, a := .regPair, b := wv }
  | 0x7E => need (fn == 0) { d := .none }
  | 0x80 => need (fn < 2)
      { d := if fn = 1 then .pairL else .valL, a := .regPair, b := if fn = 1 then .regQuad else .regPair }
  | 0x81 => need (fn < 2)
      { d := if fn = 1 then .pairL else .valL, a := .val, b := if fn = 1 then .regQuad else .regPair }
  | 0x82 => need (fn % 4 == 0 && decide (fn / 4 % 8 < 5)) { d := .valL, a := .regPair }
  | 0x83 => need (fn == 0) { d := .none, a := .regPair }
  | _ => none

/-- The orders an instruction's entry allows: 0 weak, 1 acquire, 2 release, 3 acquire-release (R231). -/
def memOrders (opc fn : Nat) : List Nat :=
  match opc with
  | 0x70 | 0x72 | 0x82 => [0, 1]
  | 0x71 | 0x73 | 0x7B | 0x7C | 0x7D | 0x83 => [0, 2]
  | 0x79 | 0x7A => if fn / 32 = 1 then [0, 2] else [0, 1, 2, 3]
  | 0x77 | 0x80 | 0x81 => [0, 1, 2, 3]
  | _ => [0]

/-- The memory control byte rules of R33 and R231. -/
def memCtlOk (opc fn : Nat) (ctl : Byte) : Bool :=
  let k := ctl.toNat
  let ord := k / 4 % 4
  let rem := k / 64 % 2
  decide (k < 128) && (memOrders opc fn).contains ord && (rem == 0 || ord == 1 || ord == 3) &&
  (match opc with
   | 0x75 => k / 16 == 0
   | 0x76 | 0x78 | 0x7E => k == 0
   | 0x77 => rem == 0 && k % 4 == 0
   | _ => true)

/-- Rows 0x90 to 0xA8 (R242); none for an FN that the entry does not list (R32). -/
def engineSig (opc fn : Nat) : Option Sig :=
  let need (b : Bool) (g : Sig) : Option Sig := if b then some g else none
  match opc with
  | 0x90 | 0x91 | 0x92 => need (fn == 0) { d := .none, a := .val }
  | 0x93 | 0x94 | 0x95 => need (fn == 0) { d := .none, a := .val, b := .val }
  | 0x96 | 0x97 | 0x98 | 0x9A => need (fn % 16 == 0) { d := .none, a := .regPair, b := .val }
  | 0x99 => need (fn % 16 == 0) { d := .pred, a := .regPair, b := .val }
  | 0x9B => need (fn == 0) { d := .none, a := .val, b := .val }
  | 0x9C => need (fn < 2) { d := if fn = 1 then .val else .none, a := .val }
  | 0x9D => need (fn < 2) { d := .val, a := if fn = 0 then .val else .none }
  | 0x9E => need (fn == 0) { d := .pred, a := .val, b := .val }
  | 0xA0 | 0xA1 | 0xA2 | 0xA3 | 0xA4 | 0xA6 => need (fn == 0) { d := .none, a := .val }
  | 0xA5 =>
    let aux := fn / 2 % 16
    need (fn % 2 == 0 && aux < 13) { d := .none, a := .vreg 16, b := if aux = 0 then .none else .vreg aux }
  | 0xA7 => need (fn % 32 == 0) { d := .none }
  | 0xA8 => need (fn < 2) { d := .valL }
  | _ => none

/-- Rows 0xB0 to 0xB7 (R283); none for an FN that the entry does not list (R32). -/
def rakeSig (opc fn : Nat) : Option Sig :=
  let need (b : Bool) (g : Sig) : Option Sig := if b then some g else none
  match opc with
  | 0xB0 => need (fn == 0) { d := .valL, a := .val }
  | 0xB1 => need (fn < 4) { d := .predL, a := .vreg 8, b := .val }
  | 0xB2 => need (fn < 4) { d := .predL, a := .vreg 6, b := .val }
  | 0xB3 => need (fn == 0) { d := .none, a := .val }
  | 0xB4 => need (fn < 4) { d := .predL, a := .regPair }
  | 0xB5 => need (fn == 0) { d := .none, a := .val }
  | 0xB6 => need (fn == 0) { d := .none }
  | 0xB7 => need (fn < 4) { d := .none, a := .val }
  | _ => none

/-- Rows 0xC0 to 0xC7 (R306); none for an FN that the entry does not list (R32). -/
def graphSig (opc fn : Nat) : Option Sig :=
  let need (b : Bool) (g : Sig) : Option Sig := if b then some g else none
  match opc with
  | 0xC0 | 0xC2 | 0xC3 | 0xC4 | 0xC5 => need (fn == 0) { d := .valL, a := .val }
  | 0xC1 => need (fn < 2) { d := .valL, a := .val, b := if fn = 0 then .val else .none }
  | 0xC6 => need (fn == 0) { d := .valL }
  | 0xC7 => need (fn < 2) { d := .pairL, a := .val, b := .val }
  | _ => none

/-- Special-register selectors of R334: whether the register is 64 bits wide; none where the code is reserved. -/
def srWide (fn : Nat) : Option Bool :=
  match fn with
  | 0x08 | 0x09 | 0x0C | 0x0D | 0x0F | 0x10 | 0x13 => some true
  | 0x00 | 0x01 | 0x02 | 0x03 | 0x04 | 0x05 | 0x06 | 0x0A | 0x0B | 0x0E | 0x11 | 0x12 | 0x14 | 0x15
  | 0x18 | 0x19 | 0x1A | 0x20 | 0x21 | 0x22 | 0x23 | 0x24 | 0x25 | 0x26 | 0x27 | 0x28 => some false
  | _ => none

/-- Rows 0xD0 to 0xDF (R316); none for an FN that the entry does not list (R32). -/
def controlSig (opc fn : Nat) : Option Sig :=
  let need (b : Bool) (g : Sig) : Option Sig := if b then some g else none
  match opc with
  | 0xD0 | 0xD2 => need (fn == 0) { d := .none, a := .val }
  | 0xD1 | 0xD3 => need (fn == 0) { d := .none, a := .regPair }
  | 0xD4 | 0xD6 | 0xDE | 0xDF => need (fn == 0) { d := .none }
  | 0xD5 => need (fn == 0) { d := .predL, a := .val }
  | 0xD7 => need (fn == 0) { d := .none, a := .val, b := .val }
  | 0xD8 | 0xD9 => need (fn == 0) { d := .none, a := .val }
  | 0xDA => match srWide fn with
    | some w => some { d := if w then .pair else .val }
    | none => none
  | 0xDB => match srWide fn with
    | some w => some { d := .none, a := if w then .pair else .val }
    | none => none
  | 0xDC => need (fn == 0) { d := .none, a := .regPair }
  | 0xDD => need (fn % 8 == 0) { d := .predL, a := .val, b := .vreg (fn / 8 + 1) }
  | _ => none

/-- The slots of a standard or literal form, from its opcode, FN field, EMP bits, whether its destination class is 11
and its C operand's bits (R191, R211, R226 to R231, R242, R283, R306, R316). None where no form is listed: of the rows from 0x60 on, for every FN that the
row's entry does not list (R32, R39). -/
def sigOf (opc fn emp : Nat) (dpred : Bool) (cbits : Option Nat) : Option Sig :=
  if opc < 0x40 then intSig opc fn
  else if opc < 0x60 then floatSig opc (fn / 16) (fn / 2 % 8) (fn % 2 * 2 + emp / 4 % 2) dpred cbits
  else if opc < 0x70 then laneSig opc fn
  else if opc < 0x90 then memSig opc fn
  else if opc < 0xB0 then engineSig opc fn
  else if opc < 0xC0 then rakeSig opc fn
  else if opc < 0xD0 then graphSig opc fn
  else controlSig opc fn

/-- Whether a source is a register: v, g or t. -/
def Src.isReg : Src → Bool
  | .v _ | .g _ | .t _ => true
  | _ => false

/-- Whether a source is a register or a predicate, so that an empty-read policy applies to it (R28). -/
def Src.canBeEmpty : Src → Bool
  | .v _ | .g _ | .t _ | .pred _ _ => true
  | _ => false

/-- Whether a source is the literal word. -/
def Src.isLit : Src → Bool
  | .lit _ => true
  | _ => false

/-- The register number of a source, where it names one. -/
def Src.regNo : Src → Option Nat
  | .v n => some n.toNat
  | .g n => some n.toNat
  | .t n => some n.toNat
  | _ => Option.none

/-- Whether a source is a register whose number is a multiple of `m` (R29, R230). -/
def Src.aligned (s : Src) (m : Nat) : Bool :=
  match s.regNo with
  | some n => n % m == 0
  | Option.none => false

/-- Whether a source is an immediate or the literal. -/
def Src.isConst : Src → Bool
  | .imm _ | .lit _ => true
  | _ => false

/-- A source operand fits its slot (R24, R29, R188, R208, R230). -/
def srcOk (k : SKind) (s : Src) : Bool :=
  match k with
  | .none => s == .none
  | .val => s.isReg || s.isConst
  | .pair => s.aligned 2 || s.isConst
  | .reg => s.isReg
  | .regPair => s.aligned 2
  | .regQuad => s.aligned 4
  | .pred => match s with
    | .pred _ code => decide (code.toNat ≤ 38)
    | _ => false
  | .lut => match s with
    | .imm _ => true
    | .lit w => decide (w.toNat < 256)
    | _ => false
  | .vreg _ | .scale => match s with
    | .v _ => true
    | _ => false
  | .ctlw => s.isConst

/-- A destination operand fits its slot (R24, R29). -/
def dstOk (k : DKind) (d : Dst) : Bool :=
  match k, d with
  | .none, .none => true
  | .val, .v _ | .val, .g _ | .val, .t _ => true
  | .pair, .v n => n.toNat % 2 == 0
  | .pair, .g n => n.toNat % 2 == 0
  | .pair, .t n => n.toNat % 2 == 0
  | .valL, .v _ | .valL, .g _ => true
  | .pairL, .v n => n.toNat % 2 == 0
  | .pairL, .g n => n.toNat % 2 == 0
  | .quadL, .v n => n.toNat % 4 == 0
  | .quadL, .g n => n.toNat % 4 == 0
  | .pred, .p _ | .predL, .p _ => true
  | _, _ => false

/-- The slot that a literal word would fill: the last source read, 2 for C, 1 for B, 0 for A (R25). -/
def Sig.litSlot (g : Sig) : Option Nat :=
  if g.c ≠ .none then some 2 else if g.b ≠ .none then some 1 else if g.a ≠ .none then some 0 else none

/-- A literal stands only in the last source read, never in the rows of R33 (R25, R33). -/
def litOk (g : Sig) (x : Std) : Bool :=
  (!x.a.isLit || (g.litSlot == some 0 && !g.mem)) && (!x.b.isLit || (g.litSlot == some 1 && !g.mem)) &&
  (!x.c.isLit || (g.litSlot == some 2 && !g.mem))

/-- The empty-read bits (R25, R26, R31, R208): bit 0 governs A, bit 1 B, bit 2 C; in the float family bit 1 governs B
and C, and bit 2 belongs to SGC. -/
def empOk (isFloat : Bool) (x : Std) : Bool :=
  (!x.emp.getLsbD 0 || x.a.canBeEmpty) &&
  (if isFloat then !x.emp.getLsbD 1 || x.b.isReg || x.c.isReg
   else (!x.emp.getLsbD 1 || x.b.canBeEmpty) && (!x.emp.getLsbD 2 || x.c.canBeEmpty))

/-- The bits of a C operand that is a constant: an immediate's 8 bits zero-extended, or the literal (R220). -/
def Src.constBits : Src → Option Nat
  | .imm i => some i.toNat
  | .lit w => some w.toNat
  | _ => Option.none

/-- Whether a destination is a predicate. -/
def Dst.isPred : Dst → Bool
  | .p _ => true
  | _ => false

/-- The slots of a standard form's operands. -/
def Std.sig (opc : Nat) (x : Std) : Option Sig :=
  sigOf opc x.fn.toNat x.emp.toNat x.d.isPred x.c.constBits

/-- A standard or literal form that no encoding rule refuses (R24 to R27, R29 to R33, R39). -/
def Std.ok (opc : Nat) (x : Std) : Bool :=
  match x.sig opc with
  | none => false
  | some g =>
    dstOk g.d x.d && srcOk g.a x.a && srcOk g.b x.b && srcOk g.c x.c && litOk g x && decide (x.grd.toNat ≤ 38) &&
    empOk (decide (0x40 ≤ opc ∧ opc < 0x60)) x && x.c != .imm 0xFF &&
    (if g.mem then memCtlOk opc x.fn.toNat x.ctl else x.ctl == 0)

/-- The opcode and content of a standard or literal form (R43); none for every other row. -/
def Instr.stdForm : Instr → Option (Nat × Std)
  | .add x => some (0x00, x)
  | .sub x => some (0x01, x)
  | .addc x => some (0x02, x)
  | .subb x => some (0x03, x)
  | .mullo x => some (0x04, x)
  | .mulhi x => some (0x05, x)
  | .mad x => some (0x06, x)
  | .madw x => some (0x07, x)
  | .div x => some (0x08, x)
  | .rem x => some (0x09, x)
  | .min x => some (0x0A, x)
  | .max x => some (0x0B, x)
  | .abs x => some (0x0C, x)
  | .neg x => some (0x0D, x)
  | .addsat x => some (0x0E, x)
  | .subsat x => some (0x0F, x)
  | .lea x => some (0x10, x)
  | .icmp x => some (0x11, x)
  | .sel x => some (0x12, x)
  | .mov x => some (0x13, x)
  | .clamp x => some (0x14, x)
  | .sad x => some (0x15, x)
  | .dot4 x => some (0x16, x)
  | .dot2 x => some (0x17, x)
  | .cvti x => some (0x18, x)
  | .bysel x => some (0x19, x)
  | .pack x => some (0x1A, x)
  | .unpk x => some (0x1B, x)
  | .avg x => some (0x1C, x)
  | .and x => some (0x20, x)
  | .or x => some (0x21, x)
  | .xor x => some (0x22, x)
  | .andn x => some (0x23, x)
  | .orn x => some (0x24, x)
  | .not x => some (0x25, x)
  | .logt x => some (0x26, x)
  | .shl x => some (0x27, x)
  | .shr x => some (0x28, x)
  | .sar x => some (0x29, x)
  | .rol x => some (0x2A, x)
  | .ror x => some (0x2B, x)
  | .fshl x => some (0x2C, x)
  | .fshr x => some (0x2D, x)
  | .bfe x => some (0x2E, x)
  | .bfi x => some (0x2F, x)
  | .popc x => some (0x30, x)
  | .clz x => some (0x31, x)
  | .ctz x => some (0x32, x)
  | .brev x => some (0x33, x)
  | .bmsk x => some (0x34, x)
  | .plogt x => some (0x35, x)
  | .p2v x => some (0x36, x)
  | .v2p x => some (0x37, x)
  | .fadd x => some (0x40, x)
  | .fsub x => some (0x41, x)
  | .fmul x => some (0x42, x)
  | .ffma x => some (0x43, x)
  | .fmin x => some (0x44, x)
  | .fmax x => some (0x45, x)
  | .fminm x => some (0x46, x)
  | .fmaxm x => some (0x47, x)
  | .fcmp x => some (0x48, x)
  | .fclass x => some (0x49, x)
  | .fclassPredicate x => some (0x49, x)
  | .frnd x => some (0x4A, x)
  | .ffrc x => some (0x4B, x)
  | .fscl x => some (0x4C, x)
  | .fexpt x => some (0x4D, x)
  | .fcps x => some (0x4E, x)
  | .fdiv x => some (0x50, x)
  | .fsqrt x => some (0x51, x)
  | .frcp x => some (0x52, x)
  | .frsq x => some (0x53, x)
  | .fex2 x => some (0x54, x)
  | .flg2 x => some (0x55, x)
  | .fsin x => some (0x56, x)
  | .fcos x => some (0x57, x)
  | .ftanh x => some (0x58, x)
  | .fdotp2 x => some (0x59, x)
  | .hfma2 x => some (0x5A, x)
  | .cvtf x => some (0x5B, x)
  | .cvtfi x => some (0x5C, x)
  | .cvtif x => some (0x5D, x)
  | .flgrd x => some (0x5E, x)
  | .flgclr x => some (0x5F, x)
  | .vote x => some (0x60, x)
  | .ballot x => some (0x61, x)
  | .shfl x => some (0x62, x)
  | .shflup x => some (0x63, x)
  | .shfldn x => some (0x64, x)
  | .shflx x => some (0x65, x)
  | .redx x => some (0x66, x)
  | .scanx x => some (0x67, x)
  | .matchLanes x => some (0x68, x)
  | .elect x => some (0x69, x)
  | .gbcast x => some (0x6A, x)
  | .conv x => some (0x6B, x)
  | .ld x => some (0x70, x)
  | .st x => some (0x71, x)
  | .lds x => some (0x72, x)
  | .sts x => some (0x73, x)
  | .ldk x => some (0x74, x)
  | .pref x => some (0x75, x)
  | .cctlL1line x => some (0x76, x)
  | .cctlL1all x => some (0x76, x)
  | .cctlDemote x => some (0x76, x)
  | .fence x => some (0x77, x)
  | .pfencePp x => some (0x78, x)
  | .pfenceDp x => some (0x78, x)
  | .atom x => some (0x79, x)
  | .atoms x => some (0x7A, x)
  | .red x => some (0x7B, x)
  | .reds x => some (0x7C, x)
  | .atomx x => some (0x7D, x)
  | .dflush x => some (0x7E, x)
  | .cas x => some (0x80, x)
  | .cass x => some (0x81, x)
  | .ecrd x => some (0x82, x)
  | .ecclr x => some (0x83, x)
  | .cpy x => some (0x90, x)
  | .cpyt x => some (0x91, x)
  | .cpyg x => some (0x92, x)
  | .seminit x => some (0x93, x)
  | .semacq x => some (0x94, x)
  | .semrel x => some (0x95, x)
  | .tbinit x => some (0x96, x)
  | .tbexp x => some (0x97, x)
  | .tbarr x => some (0x98, x)
  | .tbtst x => some (0x99, x)
  | .tbwait x => some (0x9A, x)
  | .bar x => some (0x9B, x)
  | .sgput x => some (0x9C, x)
  | .sgputWait x => some (0x9C, x)
  | .sgget x => some (0x9D, x)
  | .sggetErr x => some (0x9D, x)
  | .sgrel x => some (0x9E, x)
  | .mma x => some (0xA0, x)
  | .mmas x => some (0xA1, x)
  | .mtrn x => some (0xA2, x)
  | .mprm x => some (0xA3, x)
  | .mred x => some (0xA4, x)
  | .mldb x => some (0xA5, x)
  | .mstc x => some (0xA6, x)
  | .mzero x => some (0xA7, x)
  | .mqry x => some (0xA8, x)
  | .rkbind x => some (0xB0, x)
  | .rkray x => some (0xB1, x)
  | .rkqry x => some (0xB2, x)
  | .rksav x => some (0xB3, x)
  | .rkres x => some (0xB4, x)
  | .rkref x => some (0xB5, x)
  | .rkflsh x => some (0xB6, x)
  | .rkcan x => some (0xB7, x)
  | .binpop x => some (0xC0, x)
  | .rstq x => some (0xC1, x)
  | .rstqBin x => some (0xC1, x)
  | .frgld x => some (0xC2, x)
  | .rate x => some (0xC3, x)
  | .rgst x => some (0xC4, x)
  | .rgld x => some (0xC5, x)
  | .rgdone x => some (0xC6, x)
  | .pstat x => some (0xC7, x)
  | .bra x => some (0xD0, x)
  | .brx x => some (0xD1, x)
  | .call x => some (0xD2, x)
  | .callx x => some (0xD3, x)
  | .ret x => some (0xD4, x)
  | .launch x => some (0xD5, x)
  | .join x => some (0xD6, x)
  | .post x => some (0xD7, x)
  | .regroup x => some (0xD8, x)
  | .trap x => some (0xD9, x)
  | .srd x => some (0xDA, x)
  | .swr x => some (0xDB, x)
  | .twait x => some (0xDC, x)
  | .recx x => some (0xDD, x)
  | .eret x => some (0xDE, x)
  | .halt x => some (0xDF, x)
  | _ => none

/-- The forms that share an opcode are told apart by FN, or by the destination class (R211, R231, R242, R306). -/
def Instr.fnSelects : Instr → Bool
  | .cctlL1line x | .pfencePp x | .sgput x | .sgget x | .rstq x => x.fn == 0
  | .cctlL1all x | .pfenceDp x | .sgputWait x | .sggetErr x | .rstqBin x => x.fn == 1
  | .cctlDemote x => x.fn == 2
  | .fclassPredicate x => x.d.isPred
  | .fclass x => !x.d.isPred
  | _ => true

/-- The encoding rules of an instruction form: those of a standard form, the predicate code of BRP (R39, R320), and what a
bytecode's fields must hold: B with IMM[15:4] 0, a branch condition, a loop count of 11 bits (R341, R342). -/
def Instr.encodingOk (i : Instr) : Bool :=
  match i.stdForm with
  | some (opc, x) => x.ok opc && i.fnSelects
  | none => match i with
    | .brp code _ _ => decide (code.toNat ≤ 38)
    | .qAdd _ _ x i | .qSub _ _ x i | .qAnd _ _ x i | .qOr _ _ x i | .qShl _ _ x i | .qShr _ _ x i | .qSel _ _ x i
    | .qCmp _ _ x _ i => x || decide (i.toNat < 16)
    | .qBr _ c _ => c != 3
    | .qLoop _ n => decide (n.toNat < 2048)
    | _ => true

end Sys2Proof
end

