-- ==== Sys2Proof/WellFormed.lean ====
section
/-! DEFINITION. Well-formed instructions: those that an encoding can hold. -/

namespace Sys2Proof

/-- An instruction that no encoding rule refuses (R24 to R33, R39, R320). The checks are those of `Instr.encodingOk`;
a rake micro-word and a device event have no encoding rule beyond the widths of their fields. -/
def Instr.wf (i : Instr) : Bool := i.encodingOk

end Sys2Proof
end

