-- ==== Sys2Proof/Decode.lean ====
section
/-! DEFINITION. The decoders of the three word spaces (instruction forms, rake micro-words, queue bytecodes), total on
any words, and the encoder. -/

namespace Sys2Proof

/-- Row 0x00 of the opcode map (R43). -/
def row00 : List (Std → Instr) :=
  [.add, .sub, .addc, .subb, .mullo, .mulhi,
   .mad, .madw, .div, .rem, .min, .max,
   .abs, .neg, .addsat, .subsat]

/-- Row 0x10 of the opcode map (R43). -/
def row10 : List (Std → Instr) :=
  [.lea, .icmp, .sel, .mov, .clamp, .sad,
   .dot4, .dot2, .cvti, .bysel, .pack, .unpk,
   .avg]

/-- Row 0x20 of the opcode map (R43). -/
def row20 : List (Std → Instr) :=
  [.and, .or, .xor, .andn, .orn, .not,
   .logt, .shl, .shr, .sar, .rol, .ror,
   .fshl, .fshr, .bfe, .bfi]

/-- Row 0x30 of the opcode map (R43). -/
def row30 : List (Std → Instr) :=
  [.popc, .clz, .ctz, .brev, .bmsk, .plogt,
   .p2v, .v2p]

/-- Row 0x40 of the opcode map (R43). -/
def row40 : List (Std → Instr) :=
  [.fadd, .fsub, .fmul, .ffma, .fmin, .fmax,
   .fminm, .fmaxm, .fcmp, fun x => if x.d.isPred = true then .fclassPredicate x else .fclass x, .frnd, .ffrc,
   .fscl, .fexpt, .fcps]

/-- Row 0x50 of the opcode map (R43). -/
def row50 : List (Std → Instr) :=
  [.fdiv, .fsqrt, .frcp, .frsq, .fex2, .flg2,
   .fsin, .fcos, .ftanh, .fdotp2, .hfma2, .cvtf,
   .cvtfi, .cvtif, .flgrd, .flgclr]

/-- Row 0x60 of the opcode map (R43). -/
def row60 : List (Std → Instr) :=
  [.vote, .ballot, .shfl, .shflup, .shfldn, .shflx,
   .redx, .scanx, .matchLanes, .elect, .gbcast, .conv]

/-- Row 0x70 of the opcode map (R43). -/
def row70 : List (Std → Instr) :=
  [.ld, .st, .lds, .sts, .ldk, .pref,
   fun x => if x.fn = 0 then .cctlL1line x else if x.fn = 1 then .cctlL1all x else .cctlDemote x, .fence, fun x => if x.fn = 0 then .pfencePp x else .pfenceDp x, .atom, .atoms, .red,
   .reds, .atomx, .dflush]

/-- Row 0x80 of the opcode map (R43). -/
def row80 : List (Std → Instr) :=
  [.cas, .cass, .ecrd, .ecclr]

/-- Row 0x90 of the opcode map (R43). -/
def row90 : List (Std → Instr) :=
  [.cpy, .cpyt, .cpyg, .seminit, .semacq, .semrel,
   .tbinit, .tbexp, .tbarr, .tbtst, .tbwait, .bar,
   fun x => if x.fn = 0 then .sgput x else .sgputWait x, fun x => if x.fn = 0 then .sgget x else .sggetErr x, .sgrel]

/-- Row 0xA0 of the opcode map (R43). -/
def rowA0 : List (Std → Instr) :=
  [.mma, .mmas, .mtrn, .mprm, .mred, .mldb,
   .mstc, .mzero, .mqry]

/-- Row 0xB0 of the opcode map (R43). -/
def rowB0 : List (Std → Instr) :=
  [.rkbind, .rkray, .rkqry, .rksav, .rkres, .rkref,
   .rkflsh, .rkcan]

/-- Row 0xC0 of the opcode map (R43). -/
def rowC0 : List (Std → Instr) :=
  [.binpop, fun x => if x.fn = 0 then .rstq x else .rstqBin x, .frgld, .rate, .rgst, .rgld,
   .rgdone, .pstat]

/-- Row 0xD0 of the opcode map (R43). -/
def rowD0 : List (Std → Instr) :=
  [.bra, .brx, .call, .callx, .ret, .launch,
   .join, .post, .regroup, .trap, .srd, .swr,
   .twait, .recx, .eret, .halt]

/-- The forms of an opcode (R43); none where the map has rsv. -/
def formAt (opc : Nat) : Option (Std → Instr) :=
  let row : List (Std → Instr) := match opc / 16 with
    | 0 => row00 | 1 => row10 | 2 => row20 | 3 => row30 | 4 => row40 | 5 => row50 | 6 => row60 | 7 => row70
    | 8 => row80 | 9 => row90 | 10 => rowA0 | 11 => rowB0 | 12 => rowC0 | 13 => rowD0 | _ => []
  row[opc % 16]?

/-- The rows governed by the memory control byte: 0x70 to 0x7E and 0x80 to 0x83 (R33). -/
def memRow (opc : Nat) : Bool := (decide (0x70 ≤ opc ∧ opc < 0x7F)) || (decide (0x80 ≤ opc ∧ opc < 0x84))

/-- Whether the two words of a standard instruction signal a literal (R22). -/
def litSignalled (w0 w1 : Nat) : Bool :=
  !memRow (w0 % 256) && w1 / 2 ^ 19 % 4 == 3 && w1 % 256 == 255

/-- The number of words of the instruction that begins with `w0`, `w1` (R22, R43). -/
def wordCount (w0 w1 : Nat) : Nat :=
  if 0xE0 ≤ w0 % 256 then 1
  else if (formAt (w0 % 256)).isSome && litSignalled w0 w1 then 3 else 2

/-- A source field of a class, read for a slot of a kind (R24, R26, R188). -/
def parseSrc (k : SKind) (cls f : Nat) : Option Src :=
  match k with
  | .none => if cls = 0 ∧ f = 0 then some .none else none
  | .pred => if cls = 0 ∧ f < 128 then some (.pred (f / 64 == 1) (BitVec.ofNat 6 f)) else none
  | _ => match cls with
    | 0 => some (.v (BitVec.ofNat 8 f))
    | 1 => if f < 64 then some (.g (BitVec.ofNat 6 f)) else none
    | 2 => if f < 8 then some (.t (BitVec.ofNat 3 f)) else none
    | 3 => some (.imm (BitVec.ofNat 8 f))
    | _ => none

/-- A destination field of a class, read for a slot of a kind (R24). -/
def parseDst (k : DKind) (cls f : Nat) : Option Dst :=
  match k with
  | .none => if cls = 0 ∧ f = 0 then some .none else none
  | _ => match cls with
    | 0 => some (.v (BitVec.ofNat 8 f))
    | 1 => if f < 64 then some (.g (BitVec.ofNat 6 f)) else none
    | 2 => if f < 8 then some (.t (BitVec.ofNat 3 f)) else none
    | 3 => if f < 32 then some (.p (BitVec.ofNat 5 f)) else none
    | _ => none

/-- The C operand's constant bits as CVTF's slots need them before the slots are known (R220). -/
def rawCtl (w0 w1 : Nat) (w2 : Word) : Option Nat :=
  if memRow (w0 % 256) then none
  else if litSignalled w0 w1 then some w2.toNat
  else if w1 / 2 ^ 19 % 4 = 3 then some (w1 % 256) else none

/-- The source of slot `n` (0 A, 1 B): the literal where it stands for this slot, else its field (R25). -/
def parseSlot (g : Sig) (lit : Bool) (n : Nat) (k : SKind) (cls f : Nat) (w2 : Word) : Option Src :=
  if lit && g.litSlot == some n then (if cls = 0 ∧ f = 0 then some (.lit w2) else none) else parseSrc k cls f

/-- The content of a standard or literal form read by its slots (R23 to R26, R33); none where a field breaks them. -/
def parseStd (g : Sig) (w0 w1 : Nat) (w2 : Word) : Option Std :=
  let lit := litSignalled w0 w1
  let scl := w1 / 2 ^ 15 % 64
  let cF := w1 % 256
  let c : Option Src :=
    if memRow (w0 % 256) then (if scl / 16 = 0 then some .none else none)
    else if lit then
      match g.litSlot with
      | some 2 => some (.lit w2)
      | some _ => some .none
      | none => none
    else parseSrc g.c (scl / 16) cF
  match parseDst g.d (w1 / 2 ^ 21 % 4) (w0 / 256 % 256), parseSlot g lit 0 g.a (scl % 4) (w0 / 65536 % 256) w2,
      parseSlot g lit 1 g.b (scl / 4 % 4) (w0 / 2 ^ 24 % 256) w2, c with
  | some d, some a, some b, some c =>
    some { fn := BitVec.ofNat 6 (w1 / 2 ^ 26), emp := BitVec.ofNat 3 (w1 / 2 ^ 23), gneg := w1 / 2 ^ 14 % 2 == 1,
           grd := BitVec.ofNat 6 (w1 / 256), d := d, a := a, b := b, c := c,
           ctl := if memRow (w0 % 256) then BitVec.ofNat 8 cF else 0 }
  | _, _, _, _ => none

/-- A standard or literal instruction from its words (R22 to R33, R43); none is an illegal instruction (R39). -/
def decodeStd (w0 w1 w2 : Word) : Option Instr :=
  let n0 := w0.toNat
  let n1 := w1.toNat
  match formAt (n0 % 256), sigOf (n0 % 256) (n1 / 2 ^ 26) (n1 / 2 ^ 23 % 8) (n1 / 2 ^ 21 % 4 == 3) (rawCtl n0 n1 w2) with
  | some mk, some g => match parseStd g n0 n1 w2 with
    | some x => if x.ok (n0 % 256) && (mk x).fnSelects then some (mk x) else none
    | none => none
  | _, _ => none

/-- The words of a short form (R320). -/
def shortWord : Instr → Option Nat
  | .nop => some 0xE0
  | .wait n sel => some (n.toNat * 65536 + sel.toNat * 256 + 0xE1)
  | .yield => some 0xE2
  | .exit => some 0xE3
  | .brs off => some (off.toNat * 256 + 0xE4)
  | .brp code neg off => some (code.toNat * 2 ^ 26 + neg.toNat * 2 ^ 25 + off.toNat * 256 + 0xE5)
  | .movi imm d => some (imm.toNat * 65536 + d.toNat * 256 + 0xE6)
  | .bkpt code => some (code.toNat * 256 + 0xE7)
  | _ => none

/-- The short form whose fields a word would hold; the reserved bits are not yet examined (R320). -/
def shortShape (w : Nat) : Option Instr :=
  match w % 256 with
  | 0xE0 => some .nop
  | 0xE1 => some (.wait (BitVec.ofNat 6 (w / 65536)) (BitVec.ofNat 8 (w / 256)))
  | 0xE2 => some .yield
  | 0xE3 => some .exit
  | 0xE4 => some (.brs (BitVec.ofNat 24 (w / 256)))
  | 0xE5 => some (.brp (BitVec.ofNat 6 (w / 2 ^ 26)) (w / 2 ^ 25 % 2 == 1) (BitVec.ofNat 17 (w / 256)))
  | 0xE6 => some (.movi (BitVec.ofNat 16 (w / 65536)) (BitVec.ofNat 8 (w / 256)))
  | 0xE7 => some (.bkpt (BitVec.ofNat 8 (w / 256)))
  | _ => none

/-- A short form from its word; any reserved bit that is 1, or a predicate code above 38, makes it illegal (R320). -/
def decodeShort (w : Word) : Option Instr :=
  match shortShape w.toNat with
  | some i => if shortWord i = some w.toNat && i.encodingOk then some i else none
  | none => none

/-- One instruction of a run from the words that begin with it, and the number of its words. A literal or second word
beyond the list is read as 0; R15 refuses such a run before anything is decoded. -/
def decodeRunWord (ws : List Word) : Option Instr × Nat :=
  let w0 := ws.getD 0 0
  let w1 := ws.getD 1 0
  let n := wordCount w0.toNat w1.toNat
  (if n = 1 then decodeShort w0 else decodeStd w0 w1 (if n = 3 then ws.getD 2 0 else 0), n)

/-- The word of a rake micro-word (R275, R276). -/
def microWord : Instr → Option Nat
  | .rkNld a => some (a.toNat * 2 ^ 22)
  | .rkFex d f e => some (1 * 2 ^ 28 + d.toNat * 2 ^ 25 + f.toNat * 2 ^ 15 + e.toNat * 2 ^ 11)
  | .rkBox d f => some (2 * 2 ^ 28 + d.toNat * 2 ^ 25 + f.toNat * 2 ^ 15)
  | .rkTri d f => some (3 * 2 ^ 28 + d.toNat * 2 ^ 25 + f.toNat * 2 ^ 15)
  | .rkPtd d a f => some (4 * 2 ^ 28 + d.toNat * 2 ^ 25 + a.toNat * 2 ^ 22 + f.toNat * 2 ^ 15)
  | .rkEed d a f e => some (5 * 2 ^ 28 + d.toNat * 2 ^ 25 + a.toNat * 2 ^ 22 + f.toNat * 2 ^ 15 + e.toNat * 2 ^ 11)
  | .rkCmpf a b x => some (6 * 2 ^ 28 + a.toNat * 2 ^ 22 + b.toNat * 2 ^ 19 + x.toNat * 2 ^ 8)
  | .rkJmp t => some (7 * 2 ^ 28 + t.toNat)
  | .rkJc x t => some (8 * 2 ^ 28 + x.toNat * 2 ^ 8 + t.toNat)
  | .rkEnq a b => some (9 * 2 ^ 28 + a.toNat * 2 ^ 22 + b.toNat * 2 ^ 19)
  | .rkNext a => some (10 * 2 ^ 28 + a.toNat * 2 ^ 22)
  | .rkNextChild => some (10 * 2 ^ 28 + 2 ^ 8)
  | .rkHmin a b => some (11 * 2 ^ 28 + a.toNat * 2 ^ 22 + b.toNat * 2 ^ 19)
  | .rkEmit a => some (12 * 2 ^ 28 + a.toNat * 2 ^ 22)
  | .rkYld => some (13 * 2 ^ 28)
  | .rkDone f => some (14 * 2 ^ 28 + f.toNat * 2 ^ 8)
  | .rkFlt code => some (15 * 2 ^ 28 + code.toNat)
  | _ => none

/-- The micro-word whose fields a word would hold; the unused fields are not yet examined (R275, R276). -/
def microShape (w : Nat) : Option Instr :=
  let d := BitVec.ofNat 3 (w / 2 ^ 25)
  let a := BitVec.ofNat 3 (w / 2 ^ 22)
  let b := BitVec.ofNat 3 (w / 2 ^ 19)
  let f := BitVec.ofNat 4 (w / 2 ^ 15)
  let e := BitVec.ofNat 4 (w / 2 ^ 11)
  let x := w / 256 % 8
  let imm := BitVec.ofNat 8 w
  match w / 2 ^ 28 with
  | 0 => some (.rkNld a)
  | 1 => some (.rkFex d f e)
  | 2 => some (.rkBox d f)
  | 3 => some (.rkTri d f)
  | 4 => some (.rkPtd d a f)
  | 5 => some (.rkEed d a f e)
  | 6 => some (.rkCmpf a b (BitVec.ofNat 2 x))
  | 7 => some (.rkJmp imm)
  | 8 => some (.rkJc (x % 2 == 1) imm)
  | 9 => some (.rkEnq a b)
  | 10 => some (if x = 0 then .rkNext a else .rkNextChild)
  | 11 => some (.rkHmin a b)
  | 12 => some (.rkEmit a)
  | 13 => some .rkYld
  | 14 => some (.rkDone (x % 2 == 1))
  | 15 => some (.rkFlt imm)
  | _ => none

/-- A rake micro-word; a nonzero unused field or an unlisted X makes it illegal (R275). -/
def decodeMicro (w : Word) : Option Instr :=
  match microShape w.toNat with
  | some i => if microWord i = some w.toNat then some i else none
  | none => none

/-- A bytecode word from its fields (R341). -/
def qword (op d a x imm : Nat) : Nat := op * 2 ^ 27 + d * 2 ^ 23 + a * 2 ^ 19 + x * 2 ^ 16 + imm

/-- The word of a queue bytecode (R341, R342). -/
def queueWord : Instr → Option Nat
  | .qLdw d a w i => some (qword 0 d.toNat a.toNat w.toNat i.toNat)
  | .qStw d a w i => some (qword 1 d.toNat a.toNat w.toNat i.toNat)
  | .qMovi d i => some (qword 2 d.toNat 0 0 i.toNat)
  | .qMoviHi d i => some (qword 2 d.toNat 0 1 i.toNat)
  | .qAdd d a x i => some (qword 3 d.toNat a.toNat (x.toNat * 4) i.toNat)
  | .qSub d a x i => some (qword 4 d.toNat a.toNat (x.toNat * 4) i.toNat)
  | .qAnd d a x i => some (qword 5 d.toNat a.toNat (x.toNat * 4) i.toNat)
  | .qOr d a x i => some (qword 6 d.toNat a.toNat (x.toNat * 4) i.toNat)
  | .qShl d a x i => some (qword 7 d.toNat a.toNat (x.toNat * 4) i.toNat)
  | .qShr d a x i => some (qword 8 d.toNat a.toNat (x.toNat * 4) i.toNat)
  | .qCmp d a x c i => some (qword 9 d.toNat a.toNat (x.toNat * 4 + c.toNat) i.toNat)
  | .qSel d a x i => some (qword 10 d.toNat a.toNat (x.toNat * 4) i.toNat)
  | .qBr a c i => some (qword 11 0 a.toNat c.toNat i.toNat)
  | .qLoop body n => some (qword 12 (body.toNat / 16) (body.toNat % 16) 0 n.toNat)
  | .qDispatch d a w t => some (qword 13 d.toNat a.toNat w.toNat t.toNat)
  | .qNode d a n g => some (qword 14 d.toNat a.toNat n.toNat g.toNat)
  | .qWaitw d a geu w i => some (qword 15 d.toNat a.toNat (geu.toNat * 4 + w.toNat) i.toNat)
  | .qSignal d a w i => some (qword 16 d.toNat a.toNat w.toNat i.toNat)
  | .qFence => some (qword 17 0 0 0 0)
  | .qPostrd d i => some (qword 18 d.toNat 0 0 i.toNat)
  | .qPostrdWait d i => some (qword 18 d.toNat 0 1 i.toNat)
  | .qTimeat a => some (qword 19 0 a.toNat 0 0)
  | .qIntr a i => some (qword 20 0 a.toNat 0 i.toNat)
  | .qErr i => some (qword 21 0 0 0 i.toNat)
  | .qHalt => some (qword 22 0 0 0 0)
  | .qNopb => some (qword 23 0 0 0 0)
  | _ => none

/-- The bytecode whose fields a word would hold; the unused fields are not yet examined (R341, R342). -/
def queueShape (w : Nat) : Option Instr :=
  let d := BitVec.ofNat 4 (w / 2 ^ 23)
  let a := BitVec.ofNat 4 (w / 2 ^ 19)
  let x := w / 2 ^ 16 % 8
  let x2 := x / 4 == 1
  let k := BitVec.ofNat 2 x
  let i := BitVec.ofNat 16 w
  match w / 2 ^ 27 with
  | 0 => some (.qLdw d a k i)
  | 1 => some (.qStw d a k i)
  | 2 => some (if x = 0 then .qMovi d i else .qMoviHi d i)
  | 3 => some (.qAdd d a x2 i)
  | 4 => some (.qSub d a x2 i)
  | 5 => some (.qAnd d a x2 i)
  | 6 => some (.qOr d a x2 i)
  | 7 => some (.qShl d a x2 i)
  | 8 => some (.qShr d a x2 i)
  | 9 => some (.qCmp d a x2 k i)
  | 10 => some (.qSel d a x2 i)
  | 11 => some (.qBr a k i)
  | 12 => some (.qLoop (BitVec.ofNat 8 (w / 2 ^ 19)) i)
  | 13 => some (.qDispatch d a k (BitVec.ofNat 4 w))
  | 14 => some (.qNode d a k (BitVec.ofNat 4 w))
  | 15 => some (.qWaitw d a x2 k i)
  | 16 => some (.qSignal d a k i)
  | 17 => some .qFence
  | 18 => some (if x = 0 then .qPostrd d (BitVec.ofNat 3 w) else .qPostrdWait d (BitVec.ofNat 3 w))
  | 19 => some (.qTimeat a)
  | 20 => some (.qIntr a i)
  | 21 => some (.qErr i)
  | 22 => some .qHalt
  | 23 => some .qNopb
  | _ => none

/-- A queue bytecode word; a reserved operation or a nonzero unused field makes it illegal (R341, R342). -/
def decodeQueue (w : Word) : Option Instr :=
  match queueShape w.toNat with
  | some i => if queueWord i = some w.toNat && i.encodingOk then some i else none
  | none => none

/-- The class and field of a source operand; a literal leaves its slot at class 00 and field 0 (R24, R25, R26). -/
def srcBits : Src → Nat × Nat
  | .none => (0, 0)
  | .v n => (0, n.toNat)
  | .g n => (1, n.toNat)
  | .t n => (2, n.toNat)
  | .imm i => (3, i.toNat)
  | .lit _ => (0, 0)
  | .pred neg code => (0, neg.toNat * 64 + code.toNat)

/-- The class and field of a destination operand (R24). -/
def dstBits : Dst → Nat × Nat
  | .none => (0, 0)
  | .v n => (0, n.toNat)
  | .g n => (1, n.toNat)
  | .t n => (2, n.toNat)
  | .p n => (3, n.toNat)

/-- The literal word of a form, where one of its sources is the literal. -/
def Std.litWord (x : Std) : Option Word :=
  match x.a, x.b, x.c with
  | .lit w, _, _ => some w
  | _, .lit w, _ => some w
  | _, _, .lit w => some w
  | _, _, _ => none

/-- The words of a standard or literal form (R23). -/
def encodeStd (opc : Nat) (x : Std) : List Word :=
  let c := match x.litWord with
    | some _ => (3, 255)
    | none => if memRow opc then (0, x.ctl.toNat) else srcBits x.c
  let w0 := opc + (dstBits x.d).2 * 256 + (srcBits x.a).2 * 65536 + (srcBits x.b).2 * 2 ^ 24
  let w1 := c.2 + x.grd.toNat * 256 + x.gneg.toNat * 2 ^ 14 + (srcBits x.a).1 * 2 ^ 15 + (srcBits x.b).1 * 2 ^ 17 +
    c.1 * 2 ^ 19 + (dstBits x.d).1 * 2 ^ 21 + x.emp.toNat * 2 ^ 23 + x.fn.toNat * 2 ^ 26
  [BitVec.ofNat 32 w0, BitVec.ofNat 32 w1] ++ x.litWord.toList

/-- The words of an instruction form, a micro-word or a bytecode; a device event has none. -/
def encode (i : Instr) : List Word :=
  match i.stdForm with
  | some (opc, x) => encodeStd opc x
  | none => match shortWord i with
    | some w => [BitVec.ofNat 32 w]
    | none => match microWord i with
      | some w => [BitVec.ofNat 32 w]
      | none => match queueWord i with
        | some w => [BitVec.ofNat 32 w]
        | none => []

/-- What the decoder reads from an instruction's bits, the first word lowest. The three word spaces of the device overlap
as numbers (log 5): a 32-bit word is read as a micro-word where it is one, else as an instruction form, else as a queue
bytecode, and any other as an instruction form whose later words hold the higher bits. -/
def decodeTableWord (_nbits w : Nat) : Option Instr :=
  let w0 : Word := BitVec.ofNat 32 w
  let long := decide (2 ^ 32 ≤ w)
  let asIsa := (decodeRunWord [w0, BitVec.ofNat 32 (w / 2 ^ 32), BitVec.ofNat 32 (w / 2 ^ 64)]).1
  if long then asIsa
  else match decodeMicro w0 with
    | some i => some i
    | none => match decodeShort w0 with
      | some i => some i
      | none => match decodeQueue w0 with
        | some i => some i
        | none => asIsa

end Sys2Proof
end

