-- ==== Sys2Proof/Config.lean ====
section
/-! DEFINITION. What the device fixes and the spec does not state: the free values. None has a body, so that no proof
can see a value of it. -/

namespace Sys2Proof.Config

/-- Whether a register write that a run boundary overtook, and that no trailer names, is still in flight when a later run
touches the register (R38, log 8). -/
opaque stillInFlight : Nat → Bool

/-- Which single bytes of misaligned accesses a bed accepts first, as a mask over a request's pieces (R109, log 104). -/
opaque freeBytes : Nat → Nat

/-- UNIT, INST and SUB of an error-log record whose kind names no unit: data fault, fatal program fault, context lost,
pan power loss (R386, log 26). -/
opaque noUnit : BitVec 20

/-- The group identifier within the grid that a fault record carries, from the team and team group numbers (R63, R76): its
coding is not stated (log 28). -/
opaque groupId : Nat → Nat → BitVec 32

/-- What a bank cell holds, outside a ZI command's rows and columns, once that command has changed the bank's mode (R259): the
spec does not say how cells of the two modes overlay (log 30). -/
opaque recoded : Nat → Nat → Nat

/-- CMD and UNIT of the calibrated costs EC0 to EC18, set at manufacture (R368, log 17). -/
opaque ecCmd : Nat → BitVec 32
opaque ecUnit : Nat → BitVec 32

/-- A partition's measured draw outside its pans, in W, and the package draw, in W (R367, R369, log 22). -/
opaque drawOutside : Nat → Nat
opaque packageDraw : Nat → Nat

/-- Packets and payload bytes of a coded strip, which the encoder's bit stream decides (R303, R391, log 112). -/
opaque codedPackets : Nat → Nat
opaque codedBytes : Nat → Nat

/-- The byte of a 32 KiB SRAM segment that an uncorrectable error has struck; and the bank and the buffer's quarter that one of a matrix
array has struck, where it has struck a B buffer: an error report does not say (R264, R386, log 110). -/
opaque sramByte : Nat → Nat
opaque bufferHit : Nat → Option (Nat × Nat)

/-- The word address in a pan image of a word of a group slot, 255 for the pan: the layout is not stated (R376, R378, log 114). -/
opaque imageWord : Nat → Nat → BitVec 20

/-- Whether an uncorrectable error of a shadow bank has struck the image of a sealed context: the layout of an image over the
banks is not stated (R376, R389, log 23). -/
opaque imageHit : Nat → Nat → Bool

/-- The units that fail the self-test of a whole pan, as FEN_PAN holds them (R384, R388, log 23). -/
opaque failingUnits : Nat → BitVec 32

/-- Whether the boot self-test passes (R388, R401, log 23). -/
opaque bootTest : Nat → Bool

/-- The fused minimum version of a firmware image (R401, log 13). -/
opaque minVersion : Nat

/-- The device identifier (R395, R400, log 13). -/
opaque deviceId : BitVec 64

/-- The key that a partition's nonce gives (R399, log 13). -/
opaque partKey : List Byte → Nat

/-- SHA-384 of some bytes, and the signature of a quote, from the firmware digest and the nonce (R400, log 13). -/
opaque sha384 : List Byte → List Byte
opaque signQuote : Nat → List Byte → List Byte → List Byte

/-- The device register at a physical address, with its width in bytes: the addresses are not stated (log 12). -/
opaque regAt : Nat → Option (Reg × Nat)

/-- The announce interval, in ns (R355, log 36). -/
opaque announceInterval : Nat

end Sys2Proof.Config
end

