-- ==== Sys2Proof/Machine/State.lean ====
section
/-! DEFINITION. The state of the device as plain data, and the state right after reset. -/

namespace Sys2Proof.Machine

/-- What stops the machine with a fault: nothing. Every fault of the spec is a next state: a trap routine entered, a
group waiting, a slot torn down, or a status (R372). -/
inductive Fault where
  deriving DecidableEq, Repr

/-- Why an instruction has no meaning. -/
inductive Refusal where
  /-- Raised by an arm of `exec` whose row has no meaning yet. Safe: nothing is claimed of the row. -/
  | notModelled (mnemonic : String)
  deriving DecidableEq, Repr

/-- Memory: bytes by physical address, ascending, none listed that equals what an unlisted byte reads as (log 4). -/
abbrev Memory := List Host.Cell

/-- The role of a group (R154). -/
inductive Role where
  | feed | matrix | vector | control
  deriving DecidableEq, Repr

/-- What a group is known by wherever it stands: partition, grid, team number in the grid, team group number. -/
structure GKey where
  part : Nat
  grid : Nat
  team : Nat
  num : Nat
  deriving DecidableEq, Repr

/-- Whether a thread can be chosen, waits, or has ended (R161). -/
inductive ThState where
  | runnable | parked | exited
  deriving DecidableEq, Repr

/-- What a parked thread waits for: the members of a cross-lane instruction, with its place, mask, operands and issue (R227); a
REGROUP, with its key (R170); a BAR, with its id and role mask (R251); or, at a JOIN, first EV and then the children (R326). -/
inductive Park where
  | lanes (addr pos : Nat) (mask : Word) (a b : DWord) (issue : Nat)
  | regroup (key : Word)
  | bar (id mask addr pos : Nat)
  | joinEv
  | join
  deriving DecidableEq, Repr

/-- A scope note (R85, R100): its scope and the releasing pan, team slot and group slot. -/
structure Note where
  scope : Nat
  pan : Nat
  team : Nat
  slot : Nat
  deriving DecidableEq, Repr

/-- One thread (R161, R165, R319, R330, R331). A register that the table does not list is 0. `entry` is none before a
run whose header is not begun; `relFence` is the scope of the release fence in force, `seen` the notes that came back with
its strong reads since its last FENCE, each with the address read (R119). -/
structure Thread where
  st : ThState := .runnable
  addr : Nat := 0
  entry : Option Nat := none
  mode : Bool := false
  pass : Nat := 0
  v : Tbl Word := []
  ve : BitVec 256 := 0
  p : BitVec 32 := 0
  pe : BitVec 32 := 0
  flags : BitVec 5 := 0
  rng : DWord := 0
  t : Tbl Word := []
  stack : List Nat := []
  xpc : DWord := 0
  xpos : Word := 0
  xcause : Word := 0
  xinfo : DWord := 0
  xlanes : Word := 0
  tsave : Tbl Word := []
  park : Option Park := none
  relFence : Option Nat := none
  seen : List (Nat × Note) := []
  deriving DecidableEq, Repr

/-- The eight counters of a group (R34), each 0 to 63. -/
structure Counters where
  ld : Nat := 0
  st : Nat := 0
  cp : Nat := 0
  mx : Nat := 0
  gt : Nat := 0
  cl : Nat := 0
  gr : Nat := 0
  ev : Nat := 0
  deriving DecidableEq, Repr

/-- The run in progress (R13, R21): header address, CLASS, YLD, the registers its trailer names (none without TRL), its
words, the position of the next instruction, its thread set, and the results that it has written to v-registers so far: lane,
first register and how many (R38). -/
structure RunIn where
  addr : Nat
  cls : Nat := 0
  yld : Bool := false
  trl : Option (List Nat) := none
  words : List Word := []
  pos : Nat := 0
  set : BitVec 32 := 0
  wrote : List (Nat × Nat × Nat) := []
  deriving DecidableEq, Repr

/-- The choice of R161 that has been made and whose run has not begun, with WAITSEL and WAITN of its header once that
has been read (R14). -/
structure Choice where
  addr : Nat
  entry : Option Nat
  mode : Bool
  set : BitVec 32
  wait : Option (Nat × Nat) := none
  deriving DecidableEq, Repr

/-- Where a group slot stands (R163). FREE is the absence of a group, SEALED a context in brine. -/
inductive GState where
  | bound | run | hwait | park | faultw
  deriving DecidableEq, Repr

/-- What one lane of an outstanding issue still waits for, and what it has gathered so far: the value, the flags raised, the notes. -/
structure LaneWait where
  acc : Nat := 0
  left : Nat := 1
  flags : Nat := 0
  notes : List (Nat × Note) := []
  deriving DecidableEq, Repr

/-- How the value of a returning lane becomes register bits: as it is, sign-extended from 8 or 16 bits, or a predicate. -/
inductive Ext where
  | zero | sext8 | sext16
  deriving DecidableEq, Repr

/-- An outstanding counted issue (R34, R35): its number, counter, place, destination and width in registers, the lane
whose value a g-register takes (R166), the lanes still waiting; whether its destinations are written only once every lane
has its value (an acquiring access of several lines, R418); for a TBWAIT its words, by which its run goes on once the phase
is complete (R250); the address at which its scope check failed, and that of an uncorrectable datum it met (R240). -/
structure Issue where
  id : Nat
  ctr : Option Ctr
  addr : Nat := 0
  pos : Nat := 0
  dst : Dst := .none
  regs : Nat := 1
  ext : Ext := .zero
  top : Nat := 0
  lanes : Tbl LaneWait := []
  whole : Bool := false
  wait : Option Nat := none
  failed : Option Nat := none
  bad : Option Nat := none
  deriving DecidableEq, Repr

/-- The hold of an acquiring access, or of one to a coded page (R75, R418): its issue, its place, and the threads that execute and are
active for it. `bed` says that it ends once every home bed has accepted the access, and else that it ends with the issue. -/
structure Hold where
  issue : Nat
  addr : Nat
  pos : Nat
  set : BitVec 32
  act : BitVec 32
  bed : Bool := false
  deriving DecidableEq, Repr

/-- What a page walk ended with for a group that waits on it: the page, and the fault it met (R53, R60): KIND and LEVEL of
R63, and the entry read. -/
structure WalkFault where
  vpn : Nat
  kind : Nat
  level : Nat
  entry : Nat
  deriving DecidableEq, Repr

/-- A quarter of B: its data bytes, its AUX count and its aux bytes (R254, R257), and whether a datum of it is uncorrectable (R264).
Bytes beyond a list are 0. -/
structure BQuarter where
  data : List Byte := []
  aux : Nat := 0
  auxb : List Byte := []
  bad : Bool := false
  deriving DecidableEq, Repr

/-- The accumulator bank of a MATRIX group (R254): its mode, its cells by 64 × row + column (those not listed are +0), its B
buffers' quarters by 4 × BBUF + quarter, its status word, its failed commands since the last clear, and SEQ. -/
structure MxBank where
  mode64 : Bool := false
  cells : Tbl Nat := []
  bufs : Tbl BQuarter := []
  status : Nat := 0
  failed : Nat := 0
  seq : Nat := 0
  deriving DecidableEq, Repr

/-- A quarter of B that a group has sent and that has not been broadcast (R257), with the retirement count that must be durable first
(R129). -/
structure BArrival where
  bbuf : Nat
  b : BQuarter
  issue : Nat
  lanes : List Nat
  rc : Nat := 0
  deriving DecidableEq, Repr

/-- A command of a matrix array (R254, R255): whose it is, its opcode and FN, bytes 0 to 47 of its parameter block with that
block's offset, the team's scratchpad base and size, and whether it has been admitted. -/
structure MxCmd where
  gk : GKey
  slot : Nat
  team : Nat
  part : Nat
  cls : Nat := 0
  issue : Nat
  lanes : List Nat
  addr : Nat
  pos : Nat
  rc : Nat := 0
  opc : Nat
  fn : Nat := 0
  desc : Nat := 0
  off : Nat := 0
  base : Nat
  size : Nat
  admitted : Bool := false
  deriving DecidableEq, Repr

/-- A group in its slot (R151, R163, R165). `blocks` are the coded blocks whose fills it has been told of, each with the
cause of its block fault or none (R75), `blockWait` says that its FAULTW is for a block fault (R77), and
`posted` counts the records of that ring up to its own, with which it waits (R64, R77); `flush` says that the closes or persist requests of the DFLUSH, FENCE or PFENCE at
which it stands have gone out (R133, R239); `pwait` is the retirement count that must be durable before it issues again
(R133); `watching` says that it stands at a TBWAIT whose phase was found incomplete (R104). -/
structure Group where
  team : Nat
  num : Nat
  role : Role
  bank : Nat := 0
  st : GState := .bound
  active : Bool := true
  readySince : Nat := 0
  activeSince : Nat := 0
  g : Tbl Word := []
  ge : BitVec 64 := 0
  ctr : Counters := {}
  choice : Option Choice := none
  run : Option RunIn := none
  overtaken : List (Nat × Nat) := []
  issues : List Issue := []
  hold : Option Hold := none
  walks : List WalkFault := []
  blocks : List (Nat × Option Nat) := []
  blockWait : Bool := false
  posted : Nat := 0
  flush : Bool := false
  pwait : Nat := 0
  watching : Bool := false
  children : Nat := 0
  dline : DWord := 0
  rung : Nat := 0
  mx : MxBank := {}
  barr : List BArrival := []
  th : Tbl Thread := []
  deriving DecidableEq, Repr

/-- A group that JOIN has sealed and swapped out (R326). -/
structure Joined where
  gk : GKey
  g : Group
  deriving DecidableEq, Repr

/-- A team in its slot (R152, R154): its grid and number, class, partition, address-space slot, scratchpad base and size,
the v-register budget of each role, the trap routine's address. -/
structure Team where
  grid : Nat
  num : Nat
  part : Nat
  slot : Nat
  cls : Nat := 0
  base : Nat := 0
  size : Nat := 0
  fused : Bool := false
  l1seg : Nat := 8
  feedRegs : Nat := 64
  matrixRegs : Nat := 64
  vectorRegs : Nat := 64
  controlRegs : Nat := 64
  trapva : Nat := 0
  deriving DecidableEq, Repr

/-- A slot of a stage ring (R149). -/
inductive RingSt where
  | empty | full | held
  deriving DecidableEq, Repr

/-- A stage ring of a team (R149): where it lies, its indices, each slot's state and phase, and its error bit. -/
structure Ring where
  base : Nat
  slotb : Nat
  put : Nat := 0
  get : Nat := 0
  slots : List (RingSt × Nat) := []
  err : Bool := false
  deriving DecidableEq, Repr

/-- The event queue of a pan controller (R148): EVQ_CFG, records posted and consumed, and the records not yet consumed. -/
structure EvQueue where
  semen : Bool := false
  sem : Nat := 0
  head : Nat := 0
  tail : Nat := 0
  recs : List (List Byte) := []
  deriving DecidableEq, Repr

/-- A sluice command's share of one issue (R142 to R145): whose it is, its opcode (0 CPY, 1 CPYT, 2 CPYG), its descriptor as
one number, the team's scratchpad base and size, and whether the descriptor breaches its layout. -/
structure Slice where
  gk : GKey
  slot : Nat
  team : Nat
  part : Nat
  asSlot : Nat
  cls : Nat := 0
  issue : Nat
  lanes : List Nat
  addr : Nat
  pos : Nat
  rc : Nat := 0
  op : Nat
  desc : Nat
  base : Nat
  size : Nat
  bad : Bool := false
  mismatch : Bool := false
  deriving DecidableEq, Repr

/-- An entry of the assembly table: team slot and SLOT, the count fixed by its first slice, its slices; of a team that has been sealed, its
key in place of the slot (R142). -/
structure AsmEntry where
  team : Nat
  slot : Nat
  count : Nat
  slices : List Slice
  away : Option GKey := none
  deriving DecidableEq, Repr

/-- Where a sluice reads from: scratchpad, global memory, or bytes of its own. -/
inductive MoveSrc where
  | scratch (off : Nat)
  | glob (va : Nat)
  | bytes (bs : List Byte)
  deriving DecidableEq, Repr

/-- One part of a copy (R142 to R144): its source, whether its destination is global, where that lies, and its length. -/
structure Move where
  src : MoveSrc
  toGlobal : Bool
  dst : Nat
  len : Nat
  deriving DecidableEq, Repr

/-- A part of a copy that a peer device is to answer (R396): the request's number, the part, and whether it reads. -/
structure RemoteMove where
  id : Nat
  m : Move
  read : Bool
  deriving DecidableEq, Repr

/-- What a sluice's slice waits for: its pre-pass, a page (XFR_RETRY), a block (XPR_RETRY), or nothing: it copies, awaits
its peer's answers, or has ended with a status (R146, R396). -/
inductive SliceSt where
  | fresh | page | block (va : Nat) | ready | remote (ms : List RemoteMove) (bytes : Nat) | ended (status errva bytes : Nat)
  deriving DecidableEq, Repr

/-- A slice in a sluice, with the moves that are still to be made, its out-of-range indices, the leaves of its pages, the number from which
on its accesses are new, the bytes that it has written and what its peers are to answer (R61, R146, R396). -/
structure SliceRun where
  slice : Slice
  st : SliceSt := .fresh
  moves : List Move := []
  oob : Nat := 0
  leaves : List (Nat × Nat) := []
  since : Nat := 0
  done : Nat := 0
  asked : List RemoteMove := []
  deriving DecidableEq, Repr

/-- The end of a graphics command (R305, R314): what D receives, none where it keeps its value; its status; bytes written; the address
that failed, and whether a fatal fault ended it. -/
structure GfxEnd where
  d : Option Nat := none
  status : Nat := 0
  bytes : Nat := 0
  errva : Nat := 0
  fatal : Bool := false
  deriving DecidableEq, Repr

/-- A graphics command in flight (R305, R314): whose it is, its opcode, FN and operands, whether it has been admitted,
what it waits for (1 a block, 2 that block's FAIL), and how a fatal fault has ended it while its record waits for room (R148). -/
structure GfxCmd where
  gk : GKey
  slot : Nat
  team : Nat
  part : Nat
  asSlot : Nat
  cls : Nat := 0
  issue : Nat
  lanes : List Nat
  addr : Nat
  pos : Nat
  rc : Nat := 0
  opc : Nat
  fn : Nat := 0
  a : Nat := 0
  b : Nat := 0
  base : Nat
  size : Nat
  admitted : Bool := false
  wait : Nat := 0
  fin : Option GfxEnd := none
  deriving DecidableEq, Repr

/-- A command in the rake queue (R283): whose it is, its opcode and binding slot, each active lane's operands, the bytes it
read from scratchpad at issue with their offset, and for RKBIND and RKREF how far it has got: the nodes whose skip links have been
checked, the node it goes on at, the nodes written, and what it waits for (1 a block, 2 that block's FAIL). -/
structure RkCmd where
  gk : GKey
  slot : Nat
  team : Nat
  part : Nat
  asSlot : Nat
  cls : Nat := 0
  issue : Nat
  lanes : List Nat
  addr : Nat
  pos : Nat
  rc : Nat := 0
  opc : Nat
  bslot : Nat := 0
  args : Tbl (List Nat) := []
  desc : Nat := 0
  off : Nat := 0
  base : Nat := 0
  charged : Bool := false
  checked : Nat := 0
  next : Option Nat := none
  wrote : Nat := 0
  nan : Bool := false
  wait : Nat := 0
  deriving DecidableEq, Repr

/-- A bound context (R267): its identity, and the program, layout words, tables and areas of its descriptor. -/
structure RkBind where
  part : Nat
  asSlot : Nat
  ctx : Nat := 0
  progid : Nat := 0
  layid : Nat := 0
  prog : List Word := []
  lay : List Nat := []
  trees : Nat := 0
  raytab : Nat := 0
  out : Nat := 0
  save : Nat := 0
  ntree : Nat := 0
  nq : Nat := 0
  cap : Nat := 0
  stepcap : Nat := 0
  slog : Nat := 0
  deriving DecidableEq, Repr

/-- Where a visit stands (R272, R278, R279, R290): it waits for admission; its node is being read, with the micro-PC and
whether the read is part of a step; it can step; it is to be saved, with CAUSE, UCODE and FVA; or its record is written and
its event is still to be posted. -/
inductive VisitSt where
  | entering
  | reading (node mpc : Nat) (step : Bool)
  | ready
  | saving (cause ucode fva : Nat)
  | posting (va : Nat)
  deriving DecidableEq, Repr

/-- A visit (R272). `charged` says that it has been admitted, and its steps paid for (R290). -/
structure Visit where
  bslot : Nat
  qid : Nat
  q : List Nat
  box : Bool
  tmin : Nat
  tmax : Nat
  tree : Nat
  node : Nat := 0
  bytes : List Byte := []
  m : List Nat := [0, 0, 0, 0, 0, 0, 0, 0]
  c : Bool := false
  mpc : Nat := 0
  hs : Nat
  steps : Nat := 0
  gen : Nat := 0
  owner : Nat := 0
  fresh : Bool := true
  charged : Bool := false
  st : VisitSt := .entering
  deriving DecidableEq, Repr

/-- A claimed queue entry that waits to be read (R273): its binding slot, treelet and address, and when it was read last. -/
structure Claim where
  bslot : Nat
  tree : Nat
  va : Nat
  since : Nat
  deriving DecidableEq, Repr

/-- The rake of a pan (R267, R272, R273, R282): bindings, visits, claims, the pair last claimed from, and the node cache by
address space and virtual address. -/
structure Rake where
  binds : Tbl RkBind := []
  visits : Tbl Visit := []
  claims : List Claim := []
  rot : Nat × Nat := (0, 0)
  cache : List (Nat × Nat × List Byte) := []
  deriving DecidableEq, Repr

/-- The part of a pan that its shadow holds and its journal records (R376): teams, groups, scratchpad, semaphores by
pan-absolute number with their waiters by group slot (R247), stage rings by 8 × team slot + ring, event queue. -/
structure PanCore where
  teams : Tbl Team := []
  groups : Tbl Group := []
  scratch : Memory := []
  sems : Tbl Nat := []
  semq : Tbl (List Nat) := []
  rings : Tbl Ring := []
  evq : EvQueue := {}
  held : List (List Byte) := []
  asm : List AsmEntry := []
  squeue : List (List Slice) := []
  sready : List Slice := []
  sluices : Tbl SliceRun := []
  arrays : Tbl (List MxCmd) := []
  rqueue : List RkCmd := []
  gfx : List GfxCmd := []
  deriving DecidableEq, Repr

/-- An entry of a TLB or of the walk cache: the address space, the first virtual address and length it covers, the level
of a table pointer (R57), and the leaf or pointer entry itself. -/
structure TlbEntry where
  asid : Nat
  va : Nat
  len : Nat
  level : Nat := 0
  entry : Nat
  deriving DecidableEq, Repr

/-- An entry of a pan's miss table (R58): its key, the group slots that wait, and whether an invalidation has reached the pan
while a walker had it (R61). The walkers have the eight oldest. -/
structure Miss where
  asid : Nat
  vpn : Nat
  waiters : List Nat := []
  stale : Bool := false
  deriving DecidableEq, Repr

/-- A clean copy of a line in an L1 (R137). -/
structure L1Line where
  line : Nat
  cx : Bool
  part : Nat
  bytes : List Byte
  deriving DecidableEq, Repr

/-- A decoded run (R159): its address space and address, and its words, header first. -/
structure DecodedRun where
  asid : Nat
  addr : Nat
  words : List Word
  deriving DecidableEq, Repr

/-- The energy account, clock and gate of a pan (R364, R366, R369, R370). `metered` counts 1/256 nJ of the tick in progress,
`history` the last 64 ticks' net energies, newest first; `tick` and `fllTick` say up to when in station time the meter and the FLL have been settled. -/
structure Power where
  bal : Int := 65536
  grant : Nat := 0
  refill : Nat := 0
  deficit : Nat := 0
  carry : Nat := 0
  metered : Nat := 0
  tick : Nat := 0
  fllTick : Nat := 0
  history : List Int := []
  cur : Nat := 28
  tgt : Nat := 28
  gated : Bool := false
  idle : Nat := 0
  deriving DecidableEq, Repr

/-- What one lane receives: bits of its value, and how much of what it waits for this answers. -/
structure LaneVal where
  lane : Nat
  val : Nat := 0
  parts : Nat := 1
  flags : Nat := 0
  note : Option (Nat × Note) := none
  deriving DecidableEq, Repr

/-- A response on its way to a group (R131): the lanes it answers; the address
of a scope check that failed (R100); the physical address of an uncorrectable datum (R240); whether the
issue ends with its destination as it was (R314); by how much the group's children count changes (R325); the issue's retirement
count; and whether it is the answer of a home bed, outstanding until it arrives (R105). -/
structure Resp where
  gk : GKey
  pan : Nat
  issue : Nat
  load : Bool
  vals : List LaneVal
  scopeFail : Option Nat := none
  bad : Option Nat := none
  keep : Bool := false
  child : Int := 0
  rc : Nat := 0
  bed : Bool := false
  deriving DecidableEq, Repr

/-- Why a context is sealed by tier 2 (R417). -/
inductive SealCause where
  | admission | idle | host | hung | fenced
  deriving DecidableEq, Repr

/-- The pre-emption of a team on its pan (R362): since when it drains; since when it is being sealed, and why; whether a
teardown request is held until its save ends; and when a group of it last moved, in ns of station time. -/
structure Preempt where
  drain : Option Nat := none
  sealing : Option (Nat × SealCause) := none
  held : Bool := false
  work : Nat := 0
  deriving DecidableEq, Repr

/-- The fenced units of a pan (R388): masks of SRAM segments, of quarters that are fenced, have a fenced datapath or a
fenced array, and of sluices; whether the whole pan is. -/
structure Fence where
  seg : Nat := 0
  qtr : Nat := 0
  dpq : Nat := 0
  arr : Nat := 0
  nsl : Nat := 0
  whole : Bool := false
  deriving DecidableEq, Repr

/-- A journal record (R378): KIND (0 STATE, 1 SEAL), the group slot or 255, which word of it, the event's count, NREC, IDX, OLD and
NEW. -/
structure JRec where
  kind : Nat := 0
  gs : Nat
  word : Nat := 0
  rc : Nat
  nrec : Nat := 1
  idx : Nat := 0
  old : Word := 0
  new : Word := 0
  deriving DecidableEq, Repr

/-- A pan. `undo` are the states before the events that are not durable yet, `replies` the responses applied by such events,
with their counts; `sync` says that the step in progress leaves the journalled state durable (R377, R379, log 9). `behind` are, of
a group that has yielded, the slots that come before it (R19); `paid` counts the line requests of its walkers and engines that have been
charged for a step that still waits for others (R105); `full` are the quarters that the full miss table stalls (R58), `walked`
the faults that walks for the pan's engines have met, by address space (R58). `jring` are the records in the journal, the oldest first
(R378, R379); `asleep` is the rake work of contexts that a loss of the device's power has left, until they are restored (R280, R385).
`spoilt` are the bytes of its scratchpad that are
uncorrectable (R264, R389). -/
structure Pan where
  core : PanCore := {}
  misses : List Miss := []
  l1tlb : Tbl (List TlbEntry) := []
  l2tlb : List TlbEntry := []
  walkCache : List TlbEntry := []
  decoded : Tbl (List DecodedRun) := []
  l1 : Tbl (List L1Line) := []
  fused : Bool := false
  l1seg : Nat := 8
  drc : Nat := 0
  rc : Nat := 0
  undo : List PanCore := []
  off : Bool := false
  pbud : Nat := 0xFFFF
  pbal : Nat := 0xFFFF
  ptick : Nat := 0
  pw : Power := {}
  rake : Rake := {}
  replies : List (Nat × Resp) := []
  sync : Bool := false
  pre : Tbl Preempt := []
  behind : Tbl (List Nat) := []
  full : List Nat := []
  paid : Nat := 0
  walked : List (Nat × WalkFault) := []
  spoilt : List Nat := []
  jring : List JRec := []
  asleep : Rake := {}
  fen : Fence := {}
  deriving DecidableEq, Repr

/-- STATE of a way other than invalid, which is the absence of an entry (R85). -/
inductive WaySt where
  | clean | dirty | filling | pinned
  deriving DecidableEq, Repr

/-- A way of a bed: the line it holds and its metadata (R85). The line's bytes stand in memory. `opens` is the access for which the
line was allocated, while it has not been served (R86). -/
structure Way where
  line : Nat
  cx : Bool := false
  st : WaySt := .clean
  part : Nat := 0
  ret : Nat := 0
  age : Nat := 0
  codec : Nat := 0
  note : Option Note := none
  opens : Option Nat := none
  deriving DecidableEq, Repr

/-- A write-merge entry: its line, the bytes written since it was allocated, when that was, and the retention hint of its last
write (R90). -/
structure MergeEntry where
  id : Nat := 0
  line : Nat
  cx : Bool := false
  part : Nat := 0
  codec : Nat := 0
  mask : BitVec 128 := 0
  since : Nat := 0
  hint : Nat := 0
  deriving DecidableEq, Repr

/-- An ordered update in a holding buffer (R93): where it applies, its operation and operand, its key, who sent it, and the
outstanding issue it answers. -/
structure OrderedEntry where
  addr : Nat
  op : Nat
  val : Nat
  key : Nat
  pan : Nat
  lane : Nat
  part : Nat
  gk : GKey
  issue : Nat
  slot : Nat
  rc : Nat := 0
  cx : Bool := false
  codec : Nat := 0
  hint : Nat := 0
  note : Option Note := none
  deriving DecidableEq, Repr

/-- A watch on a transaction barrier (R104): its address, the phase waited for, the group that waits, and whether a phase
has completed since. -/
structure Watch where
  addr : Nat
  phase : Nat
  pan : Nat
  slot : Nat
  gk : GKey
  due : Bool := false
  deriving DecidableEq, Repr

/-- A home bed (R84 to R104). -/
structure Bed where
  sets : Tbl (Tbl Way) := []
  merge : List MergeEntry := []
  seqs : Tbl Nat := []
  held : List OrderedEntry := []
  winPart : Nat := 0
  winOpen : Nat := 0
  watch : List Watch := []
  locked : List (Nat × Nat) := []
  fenced : Nat := 0
  deriving DecidableEq, Repr

/-- One lane's part of a request: its bytes within the line, where they stand in the lane's value, the operand, the value
compared with, and the key. -/
structure LaneAcc where
  lane : Nat
  off : Nat
  len : Nat
  sh : Nat := 0
  val : Nat := 0
  cmp : Nat := 0
  key : Nat := 0
  deriving DecidableEq, Repr

/-- An operation on a transaction barrier (R103). -/
inductive TbOp where
  | init (n : Nat)
  | expect (b : Int)
  | arrive (k : Nat)
  | deliver (b : Nat)
  | test
  deriving DecidableEq, Repr

/-- What a request asks of its home bed (R233 to R238, R103, R93, R98). -/
inductive ReqOp where
  | load
  | store
  | atom (op : Nat) (ret : Bool)
  | cas
  | ordered (op : Nat)
  | eadd (bf16 : Bool)
  | ecrd (bf16 : Bool) (rnd : Nat)
  | ecclr
  | tb (op : TbOp)
  deriving DecidableEq, Repr

/-- A request on its way to the home bed of its line: the accesses of one instruction to one line (R233). `rc` is the
retirement count that must be durable before it leaves the pan (R129, R379); 0 where none must. `l1` is the L1 that serves
the group; `lock` says that a multi-line acquire has taken its line (R418). `rel` are the lanes whose earlier accesses it follows as
a release (R116), `one` says that its lanes share one access (LDK, R233), `sent` that it has left its pan, charged (R105). -/
structure Req where
  id : Nat
  issue : Nat
  gk : GKey
  pan : Nat
  slot : Nat
  team : Nat
  asSlot : Nat
  line : Nat
  va : Nat
  addr : Nat := 0
  pos : Nat := 0
  cx : Bool := false
  codec : Nat := 0
  op : ReqOp
  accs : List LaneAcc
  ord : Nat := 0
  scope : Nat := 0
  rem : Bool := false
  hint : Nat := 0
  tag : Bool := false
  strong : Bool := false
  multi : Bool := false
  l1 : Option Nat := none
  lock : Bool := false
  rc : Nat := 0
  rel : List Nat := []
  one : Bool := false
  sent : Bool := false
  deriving DecidableEq, Repr

/-- A prefetch on its way (R239): its number, its pan and slot, the line with its partition, codec and hint, whether it goes into L1 too,
and whether it has left its pan, charged. -/
structure Pref where
  id : Nat
  pan : Nat
  slot : Nat
  part : Nat
  codec : Nat
  line : Nat
  cx : Bool
  hint : Nat
  l1 : Bool
  sent : Bool := false
  deriving DecidableEq, Repr

/-- A line on its way to the brine window (R90, R133): its address and bytes. -/
structure BrineWrite where
  id : Nat := 0
  line : Nat
  bytes : List Byte
  deriving DecidableEq, Repr

/-- A close sent to a bed by a DFLUSH or FENCE of a group of a partition (R94, R239). -/
structure CloseReq where
  bed : Nat
  part : Nat
  gk : GKey
  deriving DecidableEq, Repr

/-- A persist request at a bed (R133): it is answered once every brine-window write numbered below `upto` is durable. -/
structure PersistReq where
  bed : Nat
  gk : GKey
  upto : Nat
  deriving DecidableEq, Repr

/-- A fill of a coded block at its port (R73): the block's slot address, its partition and codec, the groups that wait for its outcome
(R75), and the accesses that have asked for a line of it, each with the line and its hint (R86). -/
structure BlockFill where
  pa : Nat
  part : Nat
  codec : Nat
  waiters : List GKey := []
  asks : List (Nat × Nat × Nat) := []
  deriving DecidableEq, Repr

/-- A coded block on its way out of the Saltern (R78): its slot address, partition and codec, and the dirty lines that no
way holds any more. -/
structure BlockOut where
  id : Nat := 0
  pa : Nat
  part : Nat
  codec : Nat
  lines : List Nat := []
  deriving DecidableEq, Repr

/-- An overflow-buffer entry of a port (R79): its port and number, the block's slot address, partition and codec, the
expanded bytes, and whether a MOVE has written them since (R82). -/
structure Overflow where
  id : Nat := 0
  kind : Nat
  port : Nat
  entry : Nat
  pa : Nat
  part : Nat
  codec : Nat
  bytes : List Byte
  moved : Bool := false
  deriving DecidableEq, Repr

/-- A launch record on its way to the front end (R324): its issue, who sent it, its active lanes, and its fields; `ok` says
that its reserved bytes are 0. -/
structure LaunchReq where
  gk : GKey
  pan : Nat
  slot : Nat
  asSlot : Nat
  issue : Nat
  lanes : List Nat
  desc : Nat
  param : Nat
  teams : Nat
  tag : Nat
  ok : Bool
  rc : Nat
  deriving DecidableEq, Repr

/-- A result word on its way to the front end (R327). -/
structure PostReq where
  gk : GKey
  pan : Nat
  issue : Nat
  lanes : List Nat
  word : Nat
  val : Word
  rc : Nat
  deriving DecidableEq, Repr

/-- A work-graph record on its way to its node queue (R328); `wait` is the slot whose XFR_RETRY it waits for (R350). -/
structure RecReq where
  gk : GKey
  pan : Nat
  issue : Nat
  lane : Nat
  node : Nat
  words : List Word
  rc : Nat
  wait : Option Nat := none
  deriving DecidableEq, Repr

/-- An address-space slot register (R47). -/
structure AsSlot where
  en : Bool := false
  torn : Bool := false
  root : Nat := 0
  deriving DecidableEq, Repr

/-- A record ring of a partition or of the device: base, LOG, records written and consumed, and the records that wait for
room, oldest first (R64, R77, R386). -/
structure RecRing where
  base : Nat := 0
  log : Nat := 4
  head : Nat := 0
  tail : Nat := 0
  wait : List (List Byte) := []
  deriving DecidableEq, Repr

/-- A shootdown command in progress (R61): KIND, slot, range, the pans that it has not reached, and each pan that it has
reached, with the number from which on its accesses are new. -/
structure XinvCmd where
  kind : Nat
  slot : Nat := 0
  va : Nat := 0
  len : Nat := 0
  todo : List Nat := []
  reached : List (Nat × Nat) := []
  deriving DecidableEq, Repr

/-- A partition (R398) with the registers it owns. `pans` is PM_PANS0 to 2 as one mask; `leaving` are the pans and `taking` the
extents, with their next owner, that are being withdrawn from it (R419); `key` is its key (R399); `lastPan` is the pan on which
its last team landed (R415). -/
structure Part where
  pans : Nat := 0
  xinvVa : Nat := 0
  xinvIssued : Nat := 0
  xinvDone : Nat := 0
  xinvCmds : List XinvCmd := []
  share : Nat := 0
  floor : Nat := 0
  res : Nat := 8192
  dlfk : Nat := 28
  dlPans : Nat := 0
  dlRef : Nat := 0
  dlr : Nat := 0
  dlrMs : Nat := 0
  refused : Nat := 0
  slots : Tbl AsSlot := []
  xfr : RecRing := {}
  xpr : RecRing := {}
  codeTables : Memory := []
  ovfPa : Nat := 0
  ovfDone : Nat := 0
  salMask : Nat := 0
  salBusy : Bool := false
  dstat : Nat := 0
  en : Bool := false
  sealed_ : Bool := false
  busy : Bool := false
  poolShare : Nat := 0
  peers : Tbl Nat := []
  nonce : Memory := []
  key : Option Nat := none
  leaving : Nat := 0
  taking : List (Nat × Option Nat) := []
  dtmo : Nat := 1000
  wdog : Nat := 0
  lastPan : Nat := 191
  nextGrid : Nat := 1
  deriving DecidableEq, Repr

/-- A launch descriptor (R346). `bad` says that a reserved field of it is not 0. -/
structure Descr where
  entry : List Nat := []
  trapva : Nat := 0
  paramva : Nat := 0
  stageva : Nat := 0
  graphva : Nat := 0
  ovfva : Nat := 0
  ovflen : Nat := 0
  scrkib : Nat := 0
  fused : Bool := false
  l1seg : Nat := 0
  nstage : Nat := 0
  slot : Nat := 0
  ngrp : List Nat := []
  bud : List Nat := []
  nparam : Nat := 0
  cls : Nat := 0
  nnode : Nat := 0
  bad : Bool := false
  deriving DecidableEq, Repr

/-- A node of a work graph (R349): the descriptor of its teams, its fields, how many records have entered, and its unfired
records, each with its entry time. -/
structure GNode where
  d : Descr := {}
  qva : Nat := 0
  qlog : Nat := 5
  recw : Nat := 1
  timer : Nat := 1
  recoff : Nat := 0
  entered : Nat := 0
  recs : List (Nat × List Word) := []
  deriving DecidableEq, Repr

/-- A grid (R346, R347): partition and identifier are its key in the table. `root` is the identifier of the root of its
work graph or of itself, `queue` the queue that dispatched the root, with the number of that packet, `parent` the launching group
of a LAUNCH child; `fired` counts the teams fired for it, `ovf` is its LAUNCH overflow list, with the entries it has taken;
`ending` says that it has ended and its completion record waits, `done` that it has completed and its overflow list has entries
left. -/
structure Grid where
  d : Descr := {}
  teams : Nat := 0
  landed : Nat := 0
  exited : Nat := 0
  fired : Nat := 0
  status : Nat := 0
  tag : Nat := 0
  root : Nat := 0
  queue : Option Nat := none
  packet : Nat := 0
  parent : Option GKey := none
  nodes : Tbl GNode := []
  ovf : List LaunchReq := []
  ovfPut : Nat := 0
  ending : Bool := false
  done : Bool := false
  deriving DecidableEq, Repr

/-- An entry of the pending pool (R324, R351, R415): its grid; the LAUNCH record whose descriptor is still to be read, and the
slot whose XFR_RETRY that waits for; the descriptor, parameter words and stage table that its teams land with; the next team's number
and how many are left; and the records that a fired team's scratchpad holds, with their offset. -/
structure PoolEntry where
  part : Nat
  grid : Nat
  req : Option LaunchReq := none
  ready : Bool := false
  wait : Option Nat := none
  d : Descr := {}
  paramva : Nat := 0
  params : List Word := []
  stage : List Nat := []
  next : Nat := 0
  left : Nat := 0
  fired : Bool := false
  recs : List (List Word) := []
  recoff : Nat := 0
  deriving DecidableEq, Repr

/-- A staged effect of a packet (R345): a store or SIGNAL at a physical address, a grid from the descriptor at an offset of a
window, a work-graph record, a host notice, or the clearing of FRESH. -/
inductive Staged where
  | store (pa : Nat) (v : Word)
  | signal (pa : Nat) (v : Word)
  | dispatch (grid win off teams : Nat)
  | node (grid node : Nat) (ws : List Word)
  | intr (code : Nat) (v : Word)
  | unfresh (i : Nat)
  deriving DecidableEq, Repr

/-- Where a queue stands: no packet taken, its header read, its program running, or its staged effects being applied (R338,
R345). -/
inductive QPhase where
  | idle | header | running | applying
  deriving DecidableEq, Repr

/-- A queue of the front end (R336): its registers; the loaded program's entries and code; the program's registers and result words;
the packet in progress with its number, length and tag, the program's place, its loops (first word, word after the body, turns
left), whether it waits, whether it holds an interpreter, the slot whose XFR_RETRY its effect waits for (R347, R350), its staged effects and the registers at packet start; and the
completion records that wait for room. -/
structure Queue where
  en : Bool := false
  haltd : Bool := false
  part : Nat := 0
  slot : Nat := 0
  ring : Nat := 0
  size : Nat := 1
  prog : Nat := 0
  wins : Tbl Nat := []
  wptr : Nat := 0
  rptr : Nat := 0
  fault : Nat := 0
  cmpBase : Nat := 0
  cmpLog : Nat := 4
  chead : Nat := 0
  ctail : Nat := 0
  cmpWait : List (Nat × List Byte) := []
  ents : List (Nat × Nat) := []
  code : List Word := []
  w : Tbl Word := []
  res : Tbl Word := []
  fresh : BitVec 8 := 0
  phase : QPhase := .idle
  packet : Nat := 0
  len : Nat := 0
  tag : Nat := 0
  pc : Nat := 0
  loops : List (Nat × Nat × Nat) := []
  waiting : Bool := false
  interp : Bool := false
  stuck : Option Nat := none
  staged : List Staged := []
  saved : Tbl Word := []
  deriving DecidableEq, Repr

/-- Where a strip chain stands (R301, R307, R360). -/
inductive ChainSt where
  | admitted | claimable | claimed | refused | ended
  deriving DecidableEq, Repr

/-- A quad record of a chain's raster unit (R298): its tile, column and row, coverage, PRIMID and buffer index. -/
structure Quad where
  tile : Nat
  qx : Nat
  qy : Nat
  cov : Nat
  primid : Nat
  bidx : Nat
  deriving DecidableEq, Repr

/-- A strip chain that has been considered for admission (R299, R301, R304, R307): the deadline pan that holds its grant, the
team that holds it, its rung and the rung it started at, whether it is being replayed from that rung, and the rest of the
ladder's state; its raster unit, the quads left of it once it has rastered, the shadow of counters 3 to 7, and the number from which on
issues are later than its kill (R301). -/
structure Chain where
  st : ChainSt := .admitted
  pan : Nat := 0
  team : GKey := { part := 0, grid := 0, team := 0, num := 0 }
  rung : Nat := 0
  start : Nat := 0
  again : Bool := false
  steps : Nat := 0
  done : Nat := 0
  weight : Nat := 0
  t0 : Nat := 0
  unit : Nat := 0
  quads : Option (List Quad) := none
  shadow : List Nat := [0, 0, 0, 0, 0]
  killed : Option Nat := none
  deriving DecidableEq, Repr

/-- An output strip that its sink holds (R296, R302, R303): its global number, and whether it is a fill strip. -/
structure OutStrip where
  num : Nat
  fill : Bool := false
  sent : Bool := false
  deriving DecidableEq, Repr

/-- A frame that has been binned (R297): its number, primitive buffer, and the entries of each strip's bin list. -/
structure Binned where
  frame : Nat
  primva : Nat
  counts : List Nat
  deriving DecidableEq, Repr

/-- A stream slot (R292): its registers, the rung and last strip of STRM_STAT, the first frame after EN was written, its
chains by global number, statistics counters, output strips, and the binned frames by parity. -/
structure Stream where
  cfg : DWord := 0x0003400400000000
  fmt : DWord := 0x0001200000000000
  fp : Word := 0
  base : DWord := 0
  lead : DWord := 0
  binva : DWord := 0
  ring : DWord := 0
  wce : Word := 0
  sr : Nat := 0
  last : Nat := 0
  frame0 : Nat := 0
  chains : Tbl Chain := []
  ctrs : Tbl Nat := []
  outs : List OutStrip := []
  bins : Tbl Binned := []
  alloc : Bool := false
  deriving DecidableEq, Repr

/-- A disabled stream's slot as it stood (R293, R301): its sink has still to drain output strips of it, or teams whose chains were killed
have still to be told. -/
structure Drain where
  stream : Nat
  x : Stream
  deriving DecidableEq, Repr

/-- A strip as a sink sends it (R302, R303): stream, front port and flow, frame and strip, RTP timestamp, whether it is the
frame's last, a fill strip, coded, and of a key frame, base_q_idx and the tile columns of a coded one, and its samples in planes. -/
structure StripOut where
  stream : Nat
  port : Nat
  flow : Nat
  frame : Nat
  strip : Nat
  stamp : Nat
  last : Bool
  fill : Bool
  coded : Bool
  key : Bool
  qidx : Nat
  cols : Nat
  samples : List Byte
  deriving DecidableEq, Repr

/-- What a notice tells a host (R339, R342, R362, R387): an INTR's code and value, a halted queue with its QFAULT, a context
sealed because it hung, a fenced port. -/
inductive Notice where
  | intr (code : Nat) (v : Word)
  | queueFault (q fault : Nat)
  | hung (pan team : Nat)
  | portFenced (side : Bool) (port : Nat)
  deriving DecidableEq, Repr

/-- An SLT packet that the device sends and resends until it is acknowledged (R392, R393). -/
inductive SltOut where
  | rdata (addr : Nat) (data : List Byte)
  | notice (n : Notice)
  deriving DecidableEq, Repr

/-- A sent packet that is not acknowledged: its SEQ, when it was last sent, in ns of station time, and how often. -/
structure SltSent where
  seq : Nat
  x : SltOut
  last : Nat
  sends : Nat := 1
  deriving DecidableEq, Repr

/-- A connection (R393): the SEQ expected, the next SEQ to send, the packets not acknowledged. -/
structure SltConn where
  rx : Nat := 0
  tx : Nat := 0
  sent : List SltSent := []
  deriving DecidableEq, Repr

/-- An egress flow (R234, R391): EPF_CTL, template, the open packet and whether it has grown too long, the closed packets, and
the four counts. -/
structure Flow where
  en : Bool := false
  part : Nat := 0
  kind : Nat := 0
  hlen : Nat := 14
  tpl : Memory := []
  open_ : List Byte := []
  overlong : Bool := false
  closed : List (List Byte) := []
  pkt : Nat := 0
  byte : Nat := 0
  ovs : Nat := 0
  disc : Nat := 0
  deriving DecidableEq, Repr

/-- An aperture-table entry (R396). -/
structure Aperture where
  en : Bool := false
  op : Nat := 0
  rslot : Nat := 0
  base : Nat := 0
  deriving DecidableEq, Repr

/-- The link of a side port (R83, R395): whether it is up, the peer's identifier, this end's dictionary and identifier and the
peer's, the next link sequence number expected and to be sent, the replay buffer with each frame's sendings and whether its data may
be coded, and the peer's requests that are not served yet. `dictOn` says that this end has loaded a dictionary. -/
structure SideLink where
  up : Bool := false
  peer : DWord := 0
  dict : Memory := []
  dictOn : Bool := false
  dictId : Nat := 0
  peerDict : Nat := 0
  rx : Nat := 0
  tx : Nat := 0
  replay : List (Nat × SideBody × Nat × Bool) := []
  reqs : List (Nat × RemoteReq) := []
  deriving DecidableEq, Repr

/-- STATE of the PTP servo (R355). -/
inductive PtpSt where
  | init | freerun | uncal | locked | holdover
  deriving DecidableEq, Repr

/-- The PTP servo (R353 to R356): PTP_CFG, its state, the grandmaster, the last offset, the consecutive Syncs within 100 ns,
the last Announce in ns of station time, the arrival of a two-step Sync, the master-to-slave difference last measured, when the
last Delay_Req left, and the path delay. -/
structure Ptp where
  en : Bool := false
  two : Bool := false
  prof : Nat := 0
  port : Nat := 0
  ip6 : Bool := false
  dom : Nat := 0
  st : PtpSt := .init
  gm : Option DWord := none
  ofs : Int := 0
  good : Nat := 0
  announce : Nat := 0
  sync : Option (Nat × Int) := none
  down : Int := 0
  asked : Option Int := none
  delay : Int := 0
  deriving DecidableEq, Repr

/-- A self-test under way (R384, R387): of the unit of an error report, or of a whole pan whose power has returned. -/
inductive Test where
  | unit (r : ErrReport)
  | pan (p : Nat)
  deriving DecidableEq, Repr

/-- What leaves the device (log 14): strips, SLT packets and replies, egress packets, side-port frames and demands for a frame
again, quotes, and Delay_Req messages. -/
inductive Wire where
  | strip (x : StripOut)
  | slt (vf conn seq ackseq credit : Nat) (x : SltOut)
  | sltReply (vf conn ackseq credit : Nat) (nack : Option Nat)
  | packet (port flow : Nat) (bytes : List Byte)
  | side (port lseq : Nat) (coded : Option (List Byte)) (body : SideBody)
  | sideAgain (port lseq : Nat)
  | quote (part : Nat) (fields : List (List Byte)) (signature : List Byte)
  | delayReq (at_ : Nat)
  deriving DecidableEq, Repr

/-- A query under way, by address space and ray-table entry: the issue and lane that its finish answers (R285, R416), with
that issue's place and class. -/
structure Query where
  asid : Nat
  entry : Nat
  gk : GKey
  issue : Nat
  lane : Nat
  addr : Nat
  pos : Nat
  slot : Nat
  team : Nat
  cls : Nat := 0
  deriving DecidableEq, Repr

/-- A context in brine (R376, R382, R417): the pan and team slot that it last held, why it was sealed, whether it may be
restored and at which pan, its team, its groups by slot, its stage rings by number, its scratchpad from offset 0, its
semaphores from 0, and its commands that have not begun: slices that assemble, that are queued and that are admitted, and
graphics commands; for a recovered context its partition's key (R385); and whether a word of its image is uncorrectable
(R389). -/
structure Context where
  pan : Nat
  team : Nat
  cause : SealCause
  go : Bool := false
  target : Option Nat := none
  tm : Team
  groups : Tbl Group := []
  rings : Tbl Ring := []
  scratch : Memory := []
  sems : Tbl Nat := []
  asm : List AsmEntry := []
  squeue : List (List Slice) := []
  sready : List Slice := []
  gfx : List GfxCmd := []
  key : Option Nat := none
  bad : Bool := false
  deriving DecidableEq, Repr

/-- A turn of the agenda: who moves next (log 1). -/
inductive Turn where
  | issue (pan slot : Nat)
  | micro (pan visit : Nat)
  | rake (pan : Nat)
  | queue (q : Nat)
  | event (i : Instr)
  | advance (ns cycles : Nat)
  deriving DecidableEq, Repr

/-- Station time (R353): seconds, nanoseconds, and 2^-16 ns; the offset that the servo has still to remove, in 2^-16 ns (R356);
and the cycles of the arithmetic clock that R164 and R358 count (log 24). -/
structure Clock where
  sec : Nat := 0
  ns : Nat := 0
  frac : Nat := 0
  owed : Int := 0
  cycles : Nat := 0
  deriving DecidableEq, Repr

/-- The firmware (R401): the image that the device area of brine holds, whether it runs, and the address that delivered it, the
manager's. -/
structure Boot where
  image : Option FwImage := none
  running : Bool := false
  mgr : Nat := 0
  deriving DecidableEq, Repr

/-- What an access of a unit has found that it must wait for (R85, R86, R105): a line that is not there, a walk, its pan's byte budget, or
room. -/
inductive Want where
  | line (part codec line : Nat) (cx : Bool) (hint : Nat)
  | page (pan asid vpn : Nat)
  | charge (pan : Nat)
  | room
  deriving DecidableEq, Repr

/-- The device. `wants` lists what the accesses of the step in progress wait for: a step that leaves some is not taken. -/
structure State where
  agenda : List Turn := []
  freeCtr : Nat := 0
  actor : Nat × Nat := (0, 0)
  nextId : Nat := 0
  clock : Clock := {}
  mem : Memory := []
  pans : Tbl Pan := []
  parts : Tbl Part := []
  grids : Tbl Grid := []
  xmem : Memory := []
  durable : Memory := []
  brineWrites : List BrineWrite := []
  beds : Tbl Bed := []
  fills : List (Nat × Nat × Nat) := []
  wants : List Want := []
  fabric : List Req := []
  resps : List Resp := []
  prefs : List Pref := []
  receipts : List Resp := []
  closes : List CloseReq := []
  persists : List PersistReq := []
  blockFills : List BlockFill := []
  blockOuts : List BlockOut := []
  overflow : List Overflow := []
  joined : List Joined := []
  contexts : List Context := []
  dstatClears : List (Nat × Nat × Nat × Nat) := []
  launches : List LaunchReq := []
  posts : List PostReq := []
  recs : List RecReq := []
  pool : List PoolEntry := []
  queues : Tbl Queue := []
  lastServed : Nat := 255
  queries : List Query := []
  finishes : List Query := []
  eventReceipts : List (GKey × List Byte) := []
  streams : Tbl Stream := []
  drains : List Drain := []
  harvest : Memory := []
  plim : Nat := 1100
  planTick : Nat := 0
  wire : List Wire := []
  pmOwn : Tbl Nat := []
  sideOwn : Tbl Nat := []
  bad : List Nat := []
  err : RecRing := {}
  errLost : Nat := 0
  tests : List Test := []
  passed : Tbl Nat := []
  fenFront : Nat := 0
  fenSide : Nat := 0
  rcv : Tbl Context := []
  boot : Boot := {}
  slt : Tbl SltConn := []
  flows : Tbl Flow := []
  apertures : Tbl Aperture := []
  links : Tbl SideLink := []
  pauses : Tbl Nat := []
  ptp : Ptp := {}
  subLatch : Nat := 0
  deriving DecidableEq, Repr

/-- The machine right after reset. -/
def State.reset : State := {}

end Sys2Proof.Machine
end

