-- ==== Sys2Proof/Machine/Tables.lean ====
section
/-! DEFINITION. Sparse tables: an ascending list of numbered entries. Memory, register files and the device's numbered
units are all held so, and read and written only through these operations. -/

namespace Sys2Proof

variable {V : Type}

/-- The entry numbered `k`, where there is one. -/
def tget (t : Tbl V) (k : Nat) : Option V :=
  match t with
  | [] => none
  | (j, v) :: r => if j = k then some v else tget r k

/-- The entry numbered `k`, or `d` where there is none. -/
def tgetD (t : Tbl V) (k : Nat) (d : V) : V := (tget t k).getD d

/-- Entry `k` set to `v`, in its ascending place. -/
def tput (t : Tbl V) (k : Nat) (v : V) : Tbl V :=
  match t with
  | [] => [(k, v)]
  | (j, w) :: r => if k < j then (k, v) :: (j, w) :: r else if k = j then (k, v) :: r else (j, w) :: tput r k v

/-- Entry `k` removed. -/
def tdel (t : Tbl V) (k : Nat) : Tbl V :=
  match t with
  | [] => []
  | (j, w) :: r => if j = k then tdel r k else (j, w) :: tdel r k

/-- Entry `k` set to `v` in a table that lists nothing equal to `d`. -/
def tputD [DecidableEq V] (d : V) (t : Tbl V) (k : Nat) (v : V) : Tbl V := if v = d then tdel t k else tput t k v

/-- Entry `k` changed by `f`, where there is one. -/
def tmod (t : Tbl V) (k : Nat) (f : V → V) : Tbl V :=
  match t with
  | [] => []
  | (j, w) :: r => if j = k then (j, f w) :: r else (j, w) :: tmod r k f

/-- Every entry changed by `f`, which is told the entry's number. -/
def tmap (t : Tbl V) (f : Nat → V → V) : Tbl V := t.map fun e => (e.1, f e.1 e.2)

/-- The numbers ascend strictly. -/
def tSorted : Tbl V → Bool
  | [] => true
  | [_] => true
  | (j, _) :: (k, w) :: r => decide (j < k) && tSorted ((k, w) :: r)

/-- The least number from 0 to `n − 1` that the table does not list. -/
def tfree (t : Tbl V) (n : Nat) : Option Nat := (List.range n).find? fun k => (tget t k).isNone

/-- Element `k` of a list changed by `f`. -/
def listMod (l : List V) (k : Nat) (f : V → V) : List V :=
  match l, k with
  | [], _ => []
  | x :: r, 0 => f x :: r
  | x :: r, k + 1 => x :: listMod r k f

/-- Element `k` of a list set to `v`. -/
def listSet (l : List V) (k : Nat) (v : V) : List V := listMod l k fun _ => v

/-- A list without its element `k`. -/
def listDrop (l : List V) (k : Nat) : List V :=
  match l, k with
  | [], _ => []
  | _ :: r, 0 => r
  | x :: r, k + 1 => x :: listDrop r k

/-- The lanes that a mask names, ascending (R150). -/
def lanesOf (m : BitVec 32) : List Nat := (List.range 32).filter fun l => m.getLsbD l

/-- The mask that names these lanes. -/
def maskOf (ls : List Nat) : BitVec 32 := BitVec.ofNat 32 (ls.foldl (fun a l => a ||| (1 <<< l)) 0)

/-- A two's complement reading of the low `w` bits (`Val(x, w, 1)`). -/
def sval (x w : Nat) : Int := if x % 2 ^ w < 2 ^ (w - 1) then (x % 2 ^ w : Nat) else ((x % 2 ^ w : Nat) : Int) - 2 ^ w

/-- The w-bit pattern of an integer (`Wrap(x, w)`). -/
def wrap (x : Int) (w : Nat) : Nat := (x % (2 ^ w : Int)).toNat

/-- Bytes, low first, of an n-byte number (R4). -/
def bytesOf (x n : Nat) : List Byte := (List.range n).map fun k => BitVec.ofNat 8 (x >>> (8 * k))

/-- The number that bytes hold, low first (R4). -/
def ofBytes (bs : List Byte) : Nat := bs.foldr (fun b a => b.toNat + 256 * a) 0

end Sys2Proof
end

