-- ==== Sys2Proof/Machine/Ops.lean ====
section
/-! DEFINITION. The named operations over the state that every meaning is written with. -/

namespace Sys2Proof.Machine

/-! ## Memory -/

/-- One byte of memory; an unlisted byte reads as 0 (log 4). -/
def mget (m : Memory) (a : Nat) : Byte := tgetD m a 0

/-- Memory with one byte set, in canonical form. -/
def mput (m : Memory) (a : Nat) (b : Byte) : Memory := tputD 0 m a b

/-- `n` bytes from address `a`. -/
def mread (m : Memory) (a n : Nat) : List Byte := (List.range n).map fun k => mget m (a + k)

/-- Bytes written from address `a` upwards. -/
def mwrite (m : Memory) (a : Nat) (bs : List Byte) : Memory :=
  match bs with
  | [] => m
  | b :: r => mwrite (mput m a b) (a + 1) r

/-- An n-byte little-endian number in memory (R4). -/
def mnat (m : Memory) (a n : Nat) : Nat := ofBytes (mread m a n)

/-- Addresses rise strictly and no entry equals what an unlisted byte reads as. -/
def Memory.wf (m : Memory) : Bool := tSorted m && m.all fun c => c.2 != 0

/-! ## Station time, R169 and R292 -/

/-- A time in the format of %time, in nanoseconds. -/
def timeNs (x : Nat) : Nat := x / 2 ^ 32 * 10 ^ 9 + x % 2 ^ 32

/-- %time (R169). -/
def Clock.time (c : Clock) : Nat := c.sec % 2 ^ 32 * 2 ^ 32 + c.ns

/-- Station time as %time gives it, in nanoseconds. -/
def Clock.nowNs (c : Clock) : Nat := timeNs c.time

/-- Nanoseconds in the format of %time. -/
def timeCode (x : Int) : Nat := ((x / 10 ^ 9) % 2 ^ 32).toNat * 2 ^ 32 + (x % 10 ^ 9).toNat

/-! ## Pans, teams, groups and threads -/

/-- Pan `p`. -/
def State.pan (s : State) (p : Nat) : Pan := tgetD s.pans p {}

/-- The state with pan `p` changed. -/
def State.modPan (s : State) (p : Nat) (f : Pan → Pan) : State := { s with pans := tput s.pans p (f (s.pan p)) }

/-- The step in progress leaves the journalled state of pan `p` durable (log 9). -/
def State.synced (s : State) (p : Nat) : State := s.modPan p fun n => { n with sync := true }

/-- Every event of a pan is durable. -/
def Pan.caughtUp (n : Pan) : Bool := n.undo.isEmpty

/-- The first uncorrectable byte of the scratchpad among `n` from address `a` (R389). -/
def Pan.spoiltIn (n : Pan) (a len : Nat) : Option Nat := n.spoilt.find? fun x => decide (a ≤ x) && decide (x < a + len)

/-- The state with the journalled part of pan `p` changed. -/
def State.modCore (s : State) (p : Nat) (f : PanCore → PanCore) : State :=
  s.modPan p fun n => { n with core := f n.core }

/-- The group in slot `k` of pan `p`. -/
def State.group (s : State) (p k : Nat) : Option Group := tget (s.pan p).core.groups k

/-- The state with slot `k` of pan `p` holding `g`. -/
def State.setGroup (s : State) (p k : Nat) (g : Group) : State :=
  s.modCore p fun c => { c with groups := tput c.groups k g }

/-- The team in team slot `k` of pan `p`. -/
def State.team (s : State) (p k : Nat) : Option Team := tget (s.pan p).core.teams k

/-- The state with team slot `k` of pan `p` holding `t`. -/
def State.setTeam (s : State) (p k : Nat) (t : Team) : State :=
  s.modCore p fun c => { c with teams := tput c.teams k t }

/-- The quarter of a group slot: slot/32, or 4 on the pan controller (R151, R157). -/
def quarterOf (slot : Nat) : Nat := if slot < 128 then slot / 32 else 4

/-- The v-register budget of a role in a team (R154). -/
def Team.budget (t : Team) : Role → Nat
  | .feed => t.feedRegs
  | .matrix => t.matrixRegs
  | .vector => t.vectorRegs
  | .control => t.controlRegs

/-- The code of a role (R154). -/
def Role.code : Role → Nat
  | .feed => 0
  | .matrix => 1
  | .vector => 2
  | .control => 3

/-- The thread of a lane; a lane without one counts as exited. -/
def Group.thread (g : Group) (l : Nat) : Option Thread := tget g.th l

/-- A group with the thread of lane `l` changed. -/
def Group.modThread (g : Group) (l : Nat) (f : Thread → Thread) : Group := { g with th := tmod g.th l f }

/-- A group with the threads of these lanes changed. -/
def Group.modThreads (g : Group) (ls : List Nat) (f : Nat → Thread → Thread) : Group :=
  { g with th := tmap g.th fun l t => if ls.contains l then f l t else t }

/-- Every thread has exited (R153). -/
def Group.allExited (g : Group) : Bool := g.th.all fun e => e.2.st == .exited

/-- A counter's value (R34). -/
def Counters.get (c : Counters) : Ctr → Nat
  | .ld => c.ld
  | .st => c.st
  | .cp => c.cp
  | .mx => c.mx
  | .gt => c.gt
  | .cl => c.cl
  | .gr => c.gr
  | .ev => c.ev

/-- A counter changed (R35). -/
def Counters.mod (c : Counters) (k : Ctr) (f : Nat → Nat) : Counters :=
  match k with
  | .ld => { c with ld := f c.ld }
  | .st => { c with st := f c.st }
  | .cp => { c with cp := f c.cp }
  | .mx => { c with mx := f c.mx }
  | .gt => { c with gt := f c.gt }
  | .cl => { c with cl := f c.cl }
  | .gr => { c with gr := f c.gr }
  | .ev => { c with ev := f c.ev }

/-- The counters in the order of WAITSEL bits 12 to 19 (R13). -/
def Counters.list (c : Counters) : List Nat := [c.ld, c.st, c.cp, c.mx, c.gt, c.cl, c.gr, c.ev]

/-- Every selected counter is at or below the threshold (R14, R36). -/
def Counters.atMost (c : Counters) (sel n : Nat) : Bool :=
  (List.range 8).all fun k => !bitOf sel k || decide (c.list.getD k 0 ≤ n)

/-! ## Registers -/

/-- A v-register of a thread. -/
def Thread.rv (t : Thread) (n : Nat) : Word := tgetD t.v n 0

/-- A t-register of a thread. -/
def Thread.rt (t : Thread) (n : Nat) : Word := tgetD t.t n 0

/-- A g-register of a group. -/
def Group.rg (g : Group) (n : Nat) : Word := tgetD g.g n 0

/-- `k` registers from number `n`, the first lowest, as one number (R29, R230). -/
def regsNat (f : Nat → Word) (n k : Nat) : Nat :=
  match k with
  | 0 => 0
  | k + 1 => (f n).toNat + 2 ^ 32 * regsNat f (n + 1) k

/-- A register table with `k` registers from `n` written with a number's 32-bit pieces, the lowest first. -/
def regsPut (m : Tbl Word) (n k x : Nat) : Tbl Word :=
  match k with
  | 0 => m
  | k + 1 => regsPut (tputD 0 m n (BitVec.ofNat 32 x)) (n + 1) k (x >>> 32)

/-- `k` bits of a mask from bit `n`. -/
def spanMask (w n k : Nat) : BitVec w := BitVec.ofNat w ((2 ^ k - 1) <<< n)

/-- The value of a predicate code in a thread: p0 to p31, the flags fv fz fo fu fx, pt, pf (R27). -/
def Thread.pred (t : Thread) (code : Nat) : Bool :=
  if code < 32 then t.p.getLsbD code
  else if code < 37 then t.flags.getLsbD (36 - code)
  else code == 37

/-- Whether the predicate of a code is empty; the flags have no empty state (R28, R167). -/
def Thread.predEmpty (t : Thread) (code : Nat) : Bool := decide (code < 32) && t.pe.getLsbD code

/-- The value of a source in a thread, as a number of 32 × `k` bits. An immediate is sign-extended, and so is a literal
(R26); a predicate source gives 0 or 1 after its NEG (R188). -/
def srcNat (g : Group) (t : Thread) (k : Nat) (x : Src) : Nat :=
  match x with
  | .none => 0
  | .v n => regsNat t.rv n.toNat k
  | .g n => regsNat g.rg n.toNat k
  | .t n => regsNat t.rt n.toNat k
  | .imm i => (i.signExtend (32 * k)).toNat
  | .lit w => (w.signExtend (32 * k)).toNat
  | .pred neg code => (t.pred code.toNat != neg).toNat

/-- Whether any of the `k` registers of a source, or its predicate, is empty (R28). -/
def srcEmpty (g : Group) (t : Thread) (k : Nat) (x : Src) : Bool :=
  match x with
  | .v n => t.ve &&& spanMask 256 n.toNat k != 0
  | .g n => g.ge &&& spanMask 64 n.toNat k != 0
  | .pred _ code => t.predEmpty code.toNat
  | _ => false

/-- Whether any of the `k` registers of a destination, or its predicate, is empty (R168). -/
def dstEmpty (g : Group) (t : Thread) (k : Nat) (d : Dst) : Bool :=
  match d with
  | .v n => t.ve &&& spanMask 256 n.toNat k != 0
  | .g n => g.ge &&& spanMask 64 n.toNat k != 0
  | .p n => t.pe.getLsbD n.toNat
  | _ => false

/-- The value a destination held before, as a number of 32 × `k` bits (LOGT, BFI, CVTF, ATOMX). -/
def dstNat (g : Group) (t : Thread) (k : Nat) (d : Dst) : Nat :=
  match d with
  | .none => 0
  | .v n => regsNat t.rv n.toNat k
  | .g n => regsNat g.rg n.toNat k
  | .t n => regsNat t.rt n.toNat k
  | .p n => (t.p.getLsbD n.toNat).toNat

/-- A predicate mask with bit `n` set to `b`. -/
def setBit {w : Nat} (m : BitVec w) (n : Nat) (b : Bool) : BitVec w :=
  if b then m ||| spanMask w n 1 else m &&& ~~~ spanMask w n 1

/-- A thread with `k` registers of a destination, or its predicate, written and full. A g-register is not thread state. -/
def Thread.put (t : Thread) (d : Dst) (k x : Nat) : Thread :=
  match d with
  | .v n => { t with v := regsPut t.v n.toNat k x, ve := t.ve &&& ~~~ spanMask 256 n.toNat k }
  | .t n => { t with t := regsPut t.t n.toNat k x }
  | .p n => { t with p := setBit t.p n.toNat (x % 2 == 1), pe := t.pe &&& ~~~ spanMask 32 n.toNat 1 }
  | _ => t

/-- A group with `k` registers of a destination written in each listed lane. A g-register takes the value of the highest
lane listed (R166); the list is in ascending lane order. -/
def Group.put (g : Group) (d : Dst) (k : Nat) (vals : List (Nat × Nat)) : Group :=
  match d with
  | .g n => match vals.getLast? with
    | some (_, x) => { g with g := regsPut g.g n.toNat k x, ge := g.ge &&& ~~~ spanMask 64 n.toNat k }
    | none => g
  | _ => { g with th := tmap g.th fun l t => match vals.lookup l with
      | some x => t.put d k x
      | none => t }

/-- A group with a destination marked empty in the listed lanes (R28). -/
def Group.markEmpty (g : Group) (d : Dst) (k : Nat) (ls : List Nat) : Group :=
  match d with
  | .g n => if ls.isEmpty then g else { g with ge := g.ge ||| spanMask 64 n.toNat k }
  | .v n => g.modThreads ls fun _ t => { t with ve := t.ve ||| spanMask 256 n.toNat k }
  | .p n => g.modThreads ls fun _ t => { t with pe := t.pe ||| spanMask 32 n.toNat 1 }
  | _ => g

/-! ## Runs -/

/-- COUNT (R13). -/
def RunIn.count (r : RunIn) : Nat := r.words.length

/-- The header of the fall-through run (R12). -/
def RunIn.after (r : RunIn) : Nat := (r.addr + 4 * (1 + r.count + (if r.trl.isSome then 1 else 0))) % 2 ^ 64

/-- Where a group stands by its threads when it executes no run: BOUND with a runnable thread, PARK with a parked one,
else its threads have all exited (R161, R163). -/
def Group.restState (g : Group) : GState :=
  if g.th.any fun e => e.2.st == .runnable then .bound
  else if g.th.any fun e => e.2.st == .parked then .park else .bound

/-- The writes of a run that its trailer leaves in flight, register by register: those of a result of which it names no register
(R37, R38). -/
def RunIn.inFlight (r : RunIn) (named : List Nat) : List (Nat × Nat) :=
  r.wrote.flatMap fun e =>
    let ns := (List.range e.2.2).map (e.2.1 + ·)
    if ns.any named.contains then [] else ns.map fun n => (e.1, n)

/-- The end of a run: the threads still in it stand before the fall-through run (R12, R17);
the writes its trailer does not name may still be in flight, and without a trailer none is (R38). -/
def Group.endRun (g : Group) (r : RunIn) : Group :=
  let g1 := g.modThreads (lanesOf r.set) fun _ t => { t with addr := r.after, entry := none }
  let still := match r.trl with
    | some named => g.overtaken ++ r.inFlight named
    | none => []
  let g2 := { g1 with run := none, overtaken := still }
  { g2 with st := g2.restState }

/-- The group is stopped for a seal: the writes that its trailer let it overtake are completed before it (R21). -/
def Group.stopped (g : Group) : Group := { g with overtaken := [] }

/-- The run goes on `n` words later without the lanes of `leave`, and ends at its last word or with its last thread. -/
def Group.advance (g : Group) (r : RunIn) (n : Nat) (leave : List Nat) : Group :=
  let r' := { r with pos := r.pos + n, set := r.set &&& ~~~ maskOf leave }
  if r'.set = 0 ∨ r'.count ≤ r'.pos then g.endRun r' else { g with run := some r' }

/-- The words of a standard or literal form (R22). -/
def stdWords (x : Std) : Nat := if x.a.isLit || x.b.isLit || x.c.isLit then 3 else 2

/-! ## What an issue works on -/

/-- The group that issues: where it stands, the group, its run and its team, the instruction's active lanes in ascending
order (R27), and whether it costs twice the beats, or one (R158). -/
structure Ctx where
  pan : Nat
  slot : Nat
  g : Group
  run : RunIn
  tm : Team
  lanes : List Nat
  wide : Bool := false
  single : Bool := false

/-- The group that issues, its run and its team; none where the actor's slot holds no group in a run. -/
def State.issuer (s : State) : Option (Group × RunIn × Team) :=
  match s.group s.actor.1 s.actor.2 with
  | some g => match g.run, s.team s.actor.1 g.team with
    | some r, some tm => some (g, r, tm)
    | _, _ => none
  | none => none

/-! ## Who a group is -/

/-- What a group is known by wherever it stands. -/
def gkeyOf (tm : Team) (num : Nat) : GKey := { part := tm.part, grid := tm.grid, team := tm.num, num := num }

/-- The team of a group, as a key. -/
def GKey.team_ (k : GKey) : GKey := { k with num := 0 }

/-- The swapped-out groups of a team (R326). -/
def State.joinedOf (s : State) (tm : Team) : List Joined := s.joined.filter fun j => j.gk.team_ == gkeyOf tm 0

/-! ## Address spaces, grids and records -/

/-- Partition `p`. -/
def State.part (s : State) (p : Nat) : Part := tgetD s.parts p {}

/-- The state with partition `p` changed. -/
def State.modPart (s : State) (p : Nat) (f : Part → Part) : State := { s with parts := tput s.parts p (f (s.part p)) }

/-- The address-space slot register of a partition (R47). -/
def State.asSlot (s : State) (p k : Nat) : AsSlot := tgetD (s.part p).slots k {}

/-- The address-space identifier: partition × 16 + slot (R47). -/
def asid (p k : Nat) : Nat := p * 16 + k

/-- The key of a grid in the table of grids: its partition and its identifier, unique in the partition (R347). -/
def gridKey (p id : Nat) : Nat := p * 2 ^ 32 + id

/-- The state with a grid changed. -/
def State.modGrid (s : State) (p id : Nat) (f : Grid → Grid) : State := { s with grids := tmod s.grids (gridKey p id) f }

/-- A record joins those that wait for its ring (R64, R77, R386). -/
def RecRing.push (r : RecRing) (rec : List Byte) : RecRing := { r with wait := r.wait ++ [rec] }

/-- An error-log record (R386); `where_` is UNIT, INST and SUB as they stand in the record. -/
def errRecord (kind where_ result part asid : Nat) (pa va pc pos : Nat) : List Byte :=
  bytesOf (kind * 2 ^ 28 + where_ * 2 ^ 8 + result * 2 ^ 6 + part * 8) 4 ++
  bytesOf (asid * 2 ^ 25) 4 ++ bytesOf pa 8 ++ bytesOf va 8 ++ bytesOf pc 4 ++
  bytesOf (bitsOf pc 32 24 * 32 + pos) 4

/-- An error-log record waits to be posted; a corrected-error record is dropped and counted while the log is full
(R386). -/
def State.logError (s : State) (rec : List Byte) : State :=
  let full := decide (2 ^ s.err.log ≤ s.err.head - s.err.tail + s.err.wait.length)
  if (rec.getD 3 0).toNat / 16 = 0 ∧ full then { s with errLost := (s.errLost + 1) % 2 ^ 32 }
  else { s with err := s.err.push rec }

/-! ## Self-tests under way, R387 -/

/-- A unit runs its self-test: its kind, its number, and its SUB. -/
def State.testing (s : State) (u : UnitKind) (inst : Nat) (sub : Nat → Bool) : Bool :=
  s.tests.any fun t => match t with
    | .unit r => r.unit == u && r.inst == inst && sub r.sub
    | .pan _ => false

/-- Nothing issues in a group slot while a unit that it needs is tested. -/
def State.heldByTest (s : State) (p slot : Nat) : Bool :=
  s.testing .sram p (fun _ => true) || s.testing .shadow p (fun _ => true) || s.testing .regBank p (· == quarterOf slot) ||
  (decide (128 ≤ slot) && s.testing .panCtl p fun _ => true)

/-- The pre-emption of a team on its pan. -/
def Pan.preempt (n : Pan) (team : Nat) : Preempt := tgetD n.pre team {}

/-- A team's context is being sealed: its groups have stopped (R362). -/
def Pan.isSealing (n : Pan) (team : Nat) : Bool := (n.preempt team).sealing.isSome

/-! ## The end of threads, groups and teams -/

/-- A thread that has ended keeps nothing that can be chosen (R321). -/
def Thread.exit (t : Thread) : Thread := { t with st := .exited, park := none }

/-! ## Outstanding issues, R28 and R35 -/

/-- A destination marked full with its earlier value, in the listed lanes (R240). -/
def Group.markFull (g : Group) (d : Dst) (k : Nat) (ls : List Nat) : Group :=
  match d with
  | .g n => { g with ge := g.ge &&& ~~~ spanMask 64 n.toNat k }
  | .v n => g.modThreads ls fun _ t => { t with ve := t.ve &&& ~~~ spanMask 256 n.toNat k }
  | .p n => g.modThreads ls fun _ t => { t with pe := t.pe &&& ~~~ spanMask 32 n.toNat 1 }
  | _ => g

/-- Every lane of an issue has its value. -/
def Issue.complete (i : Issue) : Bool := i.lanes.all fun e => e.2.left == 0

/-- Completed issues leave in issue order, counter by counter: a completion that overtakes an older one of its counter is
held (R35). -/
def retireIssues (l : List Issue) (blocked : List (Option Ctr)) (c : Counters) : List Issue × Counters :=
  match l with
  | [] => ([], c)
  | i :: r =>
    if i.complete && (i.ctr.isNone || !blocked.contains i.ctr) then
      retireIssues r blocked (match i.ctr with
        | some k => c.mod k (· - 1)
        | none => c)
    else
      let (r', c') := retireIssues r (i.ctr :: blocked) c
      (i :: r', c')

/-- A group whose completed issues have left. -/
def Group.retire (g : Group) : Group :=
  let (is, c) := retireIssues g.issues [] g.ctr
  { g with issues := is, ctr := c }

/-- The issue that a thread parked at a cross-lane instruction belongs to (R227). -/
def Group.parkIssue (g : Group) (l : Nat) : Option Issue :=
  match g.thread l with
  | some t => match t.park with
    | some (.lanes _ _ _ _ _ id) => g.issues.find? fun i => i.id == id
    | _ => none
  | none => none

/-- Threads parked at a cross-lane instruction that take no result of it: their destinations are full with what they held,
and their issues no longer wait for them. A g-register takes the value of its issue's highest lane, and is full with that (R166). -/
def Group.unpark (g : Group) (ls : List Nat) : Group :=
  (ls.foldl (fun g l => match g.parkIssue l with
    | some i =>
      let own := match i.dst with
        | .g _ => l == i.top
        | _ => true
      let g1 := if own then g.markFull i.dst i.regs [l] else g
      { g1 with issues := g1.issues.map fun (j : Issue) =>
          if j.id = i.id then { j with lanes := tmod j.lanes l fun w => { w with left := 0 } } else j }
    | none => g) g).retire

/-- Threads that end (R321, R335, R375). -/
def Group.exitLanes (g : Group) (ls : List Nat) : Group := (g.unpark ls).modThreads ls fun _ t => t.exit

/-- Whether a group is ready: BOUND or RUN, or HWAIT with its wait now satisfied (R162). -/
def Group.ready (g : Group) : Bool :=
  match g.st with
  | .bound | .run => true
  | .hwait => match g.choice with
    | some ch => match ch.wait with
      | some (sel, n) => g.ctr.atMost sel n
      | none => true
    | none => true
  | .park | .faultw => false

/-- A group of a class-3 team (R358). -/
def PanCore.urgent (c : PanCore) (g : Group) : Bool :=
  match tget c.teams g.team with
  | some tm => tm.cls == 3
  | none => false

/-- Of a pan's pending groups of a quarter, the slot of the one that has been ready longest, class 3 before the others
(R164, R358). -/
def PanCore.pendingReady (c : PanCore) (q : Nat) : Option Nat :=
  let cand := c.groups.filter fun e => quarterOf e.1 == q && !e.2.active && e.2.ready
  let first := cand.filter fun e => c.urgent e.2
  ((if first.isEmpty then cand else first).foldl (fun (b : Option (Nat × Group)) e => match b with
    | none => some e
    | some m => if e.2.readySince < m.2.readySince then some e else some m) none).map (·.1)

/-- A free active place of a quarter goes to the pending group that has been ready longest (R162, R164). -/
def PanCore.fillPlace (c : PanCore) (q now : Nat) : PanCore :=
  match c.pendingReady q with
  | some k => { c with groups := tmod c.groups k fun g => { g with active := true, activeSince := now } }
  | none => c

/-- A yielding group gives its active place to the pending group of its quarter that has been ready longest, where there is
one (R19, R322). -/
def PanCore.yieldSwap (c : PanCore) (k now : Nat) : PanCore :=
  match c.pendingReady (quarterOf k) with
  | some j =>
    let gs := tmod c.groups j fun g => { g with active := true, activeSince := now }
    { c with groups := tmod gs k fun g => { g with active := false, readySince := now } }
  | none => c

/-- Of the active groups of a slot's quarter, those ready but for its own: the ones behind which a yielding group goes (R19). -/
def PanCore.readyOthers (c : PanCore) (k : Nat) : List Nat :=
  (c.groups.filter fun e => e.1 != k && quarterOf e.1 == quarterOf k && e.2.active && e.2.ready).map (·.1)

/-- A group places itself behind every other ready group of its active set, and gives its active place to a ready pending group
where there is one (R19, R322). -/
def Pan.yieldPlace (n : Pan) (k now : Nat) : Pan :=
  { n with core := n.core.yieldSwap k now, behind := tput n.behind k (n.core.readyOthers k) }

/-- The run of a group has ended with YLD otherwise than by an issue of its own (R19). -/
def State.yielded (s : State) (p k : Nat) : State :=
  if (s.group p k).isSome then s.modPan p fun n => n.yieldPlace k s.clock.cycles else s

/-- A group has had its turn: none that yielded to it stands behind it any more (R19). -/
def State.hadTurn (s : State) (p k : Nat) : State :=
  if (s.pan p).behind.any fun e => e.2.contains k then
    s.modPan p fun n => { n with behind := (tmap n.behind fun _ l => l.filter (· != k)).filter fun e => !e.2.isEmpty }
  else s

/-- A group that has yielded stands behind one that is ready in the active set and has had no turn since (R19). -/
def State.isBehind (s : State) (p k : Nat) : Bool :=
  (tgetD (s.pan p).behind k []).any fun j => (s.pan p).core.groups.any fun e => e.1 == j && e.2.active && e.2.ready

/-- A team of which no group is left exits: its scratchpad is freed with its slot, and its grid counts it (R153, R139, R347). -/
def State.settleTeam (s : State) (p team : Nat) : State :=
  match s.team p team with
  | none => s
  | some tm =>
    if ((s.pan p).core.groups.any fun e => e.2.team == team) || !(s.joinedOf tm).isEmpty then s
    else
      (s.modCore p fun c => { c with teams := tdel c.teams team, rings := c.rings.filter fun r => r.1 / 8 != team }).modGrid
        tm.part tm.grid fun d => { d with exited := d.exited + 1 }

/-- A slot left by the group `g`: it waits at no semaphore, and the active place that it held goes to the pending group that has been
ready longest (R162, R164, R247). -/
def PanCore.vacate (c : PanCore) (k : Nat) (g : Group) (now : Nat) : PanCore :=
  let c1 := { c with groups := tdel c.groups k, semq := tmap c.semq fun _ l => l.filter (· != k) }
  if g.active then c1.fillPlace (quarterOf k) now else c1

/-- A group that has exited frees its slot, and its team exits with the last (R153). -/
def State.freeGroup (s : State) (p k : Nat) : State :=
  match s.group p k with
  | none => s
  | some g =>
    (s.modCore p fun c => c.vacate k g s.clock.cycles).settleTeam p g.team

/-- A group whose last thread has exited and whose counters are all 0 exits (R153, R321). -/
def State.settleGroup (s : State) (p k : Nat) : State :=
  match s.group p k with
  | some g => if g.allExited && g.ctr.list.all (· == 0) && g.run.isNone then s.freeGroup p k else s
  | none => s

/-- Put a changed group back into its slot, and let it exit where it has ended. -/
def State.putGroup (s : State) (p k : Nat) (g : Group) : State := (s.setGroup p k g).settleGroup p k

/-! ## Chains that end with their team's hold, R301, R307, R312, R365 -/

/-- The groups of a team read a chain's deadline and rung, or 0 (R301, R307). -/
def PanCore.chainRegs (c : PanCore) (k : GKey) (dline rung : Nat) : PanCore :=
  { c with groups := tmap c.groups fun _ g => match tget c.teams g.team with
      | some tm => if gkeyOf tm 0 = k.team_ then
          { g with dline := BitVec.ofNat 64 dline, rung := rung } else g
      | none => g }

/-- The groups of a team, wherever they stand, read a chain's deadline and rung, or 0. -/
def State.chainRegs (s : State) (k : GKey) (dline rung : Nat) : State :=
  let j (x : Joined) : Joined :=
    if x.gk.team_ = k.team_ then { x with g := { x.g with dline := BitVec.ofNat 64 dline, rung := rung } } else x
  { s with pans := tmap s.pans fun _ n => { n with core := n.core.chainRegs k dline rung }, joined := s.joined.map j }

/-- Stream `i`. -/
def State.stream (s : State) (i : Nat) : Stream := tgetD s.streams i {}

/-- The state with a stream changed. -/
def State.modStream (s : State) (i : Nat) (f : Stream → Stream) : State := { s with streams := tput s.streams i (f (s.stream i)) }

/-- The owning partition of a stream (R292). -/
def Stream.part (x : Stream) : Nat := bitsOf x.cfg.toNat 60 3

/-- A statistics counter raised (R304). -/
def Stream.count (x : Stream) (k n : Nat) : Stream := { x with ctrs := tput x.ctrs k ((tgetD x.ctrs k 0 + n) % 2 ^ 64) }

/-- What is left of a pan's grant when its chain ends: it repays a negative balance, and the rest returns to the partition's
reserve, up to its cap (R359, R365). -/
def State.endGrant (s : State) (pan part : Nat) : State :=
  let w := (s.pan pan).pw
  let give := if w.bal < 0 then Nat.min w.grant w.bal.natAbs else 0
  let rest := w.grant - give
  (s.modPan pan fun n => { n with pw := { n.pw with bal := n.pw.bal + give, grant := 0 } }).modPart part fun p =>
    { p with dlr := Nat.min (p.dlr + rest) (Nat.max p.dlr (4 * p.dlRef)) }

/-- A chain back in its stream's claim queue (R301). -/
def Chain.replayed (c : Chain) : Chain :=
  { c with st := .claimable, team := { part := 0, grid := 0, team := 0, num := 0 }, rung := c.start, again := true, steps := 0,
           done := 0, weight := 0, quads := none, shadow := [0, 0, 0, 0, 0] }

/-- A chain is replayed: REPLAY rises, its team is released and its grant ends (R301, R365). -/
def State.replayChain (s : State) (i num : Nat) (c : Chain) : State :=
  ((s.modStream i fun x => { x with chains := tput x.chains num c.replayed }.count 10 1).chainRegs c.team 0 0).endGrant
    c.pan (s.stream i).part

/-- The chains that teams for which `lost` holds are serving are replayed. -/
def State.replayChains (s : State) (lost : GKey → Bool) : State :=
  (s.streams.flatMap fun e => (e.2.chains.filter fun c => c.2.st == .claimed && lost c.2.team).map fun c => (e.1, c)).foldl
    (fun st x => st.replayChain x.1 x.2.1 x.2.2) s

/-! ## Fatal faults -/

/-- The rake commands of a group count as complete, with their predicates' issues, `own`: its GT falls (R278, R285). -/
def Group.endRake (g : Group) (own : List Nat) : Group :=
  let ends (i : Issue) : Bool := i.ctr == some Ctr.gt || own.contains i.id
  let g1 := (g.issues.filter ends).foldl (fun (x : Group) i => x.markFull i.dst i.regs (i.lanes.map (·.1))) g
  { g1 with issues := g1.issues.map fun (i : Issue) =>
      if ends i then { i with lanes := tmap i.lanes fun _ w => { w with left := 0 } } else i }.retire

/-- The visits and claims of a slot discarded (R278). -/
def Rake.dropSpace (r : Rake) (part slot : Nat) : Rake :=
  let here (b : Nat) : Bool := match tget r.binds b with
    | some x => x.part == part && x.asSlot == slot
    | none => false
  { r with visits := r.visits.filter fun e => !here e.2.bslot, claims := r.claims.filter fun c => !here c.bslot }

/-- The rake's work for a slot ends at a pan: its visits, claims and commands are discarded, and the GT counters fall. -/
def Pan.dropRake (n : Pan) (part slot : Nat) : Pan :=
  let mine (c : RkCmd) : Bool := c.part == part && c.asSlot == slot
  { n with
    rake := n.rake.dropSpace part slot
    core := { n.core with
      rqueue := n.core.rqueue.filter fun c => !mine c
      groups := tmap n.core.groups fun _ g => match tget n.core.teams g.team with
        | some tm => if tm.part = part ∧ tm.slot = slot then g.endRake ((n.core.rqueue.filter mine).map (·.issue)) else g
        | none => g } }

/-- A group whose threads all exit where it stands (R240, R375). -/
def Group.exitAll (g : Group) : Group :=
  { g.exitLanes (List.range 32) with run := none, choice := none, hold := none, watching := false, st := .bound }

/-- The groups of a torn slot that are waiting exit at once (R375): those that execute no run. A group in a run meets
the torn slot at its next boundary, faultable or sealing instruction, wait or trap entry. -/
def PanCore.endWaiting (c : PanCore) (part slot : Nat) : PanCore :=
  { c with groups := tmap c.groups fun _ g => match tget c.teams g.team with
      | some tm =>
        if tm.part = part ∧ tm.slot = slot ∧ (g.run.isNone ∨ g.st = .faultw) then
          g.exitAll
        else g
      | none => g }

/-- The sluice commands of a torn slot complete with XLATE (R375): those in a sluice at once, with what they have written, those that
assemble at their turn. -/
def PanCore.endCopies (c : PanCore) (part slot : Nat) : PanCore :=
  let mine (x : Slice) : Bool := x.part == part && x.asSlot == slot
  let stop (r : SliceRun) : SliceRun := match r.st with
    | .ended _ _ _ => r
    | .remote _ bytes => { r with st := .ended 3 0 bytes }
    | _ => { r with st := .ended 3 0 r.done }
  { c with
    sluices := tmap c.sluices fun _ r => if mine r.slice then stop r else r
    sready := c.sready ++ (c.asm.flatMap (·.slices)).filter mine
    asm := c.asm.filter fun e => !e.slices.any mine }

/-- The bed watches of groups for which `lost` holds are dropped (R104, R250). -/
def State.dropWatches (s : State) (lost : GKey → Bool) : State :=
  { s with beds := tmap s.beds fun _ b => { b with watch := b.watch.filter fun w => !lost w.gk } }

/-- Groups of a pan that have ended are freed. -/
def State.settlePan (s : State) (p : Nat) : State :=
  ((s.pan p).core.groups.map (·.1)).foldl (fun st k => st.settleGroup p k) s

/-- The slices of a context, those that assemble, that are queued and that are admitted. -/
def Context.slices (x : Context) : List Slice := x.asm.flatMap (·.slices) ++ x.squeue.flatten ++ x.sready

/-- The contexts and the swapped-out groups of teams for which `lost` holds exit; a context's slices go to the pan that last held it, to
complete there (R375). -/
def State.dropBrine (s : State) (lost : GKey → Bool) : State :=
  let gone (x : Context) : Bool := lost { part := x.tm.part, grid := x.tm.grid, team := x.tm.num, num := 0 }
  let s1 := (s.contexts.filter gone).foldl (fun (st : State) x =>
    (if x.slices.isEmpty then st else st.modCore x.pan fun c => { c with sready := c.sready ++ x.slices }).modGrid x.tm.part x.tm.grid
      fun d => { d with exited := d.exited + 1 }) { s with contexts := s.contexts.filter fun x => !gone x }
  let s2 : State := { s1 with joined := s1.joined.filter fun j => !lost j.gk.team_ }
  (s2.pans.flatMap fun e => e.2.core.teams.map fun t => (e.1, t.1)).foldl (fun st t => st.settleTeam t.1 t.2) s2

/-- A grid that ends with CANCEL (R375): no further team of it lands, and its node queues are discarded. -/
def Grid.cancelled (d : Grid) : Grid := { d with status := 6, nodes := tmap d.nodes fun _ n => { n with recs := [] } }

/-- The entries of the pending pool whose grid belongs to a slot end with it (R375). -/
def State.dropPool (s : State) (part slot : Nat) : State :=
  { s with pool := s.pool.filter fun e => !(e.part == part && match tget s.grids (gridKey part e.grid) with
      | some d => d.d.slot == slot
      | none => false) }

/-- A slot is torn down (R62, R375): TORN is set, every TLB entry and decoded run of the slot is dropped, its waiting groups
exit, its copies end with XLATE, its rake work is discarded, the chains that its teams serve are replayed (R278, R301), its grids end
with CANCEL, and its groups' bed watches are dropped (R104). -/
def State.teardown (s : State) (part slot : Nat) : State :=
  let a := asid part slot
  let s1 := s.modPart part fun x =>
    { x with slots := tput x.slots slot { (tgetD x.slots slot {}) with torn := true } }
  let drop (l : List TlbEntry) := l.filter fun e => e.asid != a
  let cut (n : Pan) : Pan :=
    { n with
      l1tlb := tmap n.l1tlb fun _ l => drop l
      l2tlb := drop n.l2tlb
      walked := n.walked.filter fun w => w.1 != a
      walkCache := drop n.walkCache
      decoded := tmap n.decoded fun _ l => l.filter fun e => e.asid != a
      core := (n.core.endWaiting part slot).endCopies part slot }
  let s2 := { s1 with pans := tmap s1.pans fun _ n => (cut n).dropRake part slot, queries := s1.queries.filter fun q => q.asid != a }
  let s3 := { s2 with grids := tmap s2.grids fun k d =>
    if k / 2 ^ 32 = part ∧ d.d.slot = slot ∧ !d.ending ∧ !d.done then d.cancelled else d }
  let lost (k : GKey) : Bool := k.part == part && match tget s3.grids (gridKey part k.grid) with
    | some d => d.d.slot == slot
    | none => false
  (s3.pans.map (·.1)).foldl (fun st p => st.settlePan p) ((((s3.dropPool part slot).replayChains lost).dropBrine lost).dropWatches lost)

/-- A fatal fault of a slot with the record it posts: the first fault of the slot tears it down and posts; a later one
posts nothing (R62, R375). -/
def State.fatal (s : State) (part slot : Nat) (post : State → State) : State :=
  if (s.asSlot part slot).torn then s else post (s.teardown part slot)

/-! ## Taking a trap and returning from it -/

/-- TrapEntry of R330 for one thread. -/
def Thread.trapEntry (t : Thread) (addr pos cause info lanes trapva : Nat) (act : Bool) : Thread :=
  { t with
    xpc := BitVec.ofNat 64 addr
    xpos := BitVec.ofNat 32 pos
    xcause := BitVec.ofNat 32 (2 ^ 31 + act.toNat * 2 ^ 30 + cause)
    xinfo := BitVec.ofNat 64 info
    xlanes := BitVec.ofNat 32 lanes
    tsave := t.t
    addr := trapva
    entry := none
    mode := true
    pass := 0
    st := .runnable
    park := none }

/-- Return from a trap routine to (%xpc, %xpos) (R332): t0 to t7 come back, MODE is cleared, and the thread is runnable
at that position, or at the fall-through run where the position is COUNT. -/
def Thread.trapReturn (t : Thread) (count after : Nat) : Thread :=
  let pos := t.xpos.toNat
  { t with
    t := t.tsave
    mode := false
    pass := 0
    st := .runnable
    addr := if pos = count then after else t.xpc.toNat
    entry := if pos = count then none else some pos }

/-- Threads of a group take a trap at (`addr`, `pos`) (R330). A trap in MODE 1 or in a grid without a trap routine is fatal
to the slot; in a torn slot the threads exit at the entry instead (R375). `info` and `act` are given per lane. -/
def State.takeTrap (s : State) (p k : Nat) (g : Group) (tm : Team) (ls : List Nat) (addr pos cause : Nat)
    (info : Nat → Nat) (act : Nat → Bool) : State :=
  let entering := (maskOf ls).toNat
  let torn := (s.asSlot tm.part tm.slot).torn
  let dbl := tm.trapva == 0 || ls.any fun l => match g.thread l with
    | some t => t.mode
    | none => false
  if torn || dbl then
    let g1 := g.exitLanes ls
    let g2 := { g1 with st := if g1.run.isSome then g1.st else g1.restState }
    let s1 := s.putGroup p k g2
    s1.fatal tm.part tm.slot fun st =>
      st.logError (errRecord 3 Config.noUnit.toNat 0 tm.part (asid tm.part tm.slot) 0 0 addr pos)
  else
    let g1 := (g.unpark ls).modThreads ls fun l t => t.trapEntry addr pos cause (info l) entering tm.trapva (act l)
    s.putGroup p k { g1 with overtaken := [], st := if g1.run.isSome then g1.st else g1.restState }

/-- Every thread of the set executing the run enters the trap routine (R330): the run stops at the instruction. -/
def Ctx.trapAll (c : Ctx) (s : State) (cause info pos : Nat) : State :=
  s.takeTrap c.pan c.slot { c.g with run := none } c.tm (lanesOf c.run.set) c.run.addr pos cause (fun _ => info)
    (fun l => c.lanes.contains l)

end Sys2Proof.Machine
end

