-- ==== Sys2Proof/Machine/Codes.lean ====
section
/-! DEFINITION. The codes of the transform ports as functions of bytes: the check, prefix codes, coded blocks, and the dictionary code
of the side ports (R68 to R72, R74, R78, R83). -/

namespace Sys2Proof.Machine

/-! ## The check and the codes, R68 to R72 -/

/-- One bit of CRC-32C, reflected. -/
def crcBit (c : Nat) : Nat := if c % 2 = 1 then (c / 2) ^^^ 0x82F63B78 else c / 2

/-- CRC-32C of bytes (R68). -/
def crc32c (bs : List Byte) : Nat :=
  (bs.foldl (fun c b => crcBit (crcBit (crcBit (crcBit (crcBit (crcBit (crcBit (crcBit (c ^^^ b.toNat)))))))))
    0xFFFFFFFF) ^^^ 0xFFFFFFFF

/-- Bytes of an element under EFMT (R69). -/
def efmtBytes (e : Nat) : Nat :=
  match e with
  | 1 | 2 | 8 => 2
  | 3 | 9 => 4
  | 7 => 8
  | _ => 1

/-- Formats that a codec takes (R69). -/
def efmtOk (codec e : Nat) : Bool :=
  if codec = 1 then decide (e ≤ 9) && e != 7 else (decide (1 ≤ e) && decide (e ≤ 3)) || e == 7 || e == 8 || e == 9

/-- Code lengths of the 256 symbols of a table's section (R71). -/
def codeLens (tables : Memory) (table plane : Nat) : List Nat :=
  (List.range 256).map fun s =>
    let b := (mget tables (512 * table + 128 * plane + s / 2)).toNat
    if s % 2 = 0 then b % 16 else b / 16

/-- A section whose lengths do not oversubscribe the code space (R71). -/
def lensOk (ls : List Nat) : Bool :=
  decide ((ls.map fun l => if l = 0 then 0 else 2 ^ (15 - l)).sum ≤ 2 ^ 15)

/-- Canonical codes (R71): (symbol, length, code), shorter codes first and symbols ascending within a length. -/
def canonCodes (ls : List Nat) : List (Nat × Nat × Nat) :=
  ((List.range 15).foldl (fun (a : Nat × List (Nat × Nat × Nat)) k =>
    let len := k + 1
    let syms := (List.range 256).filter fun s => ls.getD s 0 == len
    (2 * a.1 + syms.length, a.2 ++ syms.zipIdx.map fun e => (e.1, len, 2 * a.1 + e.2))) (0, [])).2

/-- Bits of a byte stream, bit 0 of each byte first (R70). -/
def streamBits (bs : List Byte) : List Bool := bs.flatMap fun b => (List.range 8).map b.getLsbD

/-- Symbols decoded from a bit stream: each code's first bit is its most significant. None where a code has no symbol or the
stream ends. The rest of the bits is returned. -/
def takeSyms (codes : List (Nat × Nat × Nat)) (n len code : Nat) (bits : List Bool) : Option (List Nat × List Bool) :=
  match bits with
  | [] => if n = 0 then some ([], []) else none
  | b :: r =>
    if n = 0 then some ([], b :: r)
    else
      let len' := len + 1
      let code' := 2 * code + b.toNat
      match codes.find? fun e => e.2.1 == len' && e.2.2 == code' with
      | some e => (takeSyms codes (n - 1) 0 0 r).map fun x => (e.1 :: x.1, x.2)
      | none => if 15 ≤ len' then none else takeSyms codes n len' code' r

/-- One plane of a codec-1 payload: its symbols and the bytes after it; none where it breaks R70. -/
def takePlane (tables : Memory) (table plane n : Nat) (raw : Bool) (bs : List Byte) : Option (List Nat × List Byte) :=
  if raw then if bs.length < n then none else some ((bs.take n).map (·.toNat), bs.drop n)
  else
    let len := ofBytes (bs.take 2)
    let body := bs.drop 2
    if bs.length < 2 ∨ body.length < len then none
    else match takeSyms (canonCodes (codeLens tables table plane)) n 0 0 (streamBits (body.take len)) with
      | some (syms, rest) => if rest.length < 8 ∧ rest.all (· == false) then some (syms, body.drop len) else none
      | none => none

/-- The planes of a codec-1 payload (R70). -/
def takePlanes (tables : Memory) (table raw n : Nat) (ks : List Nat) (bs : List Byte) : Option (List (List Nat)) :=
  match ks with
  | [] => if bs.isEmpty then some [] else none
  | k :: r => match takePlane tables table k n (bitOf raw k) bs with
    | some (p, rest) => (takePlanes tables table raw n r rest).map fun ps => p :: ps
    | none => none

/-- Bytes of elements from their planes. -/
def weave (n : Nat) (planes : List (List Nat)) : List Byte :=
  (List.range n).flatMap fun j => planes.map fun p => BitVec.ofNat 8 (p.getD j 0)

/-- The bytes of x up to and including its highest nonzero one (R72). -/
def sigBytes (x w : Nat) : Nat := ((List.range w).filter fun k => (x >>> (8 * k)) % 256 != 0).foldl (fun _ k => k + 1) 0

/-- Values of a codec-2 payload: each with its tag's bytes, xored with its predecessor (R72). -/
def takeDeltas (w prev : Nat) (tags : List Nat) (bs : List Byte) : Option (List Nat) :=
  match tags with
  | [] => if bs.isEmpty then some [] else none
  | t :: r =>
    let x := ofBytes (bs.take t)
    if w < t ∨ bs.length < t ∨ sigBytes x w ≠ t then none
    else (takeDeltas w (prev ^^^ x) r (bs.drop t)).map fun es => (prev ^^^ x) :: es

/-- The 4096 bytes of a block from its slot, or the cause of its block fault (R68 to R74). A codec-2 block whose TABLE or RAW is not 0 is a
wrong header, cause 1 (DESIGN CHOICE: log 100). -/
def expandBlock (tables : Memory) (codec : Nat) (slot : List Byte) : Except Nat (List Byte) :=
  let h := fun o n => ofBytes ((slot.drop o).take n)
  let efmt := h 2 1 % 16
  let table := h 3 1 / 16
  let raw := h 3 1 % 16
  let clen := h 6 2
  let w := efmtBytes efmt
  let n := 4096 / w
  if h 0 2 ≠ 0x5A4B ∨ h 2 1 / 16 ≠ codec ∨ !efmtOk codec efmt ∨ h 4 2 ≠ 0x1000 ∨ clen < 16 ∨ 4096 < clen ∨ h 8 4 ≠ 0 ∨
      (codec = 2 ∧ h 3 1 ≠ 0) then .error 1
  else if codec = 1 ∧ !((List.range 4).all fun k => lensOk (codeLens tables table k)) then .error 2
  else
    let payload := (slot.drop 16).take (clen - 16)
    let bytes? :=
      if codec = 1 then
        if raw / 2 ^ w ≠ 0 then none
        else (takePlanes tables table raw n (List.range w) payload).map (weave n)
      else
        let tags := (payload.take (n / 2)).flatMap fun b => [b.toNat % 16, b.toNat / 16]
        if payload.length < n / 2 then none
        else (takeDeltas w 0 tags (payload.drop (n / 2))).map fun es => es.flatMap fun e => bytesOf e w
    match bytes? with
    | none => .error 3
    | some bs => if crc32c bs = h 12 4 then .ok bs else .error 4

/-- Bytes of a bit stream, bit 0 first, the last byte padded with 0 (R70). -/
def packBits (bits : List Bool) : List Byte :=
  (List.range ((bits.length + 7) / 8)).map fun k =>
    BitVec.ofNat 8 (((bits.drop (8 * k)).take 8).zipIdx.foldl (fun a e => a + e.1.toNat * 2 ^ e.2) 0)

/-- The bits of a code, the most significant first. -/
def codeBits (len code : Nat) : List Bool := (List.range len).map fun k => bitOf code (len - 1 - k)

/-- A plane as R78 stores it: coded where every symbol has a code and the coded form is shorter, else raw. -/
def putPlane (tables : Memory) (table plane : Nat) (syms : List Nat) : Bool × List Byte :=
  let codes := canonCodes (codeLens tables table plane)
  let found := syms.map fun s => codes.find? fun e => e.1 == s
  if found.all (·.isSome) then
    let body := packBits (found.flatMap fun e => match e with
      | some c => codeBits c.2.1 c.2.2
      | none => [])
    if 2 + body.length < syms.length then (false, bytesOf body.length 2 ++ body)
    else (true, syms.map fun s => BitVec.ofNat 8 s)
  else (true, syms.map fun s => BitVec.ofNat 8 s)

/-- A block recompressed (R78): the whole of its coded form, header first. -/
def compressBlock (tables : Memory) (codec efmt table : Nat) (bytes : List Byte) : List Byte :=
  let w := efmtBytes efmt
  let n := 4096 / w
  let el := fun j => ofBytes ((bytes.drop (w * j)).take w)
  let (raw, payload) :=
    if codec = 1 then
      let ps := (List.range w).map fun k =>
        putPlane tables table k ((List.range n).map fun j => ((bytes.getD (w * j + k) 0).toNat))
      ((ps.zipIdx.map fun p => p.1.1.toNat * 2 ^ p.2).sum, ps.flatMap (·.2))
    else
      let xs := (List.range n).map fun j => el j ^^^ (if j = 0 then 0 else el (j - 1))
      let tags := xs.map fun x => sigBytes x w
      (0, (List.range (n / 2)).map (fun m => BitVec.ofNat 8 (tags.getD (2 * m) 0 + 16 * tags.getD (2 * m + 1) 0)) ++
        xs.flatMap fun x => bytesOf x (sigBytes x w))
  let clen := 16 + payload.length
  bytesOf 0x5A4B 2 ++ bytesOf (codec * 16 + efmt) 1 ++ bytesOf ((if codec = 1 then table else 0) * 16 + raw) 1 ++
    bytesOf 0x1000 2 ++ bytesOf clen 2 ++ bytesOf 0 4 ++ bytesOf (crc32c bytes) 4 ++ payload

/-! ## The dictionary code of a side port, R83 -/

/-- Bytes copied from a distance back, one at a time, so that a match may run into itself. -/
def copyBack (hist : List Byte) (dist n : Nat) : List Byte :=
  match n with
  | 0 => hist
  | n + 1 => copyBack (hist ++ [hist.getD (hist.length - dist) 0]) dist n

/-- Tokens of a coded payload expanded after the dictionary (R83); none where it is malformed. -/
def expandTokens (hist : List Byte) (bs : List Byte) (fuel : Nat) : Option (List Byte) :=
  match fuel with
  | 0 => if bs.isEmpty then some hist else none
  | fuel + 1 =>
    match bs with
    | [] => some hist
    | t :: r =>
      let n := t.toNat % 128
      if t.toNat < 128 then
        if r.length < n + 1 then none else expandTokens (hist ++ r.take (n + 1)) (r.drop (n + 1)) fuel
      else
        let dist := ofBytes (r.take 2)
        if r.length < 2 ∨ dist = 0 ∨ 4096 < dist then none
        else expandTokens (copyBack hist dist (n + 4)) (r.drop 2) fuel

/-- A coded payload expanded against a dictionary of 4096 bytes with an identifier (R83). -/
def expandPayload (dict : List Byte) (ident : Nat) (bs : List Byte) : Option (List Byte) :=
  if bs.length < 4 ∨ ofBytes (bs.take 2) ≠ ident then none
  else match expandTokens dict (bs.drop 4) bs.length with
    | some h => if h.length = dict.length + ofBytes ((bs.drop 2).take 2) then some (h.drop dict.length) else none
    | none => none

end Sys2Proof.Machine
end

