-- ==== Sys2Proof/Machine/Float.lean ====
section
/-! DEFINITION. Number formats, exact values and RoundToFormat (R173 to R184). -/

namespace Sys2Proof.Machine

/-- A scalar format: width, fraction bits, bias, and whether it has infinities (R173). -/
structure Fmt where
  w : Nat
  f : Nat
  bias : Nat
  hasInf : Bool := true
  deriving DecidableEq, Repr

def f64 : Fmt := { w := 64, f := 52, bias := 1023 }
def f32 : Fmt := { w := 32, f := 23, bias := 127 }
def f16 : Fmt := { w := 16, f := 10, bias := 15 }
def bf16 : Fmt := { w := 16, f := 7, bias := 127 }
def e4m3 : Fmt := { w := 8, f := 3, bias := 7, hasInf := false }
def e5m2 : Fmt := { w := 8, f := 2, bias := 15 }

/-- The all-ones exponent field. -/
def Fmt.emax (m : Fmt) : Nat := 2 ^ (m.w - 1 - m.f) - 1

/-- An exact value: NaN (signalling or quiet), an infinity, or a magnitude `n/d` with a sign; a zero has `n = 0`. -/
inductive FVal where
  | nan (sig : Bool)
  | inf (neg : Bool)
  | fin (neg : Bool) (n d : Nat)
  deriving DecidableEq, Repr

/-- The five flags as %flags numbers them (R169): fv 16, fz 8, fo 4, fu 2, fx 1. -/
def fv : Nat := 16
def fz : Nat := 8
def fo : Nat := 4
def fu : Nat := 2
def fx : Nat := 1

/-- A code and the flags it raised. -/
structure FRes where
  code : Nat
  flags : Nat := 0
  deriving DecidableEq, Repr

def FVal.isNan : FVal → Bool
  | .nan _ => true
  | _ => false

def FVal.isSig : FVal → Bool
  | .nan g => g
  | _ => false

def FVal.isInf : FVal → Bool
  | .inf _ => true
  | _ => false

def FVal.isZero : FVal → Bool
  | .fin _ n _ => n == 0
  | _ => false

/-- The sign: true for negative; a NaN counts as positive. -/
def FVal.neg : FVal → Bool
  | .nan _ => false
  | .inf s => s
  | .fin s _ _ => s

/-- The value negated. -/
def FVal.negate : FVal → FVal
  | .nan g => .nan g
  | .inf s => .inf (!s)
  | .fin s n d => .fin (!s) n d

/-- `n × 2^e` as a magnitude. -/
def dyadic (neg : Bool) (n : Nat) (e : Int) : FVal :=
  if 0 ≤ e then .fin neg (n * 2 ^ e.toNat) 1 else .fin neg n (2 ^ (-e).toNat)

/-- Decode(bits, fmt) of R174. -/
def decodeF (m : Fmt) (code : Nat) : FVal :=
  let neg := bitOf code (m.w - 1)
  let e := bitsOf code m.f (m.w - 1 - m.f)
  let f := code % 2 ^ m.f
  if e = 0 then dyadic neg f (1 - (m.bias : Int) - m.f)
  else if e = m.emax ∧ m.hasInf then
    if f = 0 then .inf neg else .nan (!bitOf f (m.f - 1))
  else if e = m.emax ∧ f = 2 ^ m.f - 1 then .nan false
  else dyadic neg (2 ^ m.f + f) ((e : Int) - m.bias - m.f)

/-- CanonicalNaN(fmt) of R175. -/
def canonNan (m : Fmt) : Nat :=
  if m.hasInf then m.emax * 2 ^ m.f + 2 ^ (m.f - 1) else 2 ^ (m.w - 1) - 1

/-- The sign bit of a format, where the sign is negative. -/
def signBit (m : Fmt) (neg : Bool) : Nat := if neg then 2 ^ (m.w - 1) else 0

/-- The code of an infinity. -/
def infCode (m : Fmt) (neg : Bool) : Nat := signBit m neg + m.emax * 2 ^ m.f

/-- The code of MaxFinite(fmt) with a sign (R173). -/
def maxCode (m : Fmt) (neg : Bool) : Nat :=
  signBit m neg + (if m.hasInf then m.emax * 2 ^ m.f - 1 else 2 ^ (m.w - 1) - 2)

/-- Floor(log2(n/d)) of a positive magnitude. -/
def log2q (n d : Nat) : Int :=
  let e : Int := (Nat.log2 n : Int) - Nat.log2 d
  let ge : Bool := if 0 ≤ e then decide (d * 2 ^ e.toNat ≤ n) else decide (d ≤ n * 2 ^ (-e).toNat)
  if ge then e else e - 1

/-- Whether the magnitude is rounded away from `lo`, the remainder being `r/den` of the step (R181). `draw` is the thread's
draw, read under RND 101 only. -/
def roundUp (rnd : Nat) (neg : Bool) (lo r den draw : Nat) : Bool :=
  if r = 0 then false
  else match rnd with
    | 0 => decide (den < 2 * r) || (2 * r == den && lo % 2 == 1)
    | 1 => false
    | 2 => !neg
    | 3 => neg
    | 4 => decide (den ≤ 2 * r)
    | _ => if neg then !decide (draw * den < (den - r) * 2 ^ 32) else decide (draw * den < r * 2 ^ 32)

/-- Overflow(x, fmt, rnd, sat) of R182. -/
def overflowF (m : Fmt) (neg : Bool) (rnd : Nat) (sat : Bool) : FRes :=
  let toMax := sat || rnd == 1 || (rnd == 3 && !neg) || (rnd == 2 && neg)
  { code := if toMax then maxCode m neg else if m.hasInf then infCode m neg else canonNan m, flags := fo + fx }

/-- RoundToFormat of R181 for the scalar formats. -/
def roundF (m : Fmt) (x : FVal) (rnd : Nat) (sat : Bool := false) (draw : Nat := 0) : FRes :=
  match x with
  | .nan _ => { code := canonNan m }
  | .inf neg =>
    if sat then { code := maxCode m neg }
    else if m.hasInf then { code := infCode m neg }
    else { code := canonNan m, flags := fv }
  | .fin neg n d =>
    if n = 0 then { code := signBit m neg }
    else
      let emin : Int := 1 - (m.bias : Int)
      let e := log2q n d
      let u : Int := (if e < emin then emin else e) - m.f
      let num := if 0 ≤ u then n else n * 2 ^ (-u).toNat
      let den := if 0 ≤ u then d * 2 ^ u.toNat else d
      let lo := num / den
      let r := num % den
      let mag := if roundUp rnd neg lo r den draw then lo + 1 else lo
      let code := ((u + m.bias + m.f) * 2 ^ m.f + mag - 2 ^ m.f).toNat
      if maxCode m false < code then overflowF m neg rnd sat
      else { code := signBit m neg + code, flags := if r = 0 then 0 else if e < emin then fu + fx else fx }

/-- A signed integer as an exact value; 0 is +0. -/
def ofInt (i : Int) : FVal := .fin (decide (i < 0)) i.natAbs 1

/-- A finite value as a signed numerator over its denominator. -/
def FVal.num : FVal → Int × Nat
  | .fin neg n d => (if neg then -(n : Int) else n, d)
  | _ => (0, 1)

/-- The exact sum of finite values. -/
def sumFin (xs : List FVal) : Int × Nat :=
  xs.foldl (fun a x =>
    let b := x.num
    if a.2 = b.2 then (a.1 + b.1, a.2) else (a.1 * b.2 + b.1 * a.2, a.2 * b.2)) (0, 1)

/-- The sign of a sum that is exactly zero (R181): −0 when every addend is −0; under RDN also whenever the addends are not
all +0; else +0. -/
def zeroSumNeg (xs : List FVal) (rnd : Nat) : Bool :=
  xs.all (fun x => x.isZero && x.neg) || (rnd == 3 && !xs.all fun x => x.isZero && !x.neg)

/-- The exact sum of values with the flags it raises: a NaN operand gives NaN, opposite infinities are invalid (R184). -/
def sumExact (xs : List FVal) (rnd : Nat) : FVal × Nat :=
  let sig := xs.any FVal.isSig
  if xs.any FVal.isNan then (.nan false, if sig then fv else 0)
  else if xs.any (fun x => x == .inf false) && xs.any (fun x => x == .inf true) then (.nan false, fv)
  else if xs.any (fun x => x == .inf false) then (.inf false, 0)
  else if xs.any (fun x => x == .inf true) then (.inf true, 0)
  else
    let t := sumFin xs
    if t.1 = 0 then (.fin (zeroSumNeg xs rnd) 0 1, 0) else (.fin (decide (t.1 < 0)) t.1.natAbs t.2, 0)

/-- The exact product: 0 × ∞ is invalid (R184). -/
def mulExact (x y : FVal) : FVal × Nat :=
  let neg := x.neg != y.neg
  match x, y with
  | .nan a, .nan b => (.nan false, if a || b then fv else 0)
  | .nan a, _ => (.nan false, if a then fv else 0)
  | _, .nan b => (.nan false, if b then fv else 0)
  | .inf _, y => if y.isZero then (.nan false, fv) else (.inf neg, 0)
  | x, .inf _ => if x.isZero then (.nan false, fv) else (.inf neg, 0)
  | .fin _ a b, .fin _ c d => (.fin neg (a * c) (b * d), 0)

/-- The exact quotient: 0/0 and ∞/∞ are invalid, a finite nonzero dividend over 0 raises fz (R184, R213). -/
def divExact (x y : FVal) : FVal × Nat :=
  let neg := x.neg != y.neg
  match x, y with
  | .nan a, .nan b => (.nan false, if a || b then fv else 0)
  | .nan a, _ => (.nan false, if a then fv else 0)
  | _, .nan b => (.nan false, if b then fv else 0)
  | .inf _, .inf _ => (.nan false, fv)
  | .inf _, _ => (.inf neg, 0)
  | _, .inf _ => (.fin neg 0 1, 0)
  | .fin _ a b, .fin _ c d =>
    if c = 0 then (if a = 0 then (.nan false, fv) else (.inf neg, fz)) else (.fin neg (a * d) (b * c), 0)

/-- Round an exact value that carries the flags of its making. -/
def finishF (m : Fmt) (r : FVal × Nat) (rnd : Nat) : FRes :=
  let q := roundF m r.1 rnd
  { code := q.code, flags := q.flags ||| r.2 }

/-- Add(x, y, fmt, rnd) on codes (R187). -/
def addF (m : Fmt) (x y rnd : Nat) : FRes := finishF m (sumExact [decodeF m x, decodeF m y] rnd) rnd

/-- Multiplication on codes, rounded once (R213). -/
def mulF (m : Fmt) (x y rnd : Nat) : FRes := finishF m (mulExact (decodeF m x) (decodeF m y)) rnd

/-- Division on codes (R213). -/
def divF (m : Fmt) (x y rnd : Nat) : FRes := finishF m (divExact (decodeF m x) (decodeF m y)) rnd

/-- Fused multiply-add on codes: 0 × ∞ raises fv even when the addend is a quiet NaN (R213). -/
def fmaF (m : Fmt) (x y z rnd : Nat) : FRes :=
  let p := mulExact (decodeF m x) (decodeF m y)
  let q := sumExact [p.1, decodeF m z] rnd
  finishF m (q.1, p.2 ||| q.2) rnd

/-- Whether x is less than y, neither a NaN. -/
def FVal.lt (x y : FVal) : Bool :=
  match x, y with
  | .inf a, .inf b => a && !b
  | .inf a, _ => a
  | _, .inf b => !b
  | x, y =>
    let a := x.num
    let b := y.num
    decide (a.1 * b.2 < b.1 * a.2)

/-- Whether x equals y, neither a NaN; −0 = +0. -/
def FVal.feq (x y : FVal) : Bool := !x.lt y && !y.lt x

/-- The magnitude compared with a power: whether |x| is an integer (R218). -/
def FVal.isInt : FVal → Bool
  | .fin _ n d => n % d == 0
  | _ => false

/-- A finite value rounded to an integer under RND, as an exact value with the value's sign on a zero result (R218). -/
def toIntegral (neg : Bool) (n d rnd : Nat) : Nat :=
  let lo := n / d
  if roundUp rnd neg lo (n % d) d 0 then lo + 1 else lo

/-- The sign bit of a code inverted where `s` (SignCtl of R213). -/
def signCtl (m : Fmt) (code : Nat) (s : Bool) : Nat := if s then code ^^^ 2 ^ (m.w - 1) else code

/-- The sign bit of a code cleared where `s` (SGC *abs* of R211). -/
def absCtl (m : Fmt) (code : Nat) (s : Bool) : Nat := if s then code % 2 ^ (m.w - 1) else code

/-- FMIN or FMAX (`num`) or FMINM or FMAXM on codes after SGC (R215); `less` picks the lesser. -/
def minMaxF (m : Fmt) (x y : Nat) (less num : Bool) : FRes :=
  let a := decodeF m x
  let b := decodeF m y
  let fl := if a.isSig || b.isSig then fv else 0
  if a.isNan && b.isNan then { code := canonNan m, flags := fl }
  else if a.isNan then { code := if num then y else canonNan m, flags := fl }
  else if b.isNan then { code := if num then x else canonNan m, flags := fl }
  else
    let xLess := a.lt b || (a.isZero && b.isZero && a.neg)
    { code := if xLess == less then x else y, flags := fl }

/-! ## Roots and functions correctly rounded (R219): an inexact result is given to RoundToFormat as a rational that lies
between the same two candidates and on the same side of their midpoint -/

/-- A positive square root of n/d: exact where it is, else a neighbour of 80 significant bits that is not exact at the
precision of any format. -/
def sqrtQ (n d : Nat) : FVal :=
  let e := log2q n d
  -- scale by an even power of 4 so that the root has at least 80 bits
  let k : Int := 160 - e
  let k2 : Nat := ((k + (k % 2)).toNat)
  let num := n * d * 2 ^ k2
  let r := Nat.sqrt num
  -- sqrt(n/d) = sqrt(n·d)/d
  if r * r = num then .fin false r (d * 2 ^ (k2 / 2)) else .fin false (2 * r + 1) (2 * d * 2 ^ (k2 / 2))

/-- An interval of fixed-point numbers, scaled by 2^P. -/
structure Ival where
  lo : Int
  hi : Int
  deriving DecidableEq, Repr

/-- Floor and ceiling of a product of two nonnegative fixed-point numbers. -/
def mulLo (p : Nat) (a b : Nat) : Nat := a * b / 2 ^ p
def mulHi (p : Nat) (a b : Nat) : Nat := a * b / 2 ^ p + 1

/-- A series with nonnegative terms t(0), t(1) = step t(0) 1, …: `n` terms summed, lower bounds. -/
def seriesLo (n k : Nat) (t : Nat) (step : Nat → Nat → Nat) (f : Nat → Nat → Nat) : Nat :=
  match n with
  | 0 => 0
  | n + 1 => f t k + seriesLo n (k + 1) (step t (k + 1)) step f

/-- arctanh(a/b) for 0 ≤ a/b ≤ 1/3, scaled by 2^p: the odd powers over their exponents. -/
def atanhQ (p a b : Nat) : Ival :=
  let z2n := a * a
  let z2d := b * b
  let lo := seriesLo (p + 8) 0 (a * 2 ^ p / b) (fun t _ => t * z2n / z2d) (fun t k => t / (2 * k + 1))
  { lo := lo, hi := (lo + 2 * (p + 16) : Nat) }

/-- ln 2 scaled by 2^p: 2 × arctanh(1/3). -/
def ln2 (p : Nat) : Ival := let i := atanhQ p 1 3; { lo := 2 * i.lo, hi := 2 * i.hi }

/-- arctan(1/m) scaled by 2^p, for m ≥ 5. -/
def atanInv (p m : Nat) : Ival :=
  let t0 := 2 ^ p / m
  let pos := seriesLo (p / 4 + 8) 0 t0 (fun t _ => t / (m * m * (m * m))) (fun t k => t / (4 * k + 1))
  let neg := seriesLo (p / 4 + 8) 0 (t0 / (m * m)) (fun t _ => t / (m * m * (m * m))) (fun t k => t / (4 * k + 3))
  { lo := (pos : Int) - neg - (2 * (p + 16) : Nat), hi := (pos : Int) - neg + (2 * (p + 16) : Nat) }

/-- π scaled by 2^p, by Machin's formula. -/
def piQ (p : Nat) : Ival :=
  let a := atanInv p 5
  let b := atanInv p 239
  { lo := 16 * a.lo - 4 * b.hi, hi := 16 * a.hi - 4 * b.lo }

/-- exp(y) for a fixed-point y in [0, 1], scaled by 2^p. -/
def expQ (p : Nat) (y : Ival) : Ival :=
  let s (v : Nat) : Nat := seriesLo (p + 8) 0 (2 ^ p) (fun t k => t * v / 2 ^ p / k) (fun t _ => t)
  { lo := s y.lo.toNat, hi := (s y.hi.toNat + 4 * (p + 16) : Nat) }

/-- sin(y), for a fixed-point y in [0, π/2], scaled by 2^p: the positive terms less the negative ones. -/
def sinQ (p : Nat) (y : Ival) : Ival :=
  let sq (v : Nat) : Nat := v * v / 2 ^ p
  let part (v first : Nat) : Nat :=
    let v2 := sq v
    let v4 := v2 * v2 / 2 ^ p
    if first = 1 then
      seriesLo (p / 2 + 8) 0 v (fun t k => t * v4 / 2 ^ p / ((4 * k - 2) * (4 * k - 1) * (4 * k) * (4 * k + 1)))
        (fun t _ => t)
    else
      seriesLo (p / 2 + 8) 0 (v * v2 / 2 ^ p / 6)
        (fun t k => t * v4 / 2 ^ p / ((4 * k) * (4 * k + 1) * (4 * k + 2) * (4 * k + 3))) (fun t _ => t)
  let err : Int := ((16 * (p + 16) : Nat) : Int)
  { lo := (part y.lo.toNat 1 : Int) - part y.hi.toNat 3 - err, hi := (part y.hi.toNat 1 : Int) - part y.lo.toNat 3 + err }

/-- A fixed-point number as an exact value. -/
def ofFixed (p : Nat) (i : Int) : FVal := .fin (decide (i < 0)) i.natAbs (2 ^ p)

/-- The rounding of a value known by ever narrower intervals: the first precision at which both ends round alike decides;
the value is never a tie, since it is irrational. -/
def roundIval (m : Fmt) (f : Nat → Ival) (shift : Int) : FRes :=
  let at_ (p : Nat) (i : Int) : FRes :=
    match ofFixed p i with
    | .fin neg n d => if 0 ≤ shift then roundF m (.fin neg (n * 2 ^ shift.toNat) d) 0
                      else roundF m (.fin neg n (d * 2 ^ (-shift).toNat)) 0
    | v => roundF m v 0
  let try_ (p : Nat) : Option FRes :=
    let i := f p
    let a := at_ p i.lo
    if a = at_ p i.hi then some a else none
  match try_ 320 with
  | some r => { r with flags := r.flags ||| fx }
  | none => match try_ 1024 with
    | some r => { r with flags := r.flags ||| fx }
    | none => let r := at_ 4096 (f 4096).lo; { r with flags := r.flags ||| fx }

/-- 2^x of a finite x. Beyond ±1024 every format overflows or gives its smallest result. -/
def ex2F (m : Fmt) (neg : Bool) (n d : Nat) : FRes :=
  let i := n / d
  let r := n % d
  if n = 0 then roundF m (.fin false 1 1) 0
  else if 1024 ≤ i then roundF m (dyadic false 3 (if neg then -1026 else 1023)) 0
  else if r = 0 then roundF m (dyadic false 1 (if neg then -(i : Int) else i)) 0
  else
    -- a negative x is −(i + 1) plus a positive fraction
    let whole : Int := if neg then -(i : Int) - 1 else i
    let fr := if neg then d - r else r
    roundIval m (fun p =>
      let l := ln2 p
      expQ p { lo := l.lo * fr / d, hi := l.hi * fr / d + 1 }) whole

/-- log2 of a positive finite x: exact for powers of 2. -/
def lg2F (m : Fmt) (n d : Nat) : FRes :=
  let e := log2q n d
  -- the significand a/b in [1, 2)
  let a := if 0 ≤ e then n else n * 2 ^ (-e).toNat
  let b := if 0 ≤ e then d * 2 ^ e.toNat else d
  if a = b then roundF m (ofInt e) 0
  else roundIval m (fun p =>
    let l := atanhQ p (a - b) (a + b)
    let k := ln2 p
    { lo := e * 2 ^ p + 2 * l.lo * 2 ^ p / k.hi, hi := e * 2 ^ p + 2 * l.hi * 2 ^ p / k.lo + 1 }) 0

/-- sin(π·h) for a magnitude h = n/d, with the sign of the whole: exact where 2h is an integer. -/
def sinPiF (m : Fmt) (neg : Bool) (n d : Nat) (zeroNeg : Bool) : FRes :=
  let r := n % (2 * d)
  let flip := decide (d ≤ r)
  let r1 := if d ≤ r then r - d else r
  let r2 := if d < 2 * r1 then d - r1 else r1
  let sgn := neg != flip
  if r1 = 0 then { code := signBit m zeroNeg }
  else if 2 * r1 = d then roundF m (.fin sgn 1 1) 0
  else
    let q := roundIval m (fun p =>
      let c := piQ p
      sinQ p { lo := c.lo * r2 / d, hi := c.hi * r2 / d + 1 }) 0
    { q with code := signBit m sgn + q.code }

/-- A number of squarings of a fixed-point interval. -/
def squareQ (p k : Nat) (i : Ival) : Ival :=
  match k with
  | 0 => i
  | k + 1 => squareQ p k { lo := i.lo * i.lo / 2 ^ p, hi := i.hi * i.hi / 2 ^ p + 1 }

/-- tanh of a positive finite x = n/d. Below 2^-40 it lies just under x, from 64 on just under 1. -/
def tanhF (m : Fmt) (n d : Nat) : FRes :=
  if n * 2 ^ 40 < d then roundF m (.fin false (n * (2 ^ 64 - 1)) (d * 2 ^ 64)) 0
  else if 64 * d ≤ n then roundF m (.fin false (2 ^ 100 - 1) (2 ^ 100)) 0
  else roundIval m (fun p =>
    -- exp(2x) by eight squarings of exp(2x/256)
    let y : Ival := { lo := 2 * n * 2 ^ p / (d * 256), hi := 2 * n * 2 ^ p / (d * 256) + 1 }
    let e := squareQ p 8 (expQ p y)
    let one : Int := 2 ^ p
    { lo := (e.lo - one) * one / (e.lo + one), hi := (e.hi - one) * one / (e.hi + one) + 1 }) 0

/-! ## The 4-bit block formats (R178 to R180) -/

/-- The value of a 4-bit code in eighths, before its scale (R179): type 0 UI, 1 E2M1, 2 P2, 3 FI. -/
def q4Mag (ty k : Nat) : Nat :=
  if k = 0 then 0
  else match ty with
    | 1 => [0, 4, 8, 12, 16, 24, 32, 48].getD k 0
    | 2 => 2 ^ (k - 1)
    | _ => [0, 8, 16, 24, 32, 48, 64, 96].getD k 0

/-- Decode of a .q4 code with its block's scale byte: a code value × 2^(EXP − 40), or NaN where EXP is 63 (R178). -/
def q4Decode (scale code : Nat) : FVal :=
  let ty := scale / 64 % 4
  let ex : Int := ((scale % 64 : Nat) : Int) - 43
  if scale % 64 = 63 then .nan false
  else if ty = 0 then
    let v := sval code 4
    dyadic (decide (v < 0)) (v.natAbs * 8) ex
  else dyadic (bitOf code 3) (q4Mag ty (code % 8)) ex

/-- The codes of a type in ascending value, with the value in eighths. -/
def q4Ladder (ty : Nat) : List (Int × Nat) :=
  if ty = 0 then (List.range 16).map fun (k : Nat) => (((k : Int) - 8) * 8, (k + 8) % 16)
  else ((List.range 7).map fun k => (-((q4Mag ty (7 - k) : Nat) : Int), 8 + (7 - k))) ++
    ((List.range 8).map fun k => ((q4Mag ty k : Int), k))

/-- RoundToFormat to a .q4 type with a scale byte whose EXP is not 63 (R181, R221). The lowest bit that RNE makes 0 on a tie
is that of the magnitude index, or of the code under UI. -/
def q4Round (scale : Nat) (x : FVal) (rnd : Nat) (sat : Bool) (draw : Nat) : FRes :=
  let ty := scale / 64 % 4
  let ladder := q4Ladder ty
  let maxC := (ladder.getLast?.getD (0, 0)).2
  let minC := (ladder.head?.getD (0, 0)).2
  let z (neg : Bool) : Nat := if ty = 0 then 0 else if neg then 8 else 0
  match x with
  | .nan _ => { code := 0, flags := fv }
  | .inf neg =>
    let top := (ladder.getLast?.getD (0, 0)).1
    if sat then { code := if neg then ((ladder.find? fun e => e.1 == -top).getD (0, minC)).2 else maxC }
    else { code := 0, flags := fv }
  | .fin neg n d =>
    if n = 0 then { code := z neg }
    else
      -- compare x with v/8 · 2^(EXP−40): scale x by 2^(43−EXP)
      let sh : Int := 43 - ((scale % 64 : Nat) : Int)
      let num0 := if 0 ≤ sh then n * 2 ^ sh.toNat else n
      let den := if 0 ≤ sh then d else d * 2 ^ (-sh).toNat
      let num : Int := if neg then -(num0 : Int) else num0
      let top := (ladder.getLast?.getD (0, 0)).1
      let bot := (ladder.head?.getD (0, 0)).1
      if top * den < num then { code := maxC, flags := fo + fx }
      else if num < bot * den then { code := minC, flags := fo + fx }
      else
        let below := ladder.filter fun e => decide (e.1 * den ≤ num)
        let above := ladder.filter fun e => decide (num ≤ e.1 * den)
        let lo := below.getLast?.getD (0, 0)
        let hi := above.head?.getD (0, 0)
        if lo.1 * den = num then { code := if lo.1 = 0 then z neg else lo.2 }
        else
          let r := (num - lo.1 * den).toNat
          let step := ((hi.1 - lo.1) * den).toNat
          let pickHi : Bool := match rnd with
            | 0 => decide (step < 2 * r) || (2 * r == step && hi.2 % 2 == 0)
            | 1 => neg
            | 2 => true
            | 3 => false
            | 4 => decide (step < 2 * r) || (2 * r == step && !neg)
            | _ => decide (draw * step < r * 2 ^ 32)
          let m := if pickHi then hi else lo
          { code := if m.1 = 0 then z neg else m.2, flags := fx }

end Sys2Proof.Machine
end

