-- ==== Sys2Proof/Machine/Operands.lean ====
section
/-! DEFINITION. What happens to an issue before its effect: active lanes, encoding and role, unlisted dependences,
empty registers, in the order of R40; and how an issue ends. -/

namespace Sys2Proof.Machine

/-- The register number of a v operand. -/
def vregOf : Src → Nat
  | .v n => n.toNat
  | _ => 0

/-- Registers that a source slot reads (R29, R230). -/
def srcRegs : SKind → Nat
  | .none => 0
  | .pair | .regPair => 2
  | .regQuad => 4
  | .vreg n => n
  | _ => 1

/-- Registers that a destination slot names. -/
def dstRegs : DKind → Nat
  | .none => 0
  | .pair | .pairL => 2
  | .quadL => 4
  | _ => 1

/-- Whether a destination slot belongs to a long-latency producer (R24, R28). -/
def dstLong : DKind → Bool
  | .valL | .pairL | .quadL | .predL => true
  | _ => false

/-- The v-registers that a source of `k` registers names. -/
def srcVregs (x : Src) (k : Nat) : List Nat :=
  match x with
  | .v n => (List.range k).map (n.toNat + ·)
  | _ => []

/-- The v-registers that a destination of `k` registers names. -/
def dstVregs (x : Dst) (k : Nat) : List Nat :=
  match x with
  | .v n => (List.range k).map (n.toNat + ·)
  | _ => []

/-- The v-registers an instruction names. -/
def stdVregs (x : Std) (g : Sig) : List Nat :=
  srcVregs x.a (srcRegs g.a) ++ srcVregs x.b (srcRegs g.b) ++ srcVregs x.c (srcRegs g.c) ++
  dstVregs x.d (dstRegs g.d)

/-- The v-registers that an instruction names, as its opcode reads its slots. -/
def namedVregs (opc : Nat) (x : Std) : List Nat :=
  match x.sig opc with
  | some sg => stdVregs x sg
  | none => []

/-- Instructions that act once per issue, with the operands of the lowest active thread (R243, R283, R306, R324, R327,
R335), and LDK, which reads that thread's address only (R233). -/
def actsOnce (opc : Nat) : Bool :=
  opc == 0x74 || (decide (0x90 ≤ opc) && decide (opc ≤ 0xA8)) || opc == 0xB0 || opc == 0xB3 || opc == 0xB5 || opc == 0xB6 ||
  (decide (0xC0 ≤ opc) && decide (opc ≤ 0xC7)) || opc == 0xD5 || opc == 0xD7 || opc == 0xDF

/-- Whether a role is entitled to an opcode (R16, R155). -/
def roleOk (opc : Nat) (r : Role) : Bool :=
  if 0x90 ≤ opc ∧ opc ≤ 0x92 then r == .feed
  else if 0xA0 ≤ opc ∧ opc ≤ 0xA8 then r == .matrix
  else if 0xB0 ≤ opc ∧ opc ≤ 0xB7 then r == .feed || r == .vector
  else if 0xC0 ≤ opc ∧ opc ≤ 0xC7 then r == .vector || r == .control
  else if opc = 0xD8 then r == .feed || r == .vector
  else if opc = 0xDF then r == .control
  else true

/-- SRD and SWR of the event-queue codes are CONTROL's alone (R334). -/
def evqOk (opc fn : Nat) (r : Role) : Bool :=
  !(opc == 0xDA || opc == 0xDB) || !(decide (0x18 ≤ fn) && decide (fn ≤ 0x27)) || r == .control

/-- What an issue meets before its effect. -/
inductive Gate where
  /-- the instruction waits: a guard, source or destination is empty (R27, R28, R168) -/
  | stall
  /-- a program trap with its cause and %xinfo (R331) -/
  | trap (cause info : Nat)
  /-- its effect may take place -/
  | pass
  deriving DecidableEq, Repr

/-- The guard of an instruction in a thread (R27). -/
def stdGuard (x : Std) (t : Thread) : Bool := t.pred x.grd.toNat != x.gneg

/-- The active lanes of an instruction in a run (R27). -/
def activeLanes (g : Group) (r : RunIn) (x : Std) : List Nat :=
  (lanesOf r.set).filter fun l => match g.thread l with
    | some t => stdGuard x t
    | none => false

/-- Some thread of the run reads an empty predicate as its guard (R27). -/
def guardEmpty (g : Group) (r : RunIn) (x : Std) : Bool :=
  (lanesOf r.set).any fun l => match g.thread l with
    | some t => t.predEmpty x.grd.toNat
    | none => false

/-- Source slot `i` (0 A, 1 B, 2 C) of an instruction with its register count. -/
def stdSlot (x : Std) (sg : Sig) (i : Nat) : Src × Nat :=
  if i = 0 then (x.a, srcRegs sg.a) else if i = 1 then (x.b, srcRegs sg.b) else (x.c, srcRegs sg.c)

/-- Whether slot `i` has the trap policy (R23, R28); in the float family bit 24 governs B and C (R208). -/
def stdTrapPolicy (x : Std) (opc i : Nat) : Bool :=
  if i = 2 ∧ 0x40 ≤ opc ∧ opc < 0x60 then x.emp.getLsbD 1 else x.emp.getLsbD i

/-- The lane that holds the scale of lane `l`'s block (R222). -/
def scaleLane (l sel : Nat) : Nat := l / 4 * 4 + sel / 4

/-- SEL of CVTF's control word (R220). -/
def cvtSel (x : Std) : Nat := (x.c.constBits).getD 0 / 256 % 16

/-- The lanes in which slot `i` is read for these active lanes: their own, but for CVTF's scale, which is read in the lane that holds
it, whether or not that is active (R222). -/
def slotLanes (ls : List Nat) (x : Std) (sg : Sig) (i : Nat) : List Nat :=
  if i = 1 ∧ sg.b = SKind.scale then ls.map fun l => scaleLane l (cvtSel x) else ls

/-- Slot `i` is empty in some lane in which it is read for these lanes. -/
def slotEmpty (g : Group) (ls : List Nat) (x : Std) (sg : Sig) (i : Nat) : Bool :=
  let (src, k) := stdSlot x sg i
  (slotLanes ls x sg i).any fun l => match g.thread l with
    | some t => srcEmpty g t k src
    | none => false

/-- The lanes whose sources an instruction reads: the active ones, or of one that acts once the lowest (R233, R243). -/
def readLanes (opc : Nat) (act : List Nat) : List Nat := if actsOnce opc then act.take 1 else act

/-- The v-registers that an issue reads or writes, each with its lane (R38). -/
def touches (opc : Nat) (x : Std) (act : List Nat) : List (Nat × Nat) :=
  match x.sig opc with
  | none => []
  | some sg =>
    ([0, 1, 2].flatMap fun i =>
      (srcVregs (stdSlot x sg i).1 (stdSlot x sg i).2).flatMap fun n =>
        (slotLanes (readLanes opc act) x sg i).map fun l => (l, n)) ++
    (dstVregs x.d (dstRegs sg.d)).flatMap fun n => act.map fun l => (l, n)

/-- A special register is RO in a thread of this MODE (R169, R331). -/
def specialRo (fn : Nat) (mode : Bool) : Bool :=
  !([0x0C, 0x0D, 0x0E, 0x18, 0x1A, 0x28].contains fn || (mode && (fn == 0x10 || fn == 0x11)))

/-- An SWR of a register that is RO at that moment: the threads of a run share their MODE (R161, R169, R334). -/
def writesRo (opc : Nat) (x : Std) (g : Group) (r : RunIn) : Bool :=
  opc == 0xDB && specialRo x.fn.toNat ((lanesOf r.set).any fun l => match g.thread l with
    | some t => t.mode
    | none => false)

/-- What an instruction meets in a group, by R40: encoding, role, the guard's predicate, unlisted dependence, empty
sources, then a destination that an earlier producer has left empty. `flying` says whether an overtaken write is still
in flight (R38, log 8). -/
def gate (opc : Nat) (x : Std) (g : Group) (r : RunIn) (tm : Team) (flying : Bool) : Gate :=
  match x.sig opc with
  | none => .trap 3 0
  | some sg =>
    if !x.ok opc || (stdVregs x sg).any (fun n => decide (tm.budget g.role ≤ n)) || writesRo opc x g r then .trap 3 0
    else if !roleOk opc g.role || !evqOk opc x.fn.toNat g.role then .trap 5 0
    else if guardEmpty g r x then .stall
    else
      let act := activeLanes g r x
      let rd := readLanes opc act
      match (if flying then (touches opc x act).find? fun e => g.overtaken.contains e else none) with
      | some e => .trap 6 e.2
      | none =>
        match [0, 1, 2].find? fun i => stdTrapPolicy x opc i && slotEmpty g rd x sg i with
        | some i => .trap 7 i
        | none =>
          if [0, 1, 2].any (fun i => slotEmpty g rd x sg i) then .stall
          else if act.any (fun l => match g.thread l with
              | some t => dstEmpty g t (dstRegs sg.d) x.d
              | none => false) then .stall
          else .pass

/-- The overtaken writes that an instruction has touched have retired (R38). -/
def Group.retireTouched (g : Group) (ts : List (Nat × Nat)) : Group :=
  { g with overtaken := g.overtaken.filter fun e => !ts.contains e }

/-- Energy metered in the tick, in 1/256 nJ (R366, R368). -/
def State.meter (s : State) (pan ec units : Nat) : State :=
  s.modPan pan fun n => { n with pw := { n.pw with metered := n.pw.metered + units * (Config.ecUnit ec).toNat } }

/-- Vector arithmetic on 64-bit values, which takes two beats for sixteen threads (R158): the integer family's forms of WID 01
(R190), and the float family's with a .f64 operand or a 64-bit integer pair (R210). -/
def wideBeats (opc : Nat) (x : Std) : Bool :=
  if opc < 0x40 then x.fn.toNat / 16 == 1
  else decide (opc < 0x60) && match x.sig opc with
    | some g => g.d == .pair || [g.a, g.b, g.c].any fun k => k == .pair || k == .regPair
    | none => false

/-- Instructions that take one beat however many threads are active: the bound ones of the matrix, copy, rake and graphics classes
(R158), and branches, calls and returns (R316). -/
def oneBeat (opc : Nat) : Bool :=
  (decide (0xD0 ≤ opc) && decide (opc ≤ 0xD4)) || (decide (0x90 ≤ opc) && decide (opc ≤ 0x92)) || (decide (0xA0 ≤ opc) && decide (opc ≤ 0xA8)) ||
  (decide (0xB0 ≤ opc) && decide (opc ≤ 0xB7)) || (decide (0xC0 ≤ opc) && decide (opc ≤ 0xC7))

/-- The beats of an issue (R157, R158). -/
def Ctx.beats (c : Ctx) : Nat :=
  if c.single ∨ c.slot ≥ 128 ∨ c.lanes.isEmpty then 1 else (c.lanes.length + 15) / 16 * (if c.wide then 2 else 1)

/-- An issue before its effect: either it is over (it waits, has trapped, or no thread is active), with the state it
leaves, or its effect may take place in a context. -/
inductive Front where
  | over_ (s : State)
  | go (s : State) (c : Ctx)

/-- The run of a group goes on past an instruction of `n` words, the lanes of `leave` having left it. A run's end may free
the group, and places a yielding group behind the others (R17, R19, R153). Its beats are metered (R366, R368). -/
def Ctx.finish (c : Ctx) (s : State) (g : Group) (n : Nat) (leave : List Nat) : State :=
  let g' := g.advance c.run n leave
  let s1 := s.setGroup c.pan c.slot g'
  let s2 := if c.run.yld && g'.run.isNone then s1.modPan c.pan fun p => p.yieldPlace c.slot s.clock.cycles else s1
  (s2.settleGroup c.pan c.slot).meter c.pan 17 c.beats

/-- The selector of SAL_DSTAT (R334). -/
def salDstatFn : Nat := 0x28

/-- Faultable and sealing instructions, at which the threads of a torn slot exit (R59, R129, R375). SWR seals only where it
names SAL_DSTAT. -/
def tornExits (opc fn : Nat) : Bool :=
  opc == 0x70 || opc == 0x71 || opc == 0x74 || opc == 0x79 || opc == 0x7B || opc == 0x7D || opc == 0x80 || opc == 0x82 ||
  opc == 0x83 || (decide (0x90 ≤ opc) && decide (opc ≤ 0x92)) || (decide (0x96 ≤ opc) && decide (opc ≤ 0x9A)) ||
  (decide (0xA0 ≤ opc) && decide (opc ≤ 0xC7)) || opc == 0xD5 || opc == 0xD7 || opc == 0xDD || (opc == 0xDB && fn == salDstatFn)

/-- The slot of a group's team is torn (R62). -/
def Ctx.torn (c : Ctx) (s : State) : Bool := (s.asSlot c.tm.part c.tm.slot).torn

/-- Lanes of an issue that exit at the instruction, which has no effect for them (R375). -/
def Ctx.exitAt (c : Ctx) (s : State) (n : Nat) (ls : List Nat) : State :=
  c.finish s (c.g.exitLanes ls) n ls

/-- The instruction waits in place: its group stands as it did, with what the issue has settled. In a torn slot a waiting
thread exits at once (R375). -/
def Ctx.stall (c : Ctx) (s : State) : State := s.setGroup c.pan c.slot c.g

def Ctx.wait (c : Ctx) (s : State) (n : Nat) : State := if c.torn s then c.exitAt s n c.lanes else c.stall s

/-- The steps of R40 that precede an instruction's own effect. -/
def front (opc : Nat) (x : Std) (s : State) : Front :=
  match s.issuer with
  | none => .over_ s
  | some (g, r, tm) =>
    let act := activeLanes g r x
    let ts := touches opc x act
    let touched := g.overtaken.any ts.contains
    let flying := touched && Config.stillInFlight s.freeCtr
    let s1 := if touched then { s with freeCtr := s.freeCtr + 1 } else s
    let c : Ctx := { pan := s.actor.1, slot := s.actor.2, g := g, run := r, tm := tm, lanes := act, wide := wideBeats opc x,
                     single := oneBeat opc }
    match gate opc x g r tm flying with
    | .stall => .over_ s
    | .trap cause info => .over_ (c.trapAll s1 cause info r.pos)
    | .pass =>
      let g1 := g.retireTouched ts
      let c' : Ctx := { c with g := g1 }
      if act.isEmpty then .over_ (c.finish s1 g1 (stdWords x) [])
      else if tornExits opc x.fn.toNat && c.torn s then .over_ (c'.exitAt s1 (stdWords x) act)
      else .go s1 c'

/-- A register result of one instruction: the values of its active lanes written to its destination, and the run goes on
(R38, R166, R190). -/
def Ctx.write (c : Ctx) (s : State) (x : Std) (k : Nat) (vals : List (Nat × Nat)) : State :=
  let wrote := match x.d with
    | .v n => vals.map fun e => (e.1, n.toNat, k)
    | _ => []
  let c' := { c with run := { c.run with wrote := c.run.wrote ++ wrote } }
  c'.finish s (c.g.put x.d k vals) (stdWords x) []

/-- The values of a function of the thread over the active lanes. -/
def Ctx.perLane (c : Ctx) (f : Nat → Thread → Nat) : List (Nat × Nat) :=
  c.lanes.filterMap fun l => (c.g.thread l).map fun t => (l, f l t)

/-- An instruction that computes one value per active thread from its sources and writes it (R190). -/
def execPerLane (opc : Nat) (x : Std) (k : Nat) (s : State) (f : Group → Thread → Nat) :
    Host.Outcome State Fault Refusal :=
  match front opc x s with
  | .over_ s' => .next s'
  | .go s' c => .next (c.write s' x k (c.perLane fun _ t => f c.g t))

end Sys2Proof.Machine
end

