-- ==== Sys2Proof/Machine/Integer.lean ====
section
/-! DEFINITION. Rows 0x00 to 0x3F: integer, address, bit and predicate instructions (R188 to R207). -/

namespace Sys2Proof.Machine

/-! ## Elements (R189) and exact arithmetic helpers -/

/-- WID, SGN, SAT and OPS of an integer form (R30). -/
def widOf (x : Std) : Nat := x.fn.toNat / 16
def sgnOf (x : Std) : Nat := x.fn.toNat / 8 % 2
def satOf (x : Std) : Nat := x.fn.toNat / 4 % 2
def opsOf (x : Std) : Nat := x.fn.toNat % 4

/-- Element width under WID (R189). -/
def elemW (wid : Nat) : Nat := if wid = 0 then 32 else if wid = 1 then 64 else if wid = 2 then 16 else 8

/-- Elements per operand under WID (R189). -/
def elemN (wid : Nat) : Nat := if wid = 2 then 2 else if wid = 3 then 4 else 1

/-- Registers per operand under WID. -/
def widRegs (wid : Nat) : Nat := if wid = 1 then 2 else 1

/-- Element `k` of a value (R189). -/
def elem (x w k : Nat) : Nat := (x >>> (w * k)) % 2 ^ w

/-- A value built of `n` elements of width `w`. -/
def build (w n : Nat) (f : Nat → Nat) : Nat :=
  (List.range n).foldl (fun a k => a + (f k % 2 ^ w) * 2 ^ (w * k)) 0

/-- `Val(x, w, s)`. -/
def val (x w s : Nat) : Int := if s = 1 then sval x w else ((x % 2 ^ w : Nat) : Int)

/-- `Sat(x, w, s)`. -/
def satw (x : Int) (w s : Nat) : Nat :=
  let lo : Int := if s = 1 then -(2 ^ (w - 1) : Int) else 0
  let hi : Int := if s = 1 then 2 ^ (w - 1) - 1 else 2 ^ w - 1
  wrap (if x < lo then lo else if hi < x then hi else x) w

/-- `Res(x, w, s, sat)`. -/
def res (x : Int) (w s sat : Nat) : Nat := if sat = 1 then satw x w s else wrap x w

/-- An operand under WID: an 8-bit immediate of a packed form supplies every element (R26, R189). -/
def intVal (wid : Nat) (g : Group) (t : Thread) (src : Src) : Nat :=
  match src with
  | .imm i => if 2 ≤ wid then build (elemW wid) (elemN wid) fun _ => wrap i.toInt (elemW wid)
              else srcNat g t (widRegs wid) src
  | _ => srcNat g t (widRegs wid) src

/-- An instruction that acts on each element: `f` is given the width and the elements of A, B and C (R189, R193). -/
def execElem (opc : Nat) (x : Std) (s : State) (f : Nat → Nat → Nat → Nat → Nat) : Host.Outcome State Fault Refusal :=
  let wid := widOf x
  let w := elemW wid
  execPerLane opc x (widRegs wid) s fun g t =>
    let a := intVal wid g t x.a
    let b := intVal wid g t x.b
    let c := intVal wid g t x.c
    build w (elemN wid) fun k => f w (elem a w k) (elem b w k) (elem c w k)

/-- The signedness of B: the opposite of SGN where OPS is 01 (R193). -/
def sgnB (x : Std) : Nat := if opsOf x = 1 then 1 - sgnOf x else sgnOf x

/-! ## R193 -/

def execAdd (x : Std) (s : State) : Host.Outcome State Fault Refusal :=
  execElem 0x00 x s fun w a b _ => wrap (val a w (sgnOf x) + val b w (sgnOf x)) w

def execSub (x : Std) (s : State) : Host.Outcome State Fault Refusal :=
  execElem 0x01 x s fun w a b _ => wrap (val a w (sgnOf x) - val b w (sgnOf x)) w

def execMullo (x : Std) (s : State) : Host.Outcome State Fault Refusal :=
  execElem 0x04 x s fun w a b _ => res (val a w (sgnOf x) * val b w (sgnOf x)) w (sgnOf x) (satOf x)

def execMulhi (x : Std) (s : State) : Host.Outcome State Fault Refusal :=
  execElem 0x05 x s fun w a b _ => wrap (val a w (sgnOf x) * val b w (sgnOf x)) (2 * w) / 2 ^ w

def execMad (x : Std) (s : State) : Host.Outcome State Fault Refusal :=
  execElem 0x06 x s fun w a b c =>
    res (val a w (sgnOf x) * val b w (sgnOf x) + val c w (sgnOf x)) w (sgnOf x) (satOf x)

def execMin (x : Std) (s : State) : Host.Outcome State Fault Refusal :=
  execElem 0x0A x s fun w a b _ => if val a w (sgnOf x) ≤ val b w (sgnOf x) then a else b

def execMax (x : Std) (s : State) : Host.Outcome State Fault Refusal :=
  execElem 0x0B x s fun w a b _ => if val a w (sgnOf x) ≤ val b w (sgnOf x) then b else a

def execAbs (x : Std) (s : State) : Host.Outcome State Fault Refusal :=
  execElem 0x0C x s fun w a _ _ => res ((val a w (sgnOf x)).natAbs : Int) w 1 (satOf x)

def execNeg (x : Std) (s : State) : Host.Outcome State Fault Refusal :=
  execElem 0x0D x s fun w a _ _ => res (-(val a w (sgnOf x))) w (sgnOf x) (satOf x)

def execAddsat (x : Std) (s : State) : Host.Outcome State Fault Refusal :=
  execElem 0x0E x s fun w a b _ => satw (val a w (sgnOf x) + val b w (sgnB x)) w (sgnOf x)

def execSubsat (x : Std) (s : State) : Host.Outcome State Fault Refusal :=
  execElem 0x0F x s fun w a b _ => satw (val a w (sgnOf x) - val b w (sgnB x)) w (sgnOf x)

def execAvg (x : Std) (s : State) : Host.Outcome State Fault Refusal :=
  execElem 0x1C x s fun w a b _ =>
    wrap (Int.fdiv (val a w (sgnOf x) + val b w (sgnOf x) + ((opsOf x % 2 : Nat) : Int)) 2) w

def execClamp (x : Std) (s : State) : Host.Outcome State Fault Refusal :=
  execElem 0x14 x s fun w a b c =>
    let m := if val a w (sgnOf x) ≤ val b w (sgnOf x) then b else a
    if val c w (sgnOf x) ≤ val m w (sgnOf x) then c else m

/-! ## R194 -/

def execAddc (x : Std) (s : State) : Host.Outcome State Fault Refusal :=
  execPerLane 0x02 x 2 s fun g t => srcNat g t 1 x.a + srcNat g t 1 x.b + srcNat g t 1 x.c % 2

def execSubb (x : Std) (s : State) : Host.Outcome State Fault Refusal :=
  execPerLane 0x03 x 2 s fun g t =>
    let d : Int := (srcNat g t 1 x.a : Int) - srcNat g t 1 x.b - (srcNat g t 1 x.c % 2 : Nat)
    wrap d 32 + (if d < 0 then 2 ^ 32 else 0)

def execMadw (x : Std) (s : State) : Host.Outcome State Fault Refusal :=
  execPerLane 0x07 x 2 s fun g t =>
    let n := sgnOf x
    res (val (srcNat g t 1 x.a) 32 n * val (srcNat g t 1 x.b) 32 n + val (srcNat g t 2 x.c) 64 n) 64 n (satOf x)

/-! ## R195 -/

/-- DIV of R195: a zero divisor gives the largest unsigned value, or the signed end of the dividend's sign. -/
def divVal (w n sat a b : Nat) : Nat :=
  let x := val a w n
  let y := val b w n
  if y = 0 then (if n = 0 then 2 ^ w - 1 else if x < 0 then 2 ^ (w - 1) else 2 ^ (w - 1) - 1)
  else res (Int.tdiv x y) w n sat

/-- REM of R195: a zero divisor gives the dividend. -/
def remVal (w n a b : Nat) : Nat :=
  let x := val a w n
  let y := val b w n
  if y = 0 then a else wrap (x - y * Int.tdiv x y) w

def execDiv (x : Std) (s : State) : Host.Outcome State Fault Refusal :=
  execElem 0x08 x s fun w a b _ => divVal w (sgnOf x) (satOf x) a b

def execRem (x : Std) (s : State) : Host.Outcome State Fault Refusal :=
  execElem 0x09 x s fun w a b _ => remVal w (sgnOf x) a b

/-! ## R196 to R199 -/

def execLea (x : Std) (s : State) : Host.Outcome State Fault Refusal :=
  execPerLane 0x10 x 2 s fun g t =>
    let n := srcNat g t 1 x.c
    let off : Int := if 64 ≤ n then 0 else val (srcNat g t 1 x.b) 32 (sgnOf x) * 2 ^ n
    wrap ((srcNat g t 2 x.a : Int) + off) 64

/-- The four conditions of ICMP (R197). -/
def icmpHolds (ops : Nat) (a b : Int) : Bool :=
  if ops = 0 then a == b else if ops = 1 then a != b else if ops = 2 then decide (a < b) else decide (b ≤ a)

def execIcmp (x : Std) (s : State) : Host.Outcome State Fault Refusal :=
  execPerLane 0x11 x 1 s fun g t =>
    let w := elemW (widOf x)
    let k := widRegs (widOf x)
    (icmpHolds (opsOf x) (val (srcNat g t k x.a) w (sgnOf x)) (val (srcNat g t k x.b) w (sgnOf x))).toNat

def execSel (x : Std) (s : State) : Host.Outcome State Fault Refusal :=
  execPerLane 0x12 x (widRegs (widOf x)) s fun g t =>
    let k := widRegs (widOf x)
    if srcNat g t 1 x.a = 1 then srcNat g t k x.b else srcNat g t k x.c

def execMov (x : Std) (s : State) : Host.Outcome State Fault Refusal :=
  execPerLane 0x13 x (widRegs (widOf x)) s fun g t => srcNat g t (widRegs (widOf x)) x.a

/-- The sum of element products or differences that R199 adds to c. -/
def sumElems (n : Nat) (f : Nat → Int) : Int := (List.range n).foldl (fun a k => a + f k) 0

/-- DOT4 and DOT2 (R199): the exact sum, then Res. -/
def dotVal (x : Std) (g : Group) (t : Thread) (wid : Nat) : Nat :=
  let w := elemW wid
  let sr := if sgnOf x = 1 ∨ opsOf x = 1 then 1 else 0
  let a := intVal wid g t x.a
  let b := intVal wid g t x.b
  res (val (srcNat g t 1 x.c) 32 sr + sumElems (elemN wid) fun k => val (elem a w k) w (sgnOf x) * val (elem b w k) w (sgnB x))
    32 sr (satOf x)

def execSad (x : Std) (s : State) : Host.Outcome State Fault Refusal :=
  execPerLane 0x15 x 1 s fun g t =>
    let wid := widOf x
    let w := elemW wid
    let a := intVal wid g t x.a
    let b := intVal wid g t x.b
    wrap ((srcNat g t 1 x.c : Int) + sumElems (elemN wid) fun k =>
      ((val (elem a w k) w (sgnOf x) - val (elem b w k) w (sgnOf x)).natAbs : Int)) 32

def execDot4 (x : Std) (s : State) : Host.Outcome State Fault Refusal :=
  execPerLane 0x16 x 1 s fun g t => dotVal x g t 3

def execDot2 (x : Std) (s : State) : Host.Outcome State Fault Refusal :=
  execPerLane 0x17 x 1 s fun g t => dotVal x g t 2

/-! ## Conversion and byte movement, R200 and R201 -/

def execCvti (x : Std) (s : State) : Host.Outcome State Fault Refusal :=
  execPerLane 0x18 x (widRegs (widOf x)) s fun g t =>
    let k := 8 * 2 ^ opsOf x
    let w := elemW (widOf x)
    let v := val (srcNat g t (if opsOf x = 3 then 2 else 1) x.a) k (sgnOf x)
    if k < w then wrap v w else res v w (sgnOf x) (satOf x)

/-- An operand of PACK or UNPK. An immediate is one 32-bit value where elements of PACK are 32 bits wide, and supplies
every element of a packed source otherwise (R26, R189). -/
def packSrc (m : Nat) (g : Group) (t : Thread) (src : Src) : Nat :=
  match src with
  | .imm i => if m = 32 then wrap i.toInt 32 else build m (32 / m) fun _ => wrap i.toInt m
  | _ => srcNat g t 1 src

def execPack (x : Std) (s : State) : Host.Outcome State Fault Refusal :=
  execPerLane 0x1A x 1 s fun g t =>
    let m := if widOf x = 2 then 16 else 8
    let h := 16 / m
    let a := packSrc (2 * m) g t x.a
    let b := packSrc (2 * m) g t x.b
    build m (2 * h) fun k =>
      let e := if k < h then elem a (2 * m) k else elem b (2 * m) (k - h)
      res (val e (2 * m) (sgnOf x)) m (sgnOf x) (satOf x)

def execUnpk (x : Std) (s : State) : Host.Outcome State Fault Refusal :=
  execPerLane 0x1B x 2 s fun g t =>
    let m := if widOf x = 2 then 16 else 8
    let a := packSrc m g t x.a
    build (2 * m) (32 / m) fun k => wrap (val (elem a m k) m (sgnOf x)) (2 * m)

/-- One byte of BYSEL's first step (R201). -/
def byselByte (a b c i : Nat) : Nat :=
  let f := bitsOf c (4 * i) 4
  if bitOf f 2 then 0 else bitsOf (if bitOf f 3 then b else a) (8 * (f % 4)) 8

/-- BYSEL (R201): bytes chosen from a and b, then signs extended upward. -/
def byselVal (a b c : Nat) : Nat :=
  let r0 := byselByte a b c 0
  let ext (i below own : Nat) : Nat := if bitOf c (16 + i) then (if bitOf below 7 then 0xFF else 0) else own
  let r1 := ext 1 r0 (byselByte a b c 1)
  let r2 := ext 2 r1 (byselByte a b c 2)
  let r3 := ext 3 r2 (byselByte a b c 3)
  r0 + 2 ^ 8 * r1 + 2 ^ 16 * r2 + 2 ^ 24 * r3

def execBysel (x : Std) (s : State) : Host.Outcome State Fault Refusal :=
  execPerLane 0x19 x 1 s fun g t => byselVal (srcNat g t 1 x.a) (srcNat g t 1 x.b) (srcNat g t 1 x.c)

/-! ## Logic, R202 -/

/-- Bitwise complement in `w` bits. -/
def notw (a w : Nat) : Nat := 2 ^ w - 1 - a % 2 ^ w

def execAnd (x : Std) (s : State) : Host.Outcome State Fault Refusal := execElem 0x20 x s fun _ a b _ => a &&& b

def execOr (x : Std) (s : State) : Host.Outcome State Fault Refusal := execElem 0x21 x s fun _ a b _ => a ||| b

def execXor (x : Std) (s : State) : Host.Outcome State Fault Refusal := execElem 0x22 x s fun _ a b _ => a ^^^ b

def execAndn (x : Std) (s : State) : Host.Outcome State Fault Refusal := execElem 0x23 x s fun w a b _ => a &&& notw b w

def execOrn (x : Std) (s : State) : Host.Outcome State Fault Refusal := execElem 0x24 x s fun w a b _ => a ||| notw b w

def execNot (x : Std) (s : State) : Host.Outcome State Fault Refusal := execElem 0x25 x s fun w a _ _ => notw a w

/-- The truth table of a LUT slot: its low eight bits (R188). -/
def lutOf (x : Src) : Nat :=
  match x with
  | .imm i => i.toNat
  | .lit w => w.toNat % 256
  | _ => 0

/-- Bit `j` of a three-input table (R202). -/
def lutBit (lut : Nat) (a b d : Bool) : Bool := bitOf lut (a.toNat + 2 * b.toNat + 4 * d.toNat)

def execLogt (x : Std) (s : State) : Host.Outcome State Fault Refusal :=
  execPerLane 0x26 x (widRegs (widOf x)) s fun g t =>
    let k := widRegs (widOf x)
    let a := srcNat g t k x.a
    let b := srcNat g t k x.b
    let d := dstNat g t k x.d
    build 1 (32 * k) fun j => (lutBit (lutOf x.c) (bitOf a j) (bitOf b j) (bitOf d j)).toNat

/-! ## Shifts and fields, R203 to R206 -/

/-- An instruction with an amount in B: one 32-bit value under WID 00 and 01, per element in packed forms (R189, R203). -/
def execShift (opc : Nat) (x : Std) (s : State) (f : Nat → Nat → Nat → Nat) : Host.Outcome State Fault Refusal :=
  let wid := widOf x
  let w := elemW wid
  execPerLane opc x (widRegs wid) s fun g t =>
    let a := intVal wid g t x.a
    let b := if 2 ≤ wid then intVal wid g t x.b else srcNat g t 1 x.b
    build w (elemN wid) fun k => f w (elem a w k) (if 2 ≤ wid then elem b w k else b)

def execShl (x : Std) (s : State) : Host.Outcome State Fault Refusal :=
  execShift 0x27 x s fun w a n => if w ≤ n then 0 else a * 2 ^ n % 2 ^ w

def execShr (x : Std) (s : State) : Host.Outcome State Fault Refusal :=
  execShift 0x28 x s fun w a n => if w ≤ n then 0 else a / 2 ^ n

def execSar (x : Std) (s : State) : Host.Outcome State Fault Refusal :=
  execShift 0x29 x s fun w a n =>
    if w ≤ n then (if sval a w < 0 then 2 ^ w - 1 else 0) else wrap (Int.fdiv (sval a w) (2 ^ n)) w

def execRol (x : Std) (s : State) : Host.Outcome State Fault Refusal :=
  execShift 0x2A x s fun w a n => (a * 2 ^ (n % w)) % 2 ^ w ||| a / 2 ^ (w - n % w)

def execRor (x : Std) (s : State) : Host.Outcome State Fault Refusal :=
  execShift 0x2B x s fun w a n => a / 2 ^ (n % w) ||| (a * 2 ^ (w - n % w)) % 2 ^ w

def execFshl (x : Std) (s : State) : Host.Outcome State Fault Refusal :=
  execPerLane 0x2C x (widRegs (widOf x)) s fun g t =>
    let w := elemW (widOf x)
    let k := widRegs (widOf x)
    let n := srcNat g t 1 x.c % 64
    ((srcNat g t k x.a * 2 ^ w + srcNat g t k x.b) * 2 ^ n) % 2 ^ (2 * w) / 2 ^ w

def execFshr (x : Std) (s : State) : Host.Outcome State Fault Refusal :=
  execPerLane 0x2D x (widRegs (widOf x)) s fun g t =>
    let w := elemW (widOf x)
    let k := widRegs (widOf x)
    let n := srcNat g t 1 x.c % 64
    (srcNat g t k x.a * 2 ^ w + srcNat g t k x.b) / 2 ^ n % 2 ^ w

/-- BFE of R205. The extracted element extends without bound, so a position at or above `w` reads copies of its sign. -/
def bfeVal (w n a pos len : Nat) : Nat :=
  let l := Nat.min len w
  let x := val a w n
  let y : Int := if w ≤ pos then (if x < 0 then -1 else 0) else Int.fdiv x (2 ^ pos)
  let f := wrap y l
  if l = 0 then 0 else if n = 1 then wrap (sval f l) w else f

/-- The mask of BFI and BMSK: `len` ones from position `pos`, cut to `w` bits (R205). -/
def fieldMask (w pos len : Nat) : Nat := if w ≤ pos then 0 else ((2 ^ Nat.min len w - 1) * 2 ^ pos) % 2 ^ w

def execBfe (x : Std) (s : State) : Host.Outcome State Fault Refusal :=
  execPerLane 0x2E x (widRegs (widOf x)) s fun g t =>
    bfeVal (elemW (widOf x)) (sgnOf x) (srcNat g t (widRegs (widOf x)) x.a) (srcNat g t 1 x.b) (srcNat g t 1 x.c)

def execBfi (x : Std) (s : State) : Host.Outcome State Fault Refusal :=
  execPerLane 0x2F x (widRegs (widOf x)) s fun g t =>
    let w := elemW (widOf x)
    let k := widRegs (widOf x)
    let pos := srcNat g t 1 x.b
    let m := fieldMask w pos (srcNat g t 1 x.c)
    let a := if w ≤ pos then 0 else (srcNat g t k x.a * 2 ^ pos) % 2 ^ w
    (dstNat g t k x.d &&& notw m w) ||| (a &&& m)

/-- The number of ones among the low `n` bits (R206). -/
def ones (x n : Nat) : Nat := ((List.range n).filter fun j => bitOf x j).length

/-- The zeros above the highest one of `w` bits; `w` for 0 (R206). -/
def clzVal (w a : Nat) : Nat := ((List.range w).find? fun j => bitOf a (w - 1 - j)).getD w

/-- The zeros below the lowest one of `w` bits; `w` for 0 (R206). -/
def ctzVal (w a : Nat) : Nat := ((List.range w).find? fun j => bitOf a j).getD w

def execPopc (x : Std) (s : State) : Host.Outcome State Fault Refusal :=
  execPerLane 0x30 x 1 s fun g t => ones (srcNat g t (widRegs (widOf x)) x.a) (elemW (widOf x))

def execClz (x : Std) (s : State) : Host.Outcome State Fault Refusal :=
  execPerLane 0x31 x 1 s fun g t => clzVal (elemW (widOf x)) (srcNat g t (widRegs (widOf x)) x.a)

def execCtz (x : Std) (s : State) : Host.Outcome State Fault Refusal :=
  execPerLane 0x32 x 1 s fun g t => ctzVal (elemW (widOf x)) (srcNat g t (widRegs (widOf x)) x.a)

def execBrev (x : Std) (s : State) : Host.Outcome State Fault Refusal :=
  execPerLane 0x33 x (widRegs (widOf x)) s fun g t =>
    let w := elemW (widOf x)
    let a := srcNat g t (widRegs (widOf x)) x.a
    build 1 w fun j => (bitOf a (w - 1 - j)).toNat

def execBmsk (x : Std) (s : State) : Host.Outcome State Fault Refusal :=
  execPerLane 0x34 x (widRegs (widOf x)) s fun g t =>
    fieldMask (elemW (widOf x)) (srcNat g t 1 x.a) (srcNat g t 1 x.b)

/-! ## Predicates, R207 -/

def execPlogt (x : Std) (s : State) : Host.Outcome State Fault Refusal :=
  execPerLane 0x35 x 1 s fun g t =>
    (lutBit (lutOf x.c) (srcNat g t 1 x.a == 1) (srcNat g t 1 x.b == 1) (dstNat g t 1 x.d == 1)).toNat

/-- P2V (R207) waits while a predicate that its mask copies is empty (R28, log 27). -/
def execP2v (x : Std) (s : State) : Host.Outcome State Fault Refusal :=
  match front 0x36 x s with
  | .over_ s' => .next s'
  | .go s' c =>
    let val (t : Thread) : BitVec 32 := BitVec.ofNat 32 (srcNat c.g t 1 x.a)
    if c.lanes.any (fun l => match c.g.thread l with
        | some t => t.pe &&& val t != 0
        | none => false) then .next s
    else .next (c.write s' x 1 (c.perLane fun _ t => (t.p &&& val t).toNat))

/-- V2P (R207): the predicates that b names take the bits of a and are full. The write waits while an earlier producer has
left one of them empty (R168). -/
def execV2p (x : Std) (s : State) : Host.Outcome State Fault Refusal :=
  match front 0x37 x s with
  | .over_ s' => .next s'
  | .go s' c =>
    let mask (t : Thread) : BitVec 32 := BitVec.ofNat 32 (srcNat c.g t 1 x.b)
    if c.lanes.any (fun l => match c.g.thread l with
        | some t => t.pe &&& mask t != 0
        | none => false) then .next s
    else
      let g := c.g.modThreads c.lanes fun _ t =>
        { t with p := (t.p &&& ~~~ mask t) ||| (BitVec.ofNat 32 (srcNat c.g t 1 x.a) &&& mask t) }
      .next (c.finish s' g (stdWords x) [])

end Sys2Proof.Machine
end

