-- ==== Sys2Proof/Machine/Translate.lean ====
section
/-! DEFINITION. The physical map, page tables, walks, TLBs, access checks and translation fault records (R44 to R64). -/

namespace Sys2Proof.Machine

/-! ## Physical map and ownership, R44 and R46 -/

def brineBase : Nat := 0x10000000000
def brineSize : Nat := 0x40000000
def endpointBase : Nat := 0x20000000000
def endpointSize : Nat := 18 * 0x1000000

def isAsset (pa : Nat) : Bool := decide (pa < 2 ^ 39)
def isBrine (pa : Nat) : Bool := decide (brineBase ≤ pa) && decide (pa < brineBase + brineSize)
def isEndpoint (pa : Nat) : Bool := decide (endpointBase ≤ pa) && decide (pa < endpointBase + endpointSize)

/-- The memory channel that holds a line of asset memory (R45). -/
def channelOf (pa : Nat) : Nat :=
  bitsOf pa 7 6 ^^^ bitsOf pa 13 6 ^^^ bitsOf pa 19 6 ^^^ bitsOf pa 25 6 ^^^ bitsOf pa 31 6 ^^^ bitsOf pa 37 2

/-- The endpoint window of an address: 0 and 1 the front ports, 2 to 17 the side ports (R44). -/
def windowOf (pa : Nat) : Nat := (pa - endpointBase) / 0x1000000

/-- The extent of an asset-memory or brine-window address: 0 to 127 asset, 128 to 131 brine (R46, R398). -/
def extentOf (pa : Nat) : Nat := if isBrine pa then 128 + (pa - brineBase) / 2 ^ 28 else pa / 2 ^ 32

/-- A partition owns every extent of a range that lies wholly in asset memory or wholly in the brine window. -/
def ownsRange (s : State) (part pa len : Nat) : Bool :=
  let last := pa + len - 1
  ((isAsset pa && isAsset last) || (isBrine pa && isBrine last)) &&
  (List.range (extentOf last - extentOf pa + 1)).all fun k => tget s.pmOwn (extentOf pa + k) == some part

/-- A page lies wholly in one mappable region, in extents or windows of the partition (R46, R51). -/
def mappable (s : State) (part pa len : Nat) : Bool :=
  let last := pa + len - 1
  ownsRange s part pa len ||
  (isEndpoint pa && isEndpoint last &&
    (List.range (windowOf last - windowOf pa + 1)).all fun k =>
      decide (windowOf pa + k < 2) || tget s.sideOwn (windowOf pa + k - 2) == some part)

/-! ## Page-table entries, R50 and R51 -/

def pteV (e : Nat) : Bool := bitOf e 0
def pteP (e : Nat) : Bool := bitOf e 1
def pteR (e : Nat) : Bool := bitOf e 6
def pteW (e : Nat) : Bool := bitOf e 7
def pteX (e : Nat) : Bool := bitOf e 8
def pteSize (e : Nat) : Nat := bitsOf e 9 3
def pteFrame (e : Nat) : Nat := bitsOf e 12 40 * 4096
def pteDl (e : Nat) : Bool := bitOf e 56
def ptePers (e : Nat) : Bool := bitOf e 57
def pteRet (e : Nat) : Nat := bitsOf e 58 2
def pteCodec (e : Nat) : Nat := bitsOf e 60 4

/-- Bytes of a page by SIZE (R50). -/
def pageBytes (size : Nat) : Nat :=
  match size with
  | 1 => 4096
  | 2 => 2 ^ 16
  | 3 => 2 ^ 21
  | 4 => 2 ^ 28
  | _ => 2 ^ 32

/-- Whether a leaf SIZE is legal at a level (R51). -/
def sizeAt (level size : Nat) : Bool :=
  match level with
  | 0 => size == 1 || size == 2
  | 1 => size == 3 || size == 4
  | 2 => size == 5
  | _ => false

/-- A table lies in asset memory or the brine window, in an extent of the partition (R49, R53). -/
def ownedTable (s : State) (part pa : Nat) : Bool := ownsRange s part pa 4096

/-- WellFormed(e, level) of R51. -/
def pteOk (s : State) (part e level : Nat) : Bool :=
  bitsOf e 2 4 == 0 && bitsOf e 52 4 == 0 &&
  (if pteSize e = 0 then
    decide (1 ≤ level) && bitsOf e 56 8 == 0 && bitsOf e 6 3 == 0 && ownedTable s part (pteFrame e)
  else
    let len := pageBytes (pteSize e)
    let pa := pteFrame e
    sizeAt level (pteSize e) && pa % len == 0 && mappable s part pa len && ptePers e == isBrine pa &&
    (if isAsset pa then decide (pteCodec e ≤ 3)
     else if isBrine pa then pteCodec e == 0 || pteCodec e == 2 || pteCodec e == 3 else pteCodec e == 0) &&
    (!pteW e || pteR e))

/-! ## The walk, R52 and R53 -/

/-- Index of a level (R49). -/
def pteIndex (va level : Nat) : Nat := if level = 4 then bitsOf va 48 8 else bitsOf va (12 + 9 * level) 9

/-- The span of one entry of a level (R49). -/
def levelSpan (level : Nat) : Nat := 2 ^ (12 + 9 * level)

/-- What a walk returns: a leaf; a fault with KIND and LEVEL of R63 and the entry read; or an uncorrectable table read
(R389). -/
inductive WalkRes where
  | leaf (entry level : Nat)
  | fault (kind level entry : Nat)
  | dataError (pa : Nat)
  deriving DecidableEq, Repr

/-- A line whose stored datum is uncorrectable (R389). -/
def State.badLine (s : State) (pa : Nat) : Bool := s.bad.contains (pa / 128 * 128)

/-- Walk from a table at a level (R53). `level` counts the levels that remain. -/
def walkFrom (s : State) (part va table : Nat) (level : Nat) : WalkRes :=
  let pa := table + 8 * pteIndex va level
  if s.badLine pa then .dataError pa
  else
    let e := mnat s.mem pa 8
    if !pteV e then .fault 1 level e
    else if !pteP e then .fault 0 level e
    else if !pteOk s part e level then .fault 2 level e
    else if pteSize e = 0 then
      match level with
      | 0 => .fault 2 0 e
      | l + 1 => walkFrom s part va (pteFrame e) l
    else .leaf e level

/-- The slot register as a record's ENTRY holds it (R47, R63). -/
def AsSlot.bits (a : AsSlot) : Nat := a.en.toNat * 2 ^ 63 + a.torn.toNat * 2 ^ 62 + a.root

/-- Walk(slot, va) of R53, from the root. -/
def walk (s : State) (part slot va : Nat) : WalkRes :=
  let a := s.asSlot part slot
  if ownedTable s part a.root then walkFrom s part va a.root 4 else .fault 2 4 a.bits

/-- The table pointer of the lowest level that a walk cache holds for an address (R57). -/
def cachedPointer (l : List TlbEntry) (a va : Nat) : Option TlbEntry :=
  (l.filter fun t => t.asid == a && decide (t.va ≤ va) && decide (va < t.va + t.len)).foldl
    (fun (b : Option TlbEntry) t => match b with
      | none => some t
      | some u => if t.level < u.level then some t else some u) none

/-- The walk of a pan: from a table pointer of its walk cache, where it holds one, else from the root, which is checked at every walk
(R53, R57). -/
def State.walkAt (s : State) (pan part slot va : Nat) : WalkRes :=
  match cachedPointer (s.pan pan).walkCache (asid part slot) va with
  | some t => if ownedTable s part (s.asSlot part slot).root then walkFrom s part va (pteFrame t.entry) (t.level - 1)
              else walk s part slot va
  | none => walk s part slot va

/-- The lines that a walk reads, from a table at a level (R53). -/
def walkLines (s : State) (part va table : Nat) (level : Nat) : List Nat :=
  let pa := table + 8 * pteIndex va level
  let e := mnat s.mem pa 8
  pa / 128 * 128 ::
    (if s.badLine pa || !pteV e || !pteP e || !pteOk s part e level || pteSize e != 0 then []
     else match level with
       | 0 => []
       | l + 1 => walkLines s part va (pteFrame e) l)

/-- The lines that the walk of a pan reads; a walk from the root, where no pan is named (R53, R57). -/
def State.linesOfWalk (s : State) (pan : Option Nat) (part slot va : Nat) : List Nat :=
  let root := (s.asSlot part slot).root
  if !ownedTable s part root then []
  else match pan.bind fun p => cachedPointer (s.pan p).walkCache (asid part slot) va with
    | some t => walkLines s part va (pteFrame t.entry) (t.level - 1)
    | none => walkLines s part va root 4

/-- The address rules of R48: bits [63:56] zero, and a slot enabled and not torn. -/
def addressOk (s : State) (part slot va : Nat) : Bool :=
  decide (va < 2 ^ 56) && (s.asSlot part slot).en && !(s.asSlot part slot).torn

/-- The level at which a leaf of a size stands (R51): LEVEL of a permission fault's record (log 29). -/
def leafLevel (e : Nat) : Nat := if pteSize e ≤ 2 then 0 else if pteSize e ≤ 4 then 1 else 2

/-- The physical address of a virtual one through a leaf. -/
def leafPa (entry va : Nat) : Nat := pteFrame entry + va % pageBytes (pteSize entry)

/-! ## TLBs, R57 and R58 (replacement first in, first out: log 10) -/

/-- The TLB entry of a leaf. -/
def tlbOf (a va entry : Nat) : TlbEntry :=
  let len := pageBytes (pteSize entry)
  { asid := a, va := va / len * len, len := len, entry := entry }

/-- An entry of an address space that covers an address. -/
def TlbEntry.covers (t : TlbEntry) (a va : Nat) : Bool := t.asid == a && decide (t.va ≤ va) && decide (va < t.va + t.len)

/-- The leaf that a TLB holds for an address. -/
def tlbFind (l : List TlbEntry) (a va : Nat) : Option Nat := (l.find? fun t => t.covers a va).map (·.entry)

/-- A TLB of `n` entries with one more, the newest first. -/
def tlbAdd (n : Nat) (l : List TlbEntry) (e : TlbEntry) : List TlbEntry :=
  if l.contains e then l else (e :: l).take n

/-- The table pointers that a walk passed, for the walk cache (R57). -/
def walkPointers (s : State) (a va table level : Nat) : List TlbEntry :=
  match level with
  | 0 => []
  | l + 1 =>
    let e := mnat s.mem (table + 8 * pteIndex va (l + 1)) 8
    if pteV e && pteP e && pteSize e == 0 then
      { asid := a, va := va / levelSpan (l + 1) * levelSpan (l + 1), len := levelSpan (l + 1), level := l + 1, entry := e }
        :: walkPointers s a va (pteFrame e) l
    else []

/-- An entry into the L2 TLB, 4,096 entries in 512 sets of 8 (R57). The set is the page's number at its own size, modulo 512, and the
oldest of the set makes room (DESIGN CHOICE: log 10). -/
def l2Add (l : List TlbEntry) (e : TlbEntry) : List TlbEntry :=
  let mate (t : TlbEntry) : Bool := t.va / t.len % 512 == e.va / e.len % 512
  if l.contains e then l else e :: ((l.filter mate).take 7 ++ l.filter fun t => !mate t)

/-- A pan after a walk that returned a leaf: the L2 TLB and the walk cache hold what it found (R57, R58). -/
def Pan.fillL2 (n : Pan) (s : State) (part slot va entry : Nat) : Pan :=
  let a := asid part slot
  { n with
    l2tlb := l2Add n.l2tlb (tlbOf a va entry)
    walkCache := (walkPointers s a va (s.asSlot part slot).root 4).foldl (tlbAdd 64) n.walkCache }

/-- The leaf of an address in a quarter's L1 TLB, or in the pan's L2 TLB, which refills the L1 (R58). R57 gives an L1 TLB to each quarter
and names none for the pan controller: its CONTROL groups have one of their own, number 4 (DESIGN CHOICE: log 96). -/
def Pan.lookup (n : Pan) (quarter a va : Nat) : Option (Nat × Pan) :=
  let l1 := tgetD n.l1tlb quarter []
  match tlbFind l1 a va with
  | some e => some (e, n)
  | none => match tlbFind n.l2tlb a va with
    | some e => some (e, { n with l1tlb := tput n.l1tlb quarter (tlbAdd 512 l1 (tlbOf a va e)) })
    | none => none

/-- An L2 miss joins the entry of its key, or takes a new one of the 64 (R58); none where the table is full. -/
def Pan.addMiss (n : Pan) (a vpn slot : Nat) : Option Pan :=
  if n.misses.any fun m => m.asid == a && m.vpn == vpn then
    some { n with misses := n.misses.map fun m =>
      if m.asid = a ∧ m.vpn = vpn ∧ !m.waiters.contains slot then { m with waiters := m.waiters ++ [slot] } else m }
  else if n.misses.length < 64 then
    some { n with misses := n.misses ++ [{ asid := a, vpn := vpn, waiters := [slot] }] }
  else none

/-! ## Checks of an access, R48, R54, R59 and R60 -/

/-- The rights an access needs (R54). -/
inductive Need where
  | x | r | w | rw
  deriving DecidableEq, Repr

/-- ACC of a record (R63). -/
def Need.acc : Need → Nat
  | .x => 0
  | .r => 1
  | .w => 2
  | .rw => 3

/-- A leaf grants the rights (R54). -/
def Need.granted (n : Need) (e : Nat) : Bool :=
  match n with
  | .x => pteX e
  | .r => pteR e
  | .w => pteW e
  | .rw => pteR e && pteW e

/-- A translation fault of a lane: KIND, LEVEL, ENTRY of R63 and the address. -/
structure XFault where
  lane : Nat
  va : Nat
  kind : Nat
  level : Nat
  entry : Nat
  deriving DecidableEq, Repr

/-- The state of one access's translation: a leaf, a fault, or a walk still to come. -/
inductive PageRes where
  | ok (entry : Nat)
  | bad (kind level entry : Nat)
  | miss
  deriving DecidableEq, Repr

/-- What makes an address fault beyond R48: a virtual address that the instruction may not use (R232), and a physical one
in a region that it may not reach (R234). -/
structure Limits where
  va : Nat → Bool := fun _ => false
  pa : Nat → Bool := isEndpoint

/-- The translation of one byte's address for a group, with the pan it leaves (a TLB refill). An address fault raised by the physical
address, once a leaf is found, has LEVEL 7 and ENTRY 0 as one raised without a walk: R63 states neither for it (DESIGN CHOICE: log
94). -/
def pageRes (s : State) (n : Pan) (g : Group) (quarter part slot va : Nat) (need : Need) (lim : Limits) : PageRes × Pan :=
  if !addressOk s part slot va || lim.va va then (.bad 4 7 0, n)
  else match n.lookup quarter (asid part slot) va with
    | some (e, n') =>
      if !need.granted e then (.bad 3 (leafLevel e) e, n')
      else if lim.pa (leafPa e va) then (.bad 4 7 0, n') else (.ok e, n')
    | none => match g.walks.find? fun w => w.vpn == va / 4096 with
      | some w => (.bad w.kind w.level w.entry, n)
      | none => (.miss, n)

/-- The outcome of checking every byte an instruction would access (R59, R60). -/
inductive Check where
  /-- every access passed; the leaf of each address checked -/
  | pass (leaves : List (Nat × Nat))
  /-- walks are awaited -/
  | wait
  /-- the first fatal fault by lane -/
  | fatal (f : XFault)
  /-- the not-present pages, in ascending address -/
  | notPresent (fs : List XFault)
  deriving DecidableEq, Repr

/-- Insert a not-present page by ascending page, each page once. R60 does not say what counts as one page where P 0 stands above level 0:
each 4 KiB page is one (DESIGN CHOICE: log 95). -/
def insertPage (fs : List XFault) (f : XFault) : List XFault :=
  match fs with
  | [] => [f]
  | h :: r => if f.va / 4096 < h.va / 4096 then f :: h :: r
              else if f.va / 4096 = h.va / 4096 then h :: r else h :: insertPage r f

/-- Every address of an instruction checked, in ascending lane order: (lane, address) of the first byte of each page it
touches. The pan's TLBs refill and its miss table takes new misses as the checks go; one that the full table does not take stalls the
quarter (R58). -/
def checkAll (s : State) (n : Pan) (g : Group) (slotNo quarter part slot : Nat) (need : Need) (lim : Limits)
    (accs : List (Nat × Nat)) : Check × Pan :=
  let r := accs.foldl (fun (a : (List (Nat × Nat) × Option XFault × List XFault × Bool) × Pan) acc =>
    let (st, n) := a
    let (p, n') := pageRes s n g quarter part slot acc.2 need lim
    match p with
    | .ok e => ((st.1 ++ [(acc.2, e)], st.2.1, st.2.2.1, st.2.2.2), n')
    | .bad k l e =>
      let f : XFault := { lane := acc.1, va := acc.2, kind := k, level := l, entry := e }
      if k = 0 then ((st.1, st.2.1, insertPage st.2.2.1 f, st.2.2.2), n')
      else ((st.1, st.2.1.or (some f), st.2.2.1, st.2.2.2), n')
    | .miss => match n'.addMiss (asid part slot) (acc.2 / 4096) slotNo with
      | some m => ((st.1, st.2.1, st.2.2.1, true), m)
      | none => ((st.1, st.2.1, st.2.2.1, true), { n' with full := quarter :: n'.full.filter (· != quarter) })) (([], none, [], false), n)
  let ((leaves, fatal, nps, waiting), n') := r
  (if waiting then .wait
   else match fatal with
    | some f => .fatal f
    | none => if nps.isEmpty then .pass leaves else .notPresent nps, n')

/-- A translation fault record (R63). -/
def xfRecord (f : XFault) (acc asid pan qtr gid pc pos : Nat) (ctl : Bool) : List Byte :=
  bytesOf (f.kind * 2 ^ 28 + f.level * 2 ^ 25 + acc * 2 ^ 22 + asid * 2 ^ 15 + pan * 2 ^ 7 + qtr * 2 ^ 5 + f.lane) 4 ++
  bytesOf gid 4 ++ bytesOf f.va 8 ++ bytesOf f.entry 8 ++ bytesOf pc 4 ++
  bytesOf (ctl.toNat * 2 ^ 31 + bitsOf pc 32 24 * 32 + pos) 4

/-- A record joins the partition's fault ring (R63, R64). -/
def State.postXfr (s : State) (part : Nat) (rec : List Byte) : State :=
  s.modPart part fun p => { p with xfr := p.xfr.push rec }

/-- The record of a group's fault at a place. -/
def groupRecord (c : Ctx) (f : XFault) (acc addr pos : Nat) : List Byte :=
  let q := quarterOf c.slot
  xfRecord f acc (asid c.tm.part c.tm.slot) c.pan (if q = 4 then 0 else q) (Config.groupId c.tm.num c.g.num).toNat addr pos
    (q == 4)

/-- A group waits on a recoverable fault: FAULTW, moved to the pending set (R60, R163). -/
def Group.faultWait (g : Group) (now : Nat) : Group :=
  { g with st := .faultw, active := false, readySince := now, walks := [] }

/-- The translation checks of a faultable instruction (R59, R60). Either they have passed, with the leaf of each address,
or the instruction has no effect yet or ever: it waits for walks, its group waits on not-present pages, or its slot is
torn down. -/
def Ctx.translate (c : Ctx) (s : State) (need : Need) (lim : Limits) (accs : List (Nat × Nat)) : State × Option (List (Nat × Nat)) :=
  let (ck, n) := checkAll s (s.pan c.pan) c.g c.slot (quarterOf c.slot) c.tm.part c.tm.slot need lim accs
  let s1 := s.modPan c.pan fun _ => n
  match ck with
  | .pass leaves => (s1, some leaves)
  | .wait => (s1, none)
  | .fatal f =>
    (s1.fatal c.tm.part c.tm.slot fun st =>
      st.postXfr c.tm.part (groupRecord c f need.acc c.run.addr c.run.pos), none)
  | .notPresent fs =>
    let ring := (s1.part c.tm.part).xfr
    let s2 := s1.setGroup c.pan c.slot
      { c.g.faultWait s.clock.cycles with posted := ring.head + ring.wait.length + fs.length }
    (fs.foldl (fun st f => st.postXfr c.tm.part (groupRecord c f need.acc c.run.addr c.run.pos)) s2, none)

/-- A page-table read that is uncorrectable is fatal to the slot, with a KIND 1 record (R389). -/
def State.walkData (s : State) (part slot pa va : Nat) : State :=
  s.fatal part slot fun st => st.logError (errRecord 1 Config.noUnit.toNat 0 part (asid part slot) pa va 0 0)

/-- The step in progress must wait. What it waits for is what its first access to wait asks for: those after it may depend on that
one's outcome. -/
def State.want (s : State) (w : Want) : State := { s with wants := if s.wants.isEmpty then [w] else s.wants }

/-- Translation for an engine of a pan: its L2 TLB, else the fault that a walk for it has met; where it has neither, its miss takes or
joins an entry of the pan's miss table, and the step waits (R57, R58). `out` are the physical addresses that it may not reach. -/
def State.engineReach (s : State) (pan part slot va : Nat) (need : Need) (out : Nat → Bool) : State × Except XFault Nat :=
  let a := asid part slot
  let fault (kind level entry : Nat) : XFault := { lane := 0, va := va, kind := kind, level := level, entry := entry }
  if !addressOk s part slot va then (s, .error (fault 4 7 0))
  else match tlbFind (s.pan pan).l2tlb a va with
    | some e =>
      if !need.granted e then (s, .error (fault 3 (leafLevel e) e))
      else if out (leafPa e va) then (s, .error (fault 4 7 0))
      else (s, .ok e)
    | none =>
      let mine (w : Nat × WalkFault) : Bool := w.1 == a && w.2.vpn == va / 4096
      match (s.pan pan).walked.find? mine with
      | some w => (s.modPan pan fun n => { n with walked := n.walked.filter fun x => !mine x }, .error (fault w.2.kind w.2.level w.2.entry))
      | none => (s.want (.page pan a (va / 4096)), .ok 0)

/-- Translation for an engine that reaches no endpoint window. -/
def State.engineTranslate (s : State) (pan part slot va : Nat) (need : Need) : State × Except XFault Nat :=
  s.engineReach pan part slot va need isEndpoint

end Sys2Proof.Machine
end

