-- ==== Sys2Proof/Machine/Saltern.lean ====
section
/-! DEFINITION. The Saltern: home beds, ways and replacement, sequence tags, atomic units, ordered windows, exact cells,
scope notes and transaction barriers (R84 to R106). -/

namespace Sys2Proof.Machine

/-! ## Where a line lives, R84 -/

def lineOf (pa : Nat) : Nat := pa / 128 * 128

def homeBed (pa : Nat) : Nat :=
  bitsOf pa 7 8 ^^^ bitsOf pa 15 8 ^^^ bitsOf pa 23 8 ^^^ bitsOf pa 31 8 ^^^ bitsOf pa 39 8 ^^^ bitsOf pa 47 5

def setOf (pa : Nat) : Nat := bitsOf pa 15 13

/-- Bed `b`. -/
def State.bed (s : State) (b : Nat) : Bed := tgetD s.beds b {}

/-- The state with bed `b` changed. -/
def State.modBed (s : State) (b : Nat) (f : Bed → Bed) : State := { s with beds := tput s.beds b (f (s.bed b)) }

/-- Station time as nanoseconds. -/
def Clock.nanos (c : Clock) : Nat := c.sec * 10 ^ 9 + c.ns

/-! ## Visible bytes: the CX 0 view and the CX 1 view (R66) -/

/-- `n` bytes of a view. -/
def State.viewRead (s : State) (cx : Bool) (pa n : Nat) : List Byte := mread (if cx then s.xmem else s.mem) pa n

/-- Bytes written in a view. -/
def State.viewWrite (s : State) (cx : Bool) (pa : Nat) (bs : List Byte) : State :=
  if cx then { s with xmem := mwrite s.xmem pa bs } else { s with mem := mwrite s.mem pa bs }

/-! ## Ways, R85 to R88 -/

/-- The ways that a partition may allocate in a bed: its mask less the fenced ways (R88, R387). -/
def State.wayMask (s : State) (b part : Nat) : Nat :=
  (s.part part).salMask &&& notw (s.bed b).fenced 16

/-- The way of a set that holds a line for a partition (R85). -/
def wayFind (ws : Tbl Way) (part line : Nat) (cx : Bool) : Option (Nat × Way) :=
  ws.find? fun e => e.2.line == line && e.2.cx == cx && e.2.part == part

/-- RET and AGE after an access with a hint: 0 default, 1 streaming, 2 sticky, 3 bypass (R86, R87). -/
def Way.hinted (w : Way) (hint : Nat) (alloc : Bool) : Way :=
  match hint with
  | 0 => { w with ret := 0, age := if alloc then 2 else 0 }
  | 1 => { w with ret := 1, age := 3 }
  | 2 => { w with ret := 2, age := 0 }
  | _ => w

/-- A way that may be a victim: not pinned and not filling (R86). -/
def Way.evictable (w : Way) : Bool := w.st != .pinned && w.st != .filling

/-- Ageing of a class of ways until one reaches 3 (R86): they all age by what the oldest lacks. -/
def ageClass (ws : Tbl Way) (inClass : Nat → Way → Bool) : Tbl Way :=
  let cls := ws.filter fun e => inClass e.1 e.2
  let oldest := cls.foldl (fun a e => Nat.max a e.2.age) 0
  tmap ws fun k w => if inClass k w then { w with age := w.age + (3 - oldest) } else w

/-- The way to allocate in, and the set after ageing (R86): an invalid way of the mask, else the lowest with AGE 3 among
those not sticky, else among the sticky; none where every way is pinned or filling. -/
def chooseVictim (ws : Tbl Way) (mask : Nat) : Option (Nat × Tbl Way) :=
  match (List.range 16).find? fun k => bitOf mask k && (tget ws k).isNone with
  | some k => some (k, ws)
  | none =>
    let pick (inClass : Nat → Way → Bool) : Option (Nat × Tbl Way) :=
      if ws.any fun e => inClass e.1 e.2 then
        let ws' := ageClass ws inClass
        (ws'.find? fun e => inClass e.1 e.2 && e.2.age == 3).map fun e => (e.1, ws')
      else none
    match pick fun k w => bitOf mask k && w.evictable && w.ret != 2 with
    | some r => some r
    | none => pick fun k w => bitOf mask k && w.evictable && w.ret == 2

/-- A line on its way out of the bed to the brine window (R90): what it holds at that moment. `id` numbers the write among
those that a persist request waits for (R133). -/
def State.startBrineWrite (s : State) (id line : Nat) : State :=
  { s with brineWrites := s.brineWrites ++ [{ id := id, line := line, bytes := mread s.mem line 128 }] }

/-- The block of a line. -/
def blockOf (pa : Nat) : Nat := pa / 4096 * 4096

/-- A coded block with dirty lines on their way out goes to its port, once (R78). -/
def State.startBlockOut (s : State) (id part codec block : Nat) (lines : List Nat) : State :=
  if s.blockOuts.any fun o => o.pa == block then
    { s with blockOuts := s.blockOuts.map fun o =>
        if o.pa = block then { o with id := Nat.min o.id id, lines := o.lines ++ lines } else o }
  else { s with blockOuts := s.blockOuts ++ [{ id := id, pa := block, part := part, codec := codec, lines := lines }] }

/-- The kind and number of the port of a physical address: 0 asset, 1 brine (R65). -/
def portOf (pa : Nat) : Nat × Nat := if isBrine pa then (1, bitsOf pa 12 2) else (0, bitsOf pa 12 6 ^^^ bitsOf pa 18 6)

/-- All 32 overflow entries of a block's port are held (R81). -/
def State.portFull (s : State) (pa : Nat) : Bool :=
  decide (32 ≤ (s.overflow.filter fun o => (o.kind, o.port) == portOf pa).length)

/-- Dirty expanded lines whose port refuses their write-back are pinned (R81). -/
def State.pinWays (s : State) (ws : Tbl Way) : Tbl Way :=
  tmap ws fun _ w => if w.cx && w.st == .dirty && s.portFull w.line then { w with st := .pinned } else w

/-- A dirty victim is written back (R86): a brine-window line with stored bytes goes to the brine window (R90), a line of a
coded block makes its block leave by R78. The note leaves with it after a push (R101). -/
def State.writeBack (s : State) (w : Way) : State :=
  if w.st != .dirty then s
  else if w.cx then s.startBlockOut s.nextId w.part w.codec (blockOf w.line) [w.line]
  else if isBrine w.line then s.startBrineWrite s.nextId w.line else s

/-- The lines of a block. -/
def blockLines (pa : Nat) : List Nat := (List.range 32).map fun k => pa + 128 * k

/-- The write-merge entry of a line (R90). -/
def Bed.mergeOf (b : Bed) (line : Nat) (cx : Bool) : Option MergeEntry := b.merge.find? fun e => e.line == line && e.cx == cx

/-- A line's bytes stand whole outside the ways: in its merge entry, or on the way out of the Saltern with its block (R78, R90). -/
def State.bufferedWhole (s : State) (line : Nat) (cx : Bool) : Bool :=
  ((s.bed (homeBed line)).mergeOf line cx).any (fun e => e.mask == BitVec.allOnes 128) ||
    (cx && s.blockOuts.any fun o => o.lines.contains line)

/-- The write-merge buffer of a line's bed has an entry for a write of the line, or room for one (R90). -/
def State.mergeRoom (s : State) (line : Nat) (cx : Bool) : Bool :=
  let b := s.bed (homeBed line)
  (b.mergeOf line cx).isSome || decide (b.merge.length < 2048)

/-- The expanded bytes of a block as its port reads them: from its overflow entry where one holds it, else from its slot (R73, R79). -/
def State.portRead (s : State) (part codec pa : Nat) : Except Nat (List Byte) :=
  match s.overflow.find? fun o => o.pa == pa with
  | some o => .ok o.bytes
  | none => expandBlock (s.part part).codeTables codec (mread s.mem pa 4096)

/-- A block is under write-back. One whose slot does not verify is not, so that its fills fail and its slot can be repaired (R77, log
49); and a full port has accepted none (R81). -/
def State.backing (s : State) (pa : Nat) : Bool :=
  !s.portFull pa && s.blockOuts.any fun o => o.pa == pa && (s.portRead o.part o.codec o.pa).isOk

/-- A fill of a block is under way at its port. -/
def State.filling (s : State) (part pa : Nat) : Bool := s.blockFills.any fun f => f.pa == pa && f.part == part

/-- The input queue of a block's port holds 8 block requests (R73). -/
def State.queueFull (s : State) (pa : Nat) : Bool :=
  decide (8 ≤ (s.blockFills.filter fun f => portOf f.pa == portOf pa).length)

/-- The fill of a block asked for, where its port's queue has room, by a group that waits for its outcome and by an access to a line of
it (R73, R75). -/
def State.askFill (s : State) (part codec block : Nat) (gk : Option GKey) (ask : Option (Nat × Nat × Nat)) : State :=
  if s.filling part block then
    let join (f : BlockFill) : BlockFill :=
      { f with waiters := f.waiters ++ gk.toList.filter (fun k => !f.waiters.contains k)
               asks := f.asks ++ ask.toList.filter fun x => !f.asks.contains x }
    { s with blockFills := s.blockFills.map fun f => if f.pa = block ∧ f.part = part then join f else f }
  else if s.queueFull block then s
  else { s with blockFills := s.blockFills ++ [{ pa := block, part := part, codec := codec, waiters := gk.toList, asks := ask.toList }] }

/-- The bytes of a line filled under those that its merge entry holds (R90). -/
def State.fillUnder (s : State) (line : Nat) (bs : List Byte) : State :=
  let mask := (((s.bed (homeBed line)).mergeOf line true).map (·.mask)).getD 0
  let now := mread s.xmem line 128
  { s with xmem := mwrite s.xmem line ((List.range 128).map fun k => if mask.getLsbD k then now.getD k 0 else bs.getD k 0) }

/-- A partition's access with a hint is served as bypass: its hint says so, or it owns no way (R87, R88). -/
def State.bypass (s : State) (part line hint : Nat) : Bool := hint == 3 || s.wayMask (homeBed line) part == 0

/-- A way allocated in the set of a line (R86), its victim written back; none where the line must wait for a way. -/
def State.allocate (s : State) (w : Way) (hint : Nat) : Option (State × Nat) :=
  let b := homeBed w.line
  let k := setOf w.line
  match chooseVictim (s.pinWays (tgetD (s.bed b).sets k [])) (s.wayMask b w.part) with
  | none => none
  | some (i, ws) =>
    let s1 := match tget ws i with
      | some old => s.writeBack old
      | none => s
    some (s1.modBed b fun x => { x with sets := tput x.sets k (tput ws i (w.hinted hint true)) }, i)

/-- A read of a line that no way and no buffer holds whole (R73, R85 to R87): its fill is started, and it waits; a bypass read takes
its bytes from the fill buffer at once. `who` numbers the access. A fill that fails once the access's block has been verified is asked for
again, until the block is repaired (DESIGN CHOICE: log 107). -/
def State.missRead (s : State) (who part codec line : Nat) (cx : Bool) (hint : Nat) : Option (State × Bool) :=
  if cx then
    if s.backing (blockOf line) then some (s, false)
    else if s.bypass part line hint && !s.filling part (blockOf line) then
      if s.queueFull line then some (s, false)
      else match s.portRead part codec (blockOf line) with
        | .ok bs => some (s.fillUnder line ((bs.drop (line - blockOf line)).take 128), true)
        | .error _ => some (s, false)
    else some (s.askFill part codec (blockOf line) none (some (line, hint, who)), false)
  else if s.bypass part line hint then some (s, true)
  else
    (s.allocate { line := line, cx := cx, st := .filling, part := part, codec := codec, opens := some who } hint).map fun e =>
      ({ e.1 with fills := e.1.fills ++ [(homeBed line, setOf line, e.2)] }, false)

/-- The lookup and allocation of an access (R85 to R88). `rd` marks one that needs the line's bytes, `wr` one that writes; `who` numbers
it, 0 where it is no thread's. A write hit makes its way dirty, but for a line that is being filled; a write miss stays in the
write-merge buffer and starts no fill (R90). The result says whether the access can be served now; none where it waits for a way or
for room in the buffer. -/
def State.touch (s : State) (who part codec line : Nat) (cx : Bool) (hint : Nat) (rd wr : Bool) : Option (State × Bool) :=
  let b := homeBed line
  let k := setOf line
  let ws := tgetD (s.bed b).sets k []
  if wr && !s.mergeRoom line cx then none
  else match wayFind ws part line cx with
    | some (i, w) =>
      if w.st == .filling && rd then some (s, false)
      else
        let w1 := if s.bypass part line hint || w.opens == some who then w else w.hinted hint false
        let w2 := { w1 with opens := if w.opens == some who && rd then none else w.opens
                            st := if wr && w.st == .clean then .dirty else w.st }
        some (s.modBed b fun x => { x with sets := tput x.sets k (tput ws i w2) }, true)
    | none => if !rd || s.bufferedWhole line cx then some (s, true) else s.missRead who part codec line cx hint

/-- An expanded line can be read at its bed (R73). -/
def State.lineHeld (s : State) (part line : Nat) : Bool :=
  (match wayFind (tgetD (s.bed (homeBed line)).sets (setOf line) []) part line true with
    | some (_, w) => w.st != .filling
    | none => false) || s.bufferedWhole line true

/-! ## Accesses of units, which wait as a whole step -/

/-- A bed takes no request of another issue to a line: one of its ways is under test (R387), or an instruction holds the line (R418). -/
def State.shut (s : State) (line issue : Nat) : Bool :=
  s.testing .salWay (homeBed line) (fun _ => true) ||
    ((s.bed (homeBed line)).locked.any fun e => e.1 == line && e.2 != issue)

/-- What a step that must wait has asked for is under way: the fill of a line, a walk, or the charge of a line request (R58, R86, R105). -/
def State.pursue (s : State) (w : Want) : State :=
  match w with
  | .line part codec line cx hint => match s.touch 0 part codec line cx hint true false with
    | some (s1, _) => s1
    | none => s
  | .page pan a vpn => match (s.pan pan).addMiss a vpn 256 with
    | some n => s.modPan pan fun _ => n
    | none => s
  | .charge pan =>
    let n := s.pan pan
    if n.pbal = 0 then s else s.modPan pan fun m => { m with pbal := m.pbal - 1, paid := m.paid + 1 }
  | .room => s

/-- The state after a step: that which it leads to, or, where some access of it has to wait, the one before it with what it waits for
under way (R86, R105). -/
def State.orWait (s s' : State) : State := if s'.wants.isEmpty then s' else s'.wants.foldl State.pursue s

/-- An access of a unit to a line, by an issue that may hold it (R86, R89, R418). -/
def State.unitTouch (s : State) (issue part codec line : Nat) (cx : Bool) (hint : Nat) (rd wr : Bool) : State :=
  if s.shut line issue then s.want .room
  else match s.touch 0 part codec line cx hint rd wr with
    | some (s1, true) => s1
    | some (_, false) => s.want (.line part codec line cx hint)
    | none => s.want .room

/-- The note of a line, where a way holds the line with one (R85). -/
def State.noteOf (s : State) (part line : Nat) (cx : Bool) : Option Note :=
  match wayFind (tgetD (s.bed (homeBed line)).sets (setOf line) []) part line cx with
  | some (_, w) => w.note
  | none => none

/-- A line's note set, where a way holds the line (R100). -/
def State.setNote (s : State) (part line : Nat) (cx : Bool) (n : Option Note) : State :=
  s.modBed (homeBed line) fun x =>
    let ws := tgetD x.sets (setOf line) []
    match wayFind ws part line cx with
    | some (i, w) => { x with sets := tput x.sets (setOf line) (tput ws i { w with note := n }) }
    | none => x

/-- The table lines of a walk read at their home beds (R53). The `.dev` acquire of a walker checks no note: R100 states the check's trap
for an instruction, and here there is none (DESIGN CHOICE: log 106). -/
def State.walkReads (s : State) (part : Nat) (lines : List Nat) : State :=
  lines.foldl (fun st l => st.unitTouch 0 part 0 l false 0 true false) s

/-! ## Scope notes, R100 -/

/-- Party X covers party Y at a scope (R100). A party is a pan, team slot and group slot; a side-port requester stands as pan 192 and is
not on the device. -/
def covers (scope xp xt xg yp yt yg : Nat) : Bool :=
  match scope with
  | 0 => xp == yp && xg == yg
  | 1 => xp == yp && xt == yt
  | 2 => decide (yp < 192)
  | _ => true

/-- The scope check of an acquire by a pan, team slot and group slot (R100): the releaser covers the acquirer at the note's
scope, and the acquirer covers the releaser at its own. -/
def noteOk (n : Note) (scope pan team slot : Nat) : Bool :=
  covers n.scope n.pan n.team n.slot pan team slot && covers scope pan team slot n.pan n.team n.slot

/-- REM 1: a .grp or .team note of another pan becomes .dev once that pan has pushed its releases (R100). -/
def promote (n : Note) (rem : Bool) (pan : Nat) : Note :=
  if rem && decide (n.scope < 2) && n.pan != pan then { n with scope := 2 } else n

/-! ## Sequence tags, R91, and status bits, R106 -/

/-- The next sequence tag of a partition at a bed. -/
def State.takeTag (s : State) (b part : Nat) : State × Nat :=
  let t := (tgetD (s.bed b).seqs part 0 + 1) % 2 ^ 32
  (s.modBed b fun x => { x with seqs := tput x.seqs part t }, t)

/-- A status bit of SAL_DSTAT set: 0 WOVF, 1 WTMR, 2 WFGN, 3 WCON, 4 CELLERR, 5 BERR. -/
def State.setDstat (s : State) (part bit : Nat) : State :=
  s.modPart part fun p => { p with dstat := p.dstat ||| 2 ^ bit }

/-! ## The write-merge buffer, R90 -/

/-- The bytes of a line that a write touches. -/
def byteMask (off n : Nat) : BitVec 128 := spanMask 128 off n

/-- A write's bytes enter the merge entry of their line (R90). -/
def Bed.merged (b : Bed) (id line : Nat) (cx : Bool) (part codec : Nat) (mask : BitVec 128) (now hint : Nat) : Bed :=
  if (b.mergeOf line cx).isSome then
    let join (e : MergeEntry) : MergeEntry := { e with mask := e.mask ||| mask, hint := hint }
    { b with merge := b.merge.map fun e => if e.line = line ∧ e.cx = cx then join e else e }
  else
    { b with merge := b.merge ++ [{ id := id, line := line, cx := cx, part := part, codec := codec, mask := mask, since := now,
                                    hint := hint }] }

/-- A store that covers a line ends its uncorrectable datum, and its way is pinned no more (R389). -/
def State.mend (s : State) (line : Nat) : State :=
  if !s.bad.contains line then s
  else
    let free (w : Way) : Way := if w.line = line ∧ w.st = .pinned then { w with st := .dirty } else w
    ({ s with bad := s.bad.filter fun l => l != line } : State).modBed (homeBed line) fun b =>
      { b with sets := tmod b.sets (setOf line) fun ws => tmap ws fun _ w => free w }

/-- A write of bytes within one line takes effect at its home bed: it is visible, merged, and a store of a whole line ends
an uncorrectable datum (R90, R389). -/
def State.bedStore (s : State) (part codec pa : Nat) (cx : Bool) (bs : List Byte) (hint : Nat := 0) : State :=
  let line := lineOf pa
  let s1 := { s.viewWrite cx pa bs with nextId := s.nextId + 1 }
  let s2 := s1.modBed (homeBed line) fun x => x.merged s.nextId line cx part codec (byteMask (pa - line) bs.length)
    s.clock.cycles hint
  if 128 ≤ bs.length then s2.mend line else s2

/-! ## Atomic operations, R92 and R235 -/

/-- Width in bytes of an ATOP (R235). -/
def atopBytes (op : Nat) : Nat := if atop64 op then 8 else 4

/-- The value an atomic writes (R92). FADD rounds RNE; exceptions are dropped. -/
def atopVal (op old b : Nat) : Nat :=
  let w := 8 * atopBytes op
  let pick (s : Nat) (less : Bool) : Nat :=
    if decide (val old w s ≤ val b w s) == less then old else b
  match op with
  | 0x00 | 0x01 | 0x02 | 0x03 => (old + b) % 2 ^ w
  | 0x04 | 0x06 => pick 0 true
  | 0x05 | 0x07 => pick 1 true
  | 0x08 | 0x0A => pick 0 false
  | 0x09 | 0x0B => pick 1 false
  | 0x0C | 0x10 => old &&& b
  | 0x0D | 0x11 => old ||| b
  | 0x0E | 0x12 => old ^^^ b
  | 0x0F | 0x13 => b % 2 ^ w
  | 0x14 => (addF f32 old b 0).code
  | 0x15 => (addF f64 old b 0).code
  | 0x16 => build 16 2 fun k => (addF f16 (elem old 16 k) (elem b 16 k) 0).code
  | 0x17 => build 16 2 fun k => (addF bf16 (elem old 16 k) (elem b 16 k) 0).code
  | 0x18 => (minMaxF f32 old b true true).code
  | 0x19 => (minMaxF f32 old b false true).code
  | 0x1A => (minMaxF f64 old b true true).code
  | 0x1B => (minMaxF f64 old b false true).code
  | _ => old

/-- An atomic step on the bytes of a view at an address (R92); the old value. -/
def State.bedAtomic (s : State) (part codec pa : Nat) (cx : Bool) (op b : Nat) : State × Nat :=
  let n := atopBytes op
  let old := ofBytes (s.viewRead cx pa n)
  (s.bedStore part codec pa cx (bytesOf (atopVal op old b) n), old)

/-! ## Ordered windows, R93 to R95 -/

/-- The sort order of R94: line address and byte offset, key, pan, lane, then arrival (the sort is stable). -/
def OrderedEntry.before (a b : OrderedEntry) : Bool :=
  if a.addr ≠ b.addr then decide (a.addr < b.addr)
  else if a.key ≠ b.key then decide (a.key < b.key)
  else if a.pan ≠ b.pan then decide (a.pan < b.pan)
  else decide (a.lane ≤ b.lane)

/-- Insertion into a sorted list, after its equals. -/
def insertEntry (l : List OrderedEntry) (e : OrderedEntry) : List OrderedEntry :=
  match l with
  | [] => [e]
  | h :: r => if h.before e then h :: insertEntry r e else e :: h :: r

/-- Held entries in the order in which a close applies them. -/
def sortEntries (l : List OrderedEntry) : List OrderedEntry := l.foldl insertEntry []

/-! ## Exact cells, R97 to R99 -/

def cellMagic : Nat := 0xECCE0001

/-- The bytes of a cleared cell (R97). -/
def clearedCell : List Byte := bytesOf (cellMagic * 2 ^ 992) 128

/-- ExactAdd(cell, x) on a line's number (R98); none where MAGIC is bad. -/
def exactAdd (cell : Nat) (x : FVal) : Option Nat :=
  if bitsOf cell 992 32 ≠ cellMagic then none
  else
    let acc := cell % 2 ^ 320
    let count := bitsOf cell 320 48
    let fl := bitsOf cell 368 8
    let rest := cell / 2 ^ 376 * 2 ^ 376
    let mk (acc count fl : Nat) : Nat := rest + fl * 2 ^ 368 + count * 2 ^ 320 + acc
    match x with
    | .nan _ => some (mk acc count (fl ||| 4))
    | .inf neg => some (mk acc count (fl ||| (if neg then 2 else 1)))
    | .fin neg n d =>
      let u : Int := if neg then -((n * 2 ^ 149 / d : Nat) : Int) else ((n * 2 ^ 149 / d : Nat) : Int)
      let count' := if count < 2 ^ 48 - 1 then count + 1 else count
      some (mk (wrap ((acc : Int) + u) 320) count' (if 2 ^ 42 ≤ count' then fl ||| 8 else fl))

/-- ExactRead(cell, fmt, rnd) of R99. -/
def exactRead (cell : Nat) (m : Fmt) (rnd : Nat) : FRes :=
  let fl := bitsOf cell 368 8
  if bitsOf cell 992 32 ≠ cellMagic ∨ bitOf fl 2 ∨ (bitOf fl 0 ∧ bitOf fl 1) ∨ bitOf fl 3 then
    { code := canonNan m, flags := fv }
  else if bitOf fl 0 then { code := infCode m false }
  else if bitOf fl 1 then { code := infCode m true }
  else
    let v := sval cell 320
    if v = 0 then { code := 0 } else roundF m (.fin (decide (v < 0)) v.natAbs (2 ^ 149)) rnd

/-! ## Transaction barriers, R102 and R103 -/

/-- A transaction barrier (R102). -/
structure Barrier where
  pend : Nat
  bytes : Int
  init : Nat
  phase : Nat
  valid : Bool
  err : Bool

/-- A barrier from its 16 bytes. -/
def barrierOf (bs : List Byte) : Barrier :=
  let x := ofBytes bs
  { pend := bitsOf x 0 32, bytes := sval (bitsOf x 32 32) 32, init := bitsOf x 64 32, phase := bitsOf x 96 16,
    valid := bitOf x 119, err := bitOf x 118 }

/-- The 16 bytes of a barrier; the reserved fields are 0. -/
def Barrier.toBytes (b : Barrier) : List Byte :=
  bytesOf (b.pend + wrap b.bytes 32 * 2 ^ 32 + b.init * 2 ^ 64 + b.phase * 2 ^ 96 + b.err.toNat * 2 ^ 118 +
    b.valid.toNat * 2 ^ 119) 16

/-- BYTES changed, or ERR where the result leaves the signed 32-bit range (R103). -/
def Barrier.addBytes (b : Barrier) (d : Int) : Barrier :=
  let v := b.bytes + d
  if v < -(2 ^ 31) ∨ 2 ^ 31 ≤ v then { b with err := true } else { b with bytes := v }

/-- The completion of a phase that an operation leaves complete (R103); the flag says whether one completed. -/
def Barrier.settle (b : Barrier) : Barrier × Bool :=
  if b.pend = 0 ∧ b.bytes = 0 then
    ({ b with phase := (b.phase + 1) % 2 ^ 16, pend := b.init, bytes := 0 }, true)
  else (b, false)

/-- A barrier operation (R103): the barrier after it and whether a phase completed; none where VALID is 0 and the operation
is discarded. -/
def tbApply (b : Barrier) (op : TbOp) : Option (Barrier × Bool) :=
  match op with
  | .init n =>
    if n = 0 then some ({ b with err := true }, false)
    else some (({ pend := n, bytes := 0, init := n, phase := 0, valid := true, err := false } : Barrier).settle)
  | .expect d => if b.valid then some (b.addBytes d).settle else none
  | .arrive k =>
    if b.valid then some (if b.pend < k then { b with err := true } else { b with pend := b.pend - k }).settle else none
  | .deliver n => if b.valid then some (b.addBytes (-(n : Int))).settle else none
  | .test => if b.valid then some b.settle else none

end Sys2Proof.Machine
end

