-- ==== Sys2Proof/Machine/Fabric.lean ====
section
/-! DEFINITION. Requests of threads on their way to home beds and the responses on their way back: how an instruction issues
its accesses, how a bed accepts them, and how a response fills destinations and lowers counters (R28, R34, R35, R59, R75,
R89 to R104, R110 to R124, R131, R138, R229 to R240, R418). -/

namespace Sys2Proof.Machine

/-! ## Who a group is, and where it stands -/

/-- The key of the group of an issue. -/
def Ctx.gk (c : Ctx) : GKey := gkeyOf c.tm c.g.num

/-- The slot of a pan where a group stands. -/
def PanCore.findGroup (p : PanCore) (k : GKey) : Option (Nat × Group × Team) :=
  p.groups.findSome? fun e => match tget p.teams e.2.team with
    | some tm => if gkeyOf tm e.2.num = k then some (e.1, e.2, tm) else none
    | none => none

/-- The pan and slot where a group stands. -/
def State.findGroup (s : State) (k : GKey) : Option (Nat × Nat × Group × Team) :=
  s.pans.findSome? fun e => if e.2.off then none else (e.2.core.findGroup k).map fun r => (e.1, r.1, r.2.1, r.2.2)

/-! ## L1, R136 to R138 -/

/-- The L1 that serves a quarter's loads of a line: its own in private mode; in fused mode the slice of the line, numbered from 4. The
pan controller has no L1 of its own (R137, R157). -/
def Pan.l1Key (n : Pan) (quarter line : Nat) : Option Nat :=
  if n.fused then some (4 + (bitsOf line 7 2 ^^^ bitsOf line 9 2)) else if quarter < 4 then some quarter else none

/-- Every L1 that a quarter's loads could hit (R138). -/
def Pan.l1Keys (n : Pan) (quarter : Nat) : List Nat := if n.fused then [4, 5, 6, 7] else if quarter < 4 then [quarter] else []

/-- Sets of an L1 of L1SEG/4 segments, 4-way (R136, R137). -/
def Pan.l1Sets (n : Pan) : Nat := n.l1seg * 16

/-- The copy of a line in an L1. -/
def Pan.l1Find (n : Pan) (key part line : Nat) (cx : Bool) : Option L1Line :=
  (tgetD n.l1 key []).find? fun l => l.line == line && l.cx == cx && l.part == part

/-- Two copies are of one line. -/
def L1Line.same (x l : L1Line) : Bool := l.line == x.line && l.cx == x.cx && l.part == x.part

/-- Two lines share a set of an L1 (log 10). -/
def Pan.l1Mates (n : Pan) (x l : L1Line) : Bool := x.line / 128 % n.l1Sets == l.line / 128 % n.l1Sets

/-- A line that an L1 holds takes the bytes that its bed now has; one that it does not hold is allocated where `alloc` says so: in front
of its set, whose least recently used line makes room, or with `lru` in that one's place (R137). -/
def Pan.l1Put (n : Pan) (key : Nat) (x : L1Line) (alloc lru : Bool) : Pan :=
  let ls := tgetD n.l1 key []
  if ls.any x.same then { n with l1 := tput n.l1 key (ls.map fun l => if x.same l then x else l) }
  else if alloc && n.l1Sets != 0 then
    let mates := (ls.filter (n.l1Mates x)).take 3
    { n with l1 := tput n.l1 key ((if lru then mates ++ [x] else x :: mates) ++ ls.filter fun l => !n.l1Mates x l) }
  else n

/-- A line of an L1 that a load hits is the most recently used of its set (R137). -/
def Pan.l1Use (n : Pan) (key : Nat) (x : L1Line) : Pan :=
  { n with l1 := tput n.l1 key (x :: (tgetD n.l1 key []).filter fun l => !x.same l) }

/-- Every line dropped that a quarter's loads could hit (R119, R138). -/
def Pan.l1Drop (n : Pan) (quarter : Nat) : Pan := { n with l1 := (n.l1Keys quarter).foldl (fun t k => tput t k []) n.l1 }

/-- One line dropped from every L1 of the pan (R138). -/
def Pan.l1Invalidate (n : Pan) (line : Nat) : Pan := { n with l1 := tmap n.l1 fun _ ls => ls.filter fun l => l.line != line }

/-- An acquire at a scope wider than the L1's sharing: .team under private mode, .dev or .sys under either (R119, R138). -/
def Pan.wide (n : Pan) (scope : Nat) : Bool := decide (2 ≤ scope) || (scope == 1 && !n.fused)

/-- An acquire at a scope by a group of a pan: one wider than the L1's sharing drops the lines that the group's later reads could hit
(R119, R124, R138). -/
def State.acquireAt (s : State) (pan quarter scope : Nat) : State :=
  s.modPan pan fun n => if n.wide scope then n.l1Drop quarter else n

/-! ## Responses, R28, R34, R35, R131, R240, R418 -/

/-- A response is under way. -/
def State.respond (s : State) (r : Resp) : State := { s with resps := s.resps ++ [r] }

/-- The register bits of a returned value. -/
def extend (e : Ext) (v : Nat) : Nat :=
  match e with
  | .zero => v
  | .sext8 => wrap (sval v 8) 32
  | .sext16 => wrap (sval v 16) 32

/-- The lanes that a returned value may still be written in: a thread that has exited takes nothing. -/
def Group.living (g : Group) (ls : List Nat) : List Nat := ls.filter fun l => match g.thread l with
  | some t => t.st != .exited
  | none => false

/-- Returned values written to an issue's destination; a g-register takes that of the highest active lane (R166). -/
def Group.land (g : Group) (i : Issue) (vals : List (Nat × Nat)) : Group :=
  match i.dst with
  | .none => g
  | .g _ => g.put i.dst i.regs ((vals.filter fun e => e.1 == i.top).map fun e => (e.1, extend i.ext e.2))
  | _ => g.put i.dst i.regs ((vals.filter fun e => (g.living [e.1]).length == 1).map fun e => (e.1, extend i.ext e.2))

/-- A lane's wait after part of its value has come. -/
def LaneWait.take (w : LaneWait) (v : LaneVal) : LaneWait :=
  { acc := w.acc ||| v.val, left := w.left - v.parts, flags := w.flags ||| v.flags, notes := w.notes ++ v.note.toList }

/-- An issue after a response. -/
def Issue.take (i : Issue) (r : Resp) : Issue :=
  { i with
    lanes := r.vals.foldl (fun ls v => tmod ls v.lane fun w => w.take v) i.lanes
    failed := i.failed.or r.scopeFail
    bad := i.bad.or r.bad }

/-- The destinations that an issue may write now: of an issue that waits for all its lanes, all of them at its completion;
of any other, those of the lanes that this response completes. -/
def Issue.ready (i : Issue) (r : Resp) : List (Nat × Nat) :=
  (i.lanes.filter fun e => e.2.left == 0 && (i.whole || r.vals.any fun v => v.lane == e.1)).map fun e => (e.1, e.2.acc)

/-- Flags raised and notes brought reach a thread (R119, R238). -/
def Thread.noted (t : Thread) (flags : Nat) (ns : List (Nat × Note)) : Thread :=
  { t with flags := t.flags ||| BitVec.ofNat 5 flags, seen := t.seen ++ ns }

/-- What a response brings beside its values reaches its threads (R119, R238). -/
def Group.takeNotes (g : Group) (r : Resp) : Group :=
  g.modThreads (r.vals.map (·.lane)) fun l t =>
    match r.vals.find? fun v => v.lane == l with
    | some v => t.noted v.flags v.note.toList
    | none => t

/-- What a complete issue of several lines has gathered beside its values reaches its threads (R418). -/
def Group.takeGathered (g : Group) (i : Issue) : Group :=
  g.modThreads (i.lanes.map (·.1)) fun l t =>
    match i.lanes.lookup l with
    | some w => t.noted w.flags w.notes
    | none => t

/-- The group after a response that ends in neither a trap nor a data fault: values written, the issue retired, and the
hold of its access lifted once it is complete; a TBWAIT goes on past its instruction when its phase is complete, and else
waits to test again (R250, R418). -/
def Group.answer (g : Group) (i : Issue) (r : Resp) : Group :=
  let vals := if i.whole && !i.complete then [] else i.ready r
  let g1 := (if !i.whole then g.takeNotes r else if i.complete then g.takeGathered i else g).land i vals
  let g2 := { g1 with issues := g1.issues.map (fun (j : Issue) => if j.id = i.id then i else j) }
  let g3 := if i.complete && g2.hold.any (fun h => h.issue == i.id) then { g2 with hold := none } else g2
  let g4 := match i.wait with
    | some n =>
      if i.lanes.any fun e => e.2.acc % 2 == 1 then
        match g3.run with
        | some run => { g3 with watching := false }.advance run n []
        | none => g3
      else { g3 with watching := true }
    | none => g3
  g4.retire

/-- An issue that ends without its values: its destinations are full with what they held, and it counts as complete
(R240, R418). -/
def Group.abandon (g : Group) (i : Issue) : Group :=
  let g1 := g.markFull i.dst i.regs (i.lanes.map (·.1))
  let done := { i with lanes := tmap i.lanes fun _ w => { w with left := 0 } }
  { g1 with
    issues := g1.issues.map (fun (j : Issue) => if j.id = i.id then done else j)
    hold := if g1.hold.any (fun (h : Hold) => h.issue == i.id) then none else g1.hold }.retire

/-- The first place of a data fault is the issue's; the record is KIND 2 (R240, R374). -/
def State.dataFault (s : State) (tm : Team) (pa addr pos : Nat) : State :=
  s.fatal tm.part tm.slot fun st =>
    st.logError (errRecord 2 Config.noUnit.toNat 0 tm.part (asid tm.part tm.slot) pa 0 addr pos)

/-- A group whose children count changes (R325); with the last child the threads that wait at JOIN are runnable (R326). -/
def Group.parent (g : Group) (d : Int) : Group :=
  if d = 0 then g
  else
    let n := (g.children + d).toNat
    let g1 := { g with children := n }
    if n = 0 then
      let g2 := { g1 with th := tmap g1.th fun _ t => if t.park = some Park.join then { t with st := .runnable, park := none } else t }
      { g2 with st := if g2.st = GState.park then g2.restState else g2.st }
    else g1

/-- Threads that wait for EV at a JOIN, once it is 0: they go on where no child is outstanding, and else wait for the children (R326). -/
def Group.eventsAnswered (g : Group) : Group :=
  if g.ctr.ev = 0 ∧ g.th.any (fun e => e.2.park == some .joinEv) then
    let go (t : Thread) : Thread :=
      if t.park ≠ some .joinEv then t
      else if g.children = 0 then { t with st := .runnable, park := none } else { t with park := some .join }
    let g1 := { g with th := tmap g.th fun _ t => go t }
    { g1 with st := if g1.st = GState.park then g1.restState else g1.st }
  else g

/-- Some thread waits at a JOIN. -/
def Group.atJoin (g : Group) : Bool := g.th.any fun e => e.2.park == some .joinEv || e.2.park == some .join

/-- Threads that a change lets go on from a JOIN acquire at .dev (R138, R326). -/
def State.joinAcquire (s : State) (p k : Nat) (before after : Group) : State :=
  if before.atJoin && !after.atJoin then s.acquireAt p (quarterOf k) 2 else s

/-- A response reaches its group where it stands: values are written and counters fall (R28, R34, R35); a failed scope
check traps at the acquiring instruction (R418); an uncorrectable datum is a data fault (R240). A response to no
outstanding issue of the group is discarded (R131). -/
def State.deliverTo (s : State) (p k : Nat) (g0 : Group) (tm : Team) (r : Resp) : State :=
  let g := g0.parent r.child
  match g.issues.find? fun i => i.id == r.issue with
  | none => if r.child = 0 then s else (s.joinAcquire p k g0 g).setGroup p k g
  | some i0 =>
    let i := i0.take r
    if i.complete then
      match i.bad with
      | some pa => (s.putGroup p k (g.abandon i).exitAll).dataFault tm pa i.addr i.pos
      | none => match i.failed with
        | some va => match g.hold with
          | some h =>
            s.takeTrap p k { g.abandon i with run := none } tm ((g.abandon i).living (lanesOf h.set)) h.addr h.pos 9
              (fun _ => va) (fun l => h.act.getLsbD l)
          | none => s.putGroup p k (g.abandon i)
        | none =>
          let g1 := (if r.keep then g.abandon i else g.answer i r).eventsAnswered
          let s1 := (s.joinAcquire p k g0 g1).putGroup p k g1
          if i.wait.isSome && g1.run.isNone && g.run.any (·.yld) then s1.yielded p k else s1
    else if i.failed.isSome || i.bad.isSome then
      s.putGroup p k { g with issues := g.issues.map (fun (j : Issue) => if j.id = i.id then i else j) }
    else s.putGroup p k (g.answer i r)

/-- A response goes to its group, or to the receipts of a group that stands nowhere (R131). The children count of a group that
JOIN has swapped out falls where it is (R326). -/
def State.deliver (s : State) (r : Resp) : State :=
  match s.findGroup r.gk with
  | some (p, k, g, tm) =>
    (s.deliverTo p k g tm r).modPan p fun n => { n with replies := n.replies ++ [((s.pan p).rc + 1, r)] }
  | none =>
    if r.child ≠ 0 ∧ s.joined.any (fun j => j.gk == r.gk) then
      { s with joined := s.joined.map fun j => if j.gk = r.gk then { j with g := j.g.parent r.child } else j }
    else { s with receipts := s.receipts ++ [r] }

/-! ## Issuing an access, R35, R59, R75, R129, R229 to R236 -/

/-- One piece of a lane's access: bytes that are read or written together. `sh` counts the bits of the lane's value below it. -/
structure Piece where
  lane : Nat
  va : Nat
  sh : Nat
  len : Nat
  deriving DecidableEq, Repr

/-- The pieces of a lane's access of `n` bytes: the whole of a naturally aligned one, else its single bytes (R109, R232). -/
def pieces (lane va n : Nat) : List Piece :=
  if va % n = 0 then [{ lane := lane, va := va, sh := 0, len := n }]
  else (List.range n).map fun k => { lane := lane, va := va + k, sh := 8 * k, len := 1 }

/-- An access to an address of a page with CODEC 1 or 2 sees expanded bytes (R66). -/
def cxOf (entry : Nat) : Bool := pteCodec entry == 1 || pteCodec entry == 2

/-- An issue of a counted or held instruction: the group with the counter raised, the destination marked empty in the
active lanes, and the issue recorded (R28, R35). -/
def Ctx.record (c : Ctx) (id : Nat) (ctr : Option Ctr) (d : Dst) (regs : Nat) (ext : Ext) (lanes : Tbl LaneWait)
    (whole : Bool) (wait : Option Nat) : Group :=
  let ls := lanes.map (·.1)
  let g1 := c.g.markEmpty d regs ls
  { g1 with
    ctr := match ctr with
      | some k => g1.ctr.mod k (· + 1)
      | none => g1.ctr
    issues := g1.issues ++ [{ id := id, ctr := ctr, addr := c.run.addr, pos := c.run.pos, dst := d, regs := regs, ext := ext,
                              top := ls.getLastD 0, lanes := lanes, whole := whole, wait := wait }] }

/-- A counter at 63 stalls an issue that would raise it (R35). -/
def Ctx.counterFull (c : Ctx) (k : Ctr) : Bool := decide (63 ≤ c.g.ctr.get k)

/-- What a global memory instruction asks for: rights, bytes per lane, alignment demanded (1 where none), the operation, the
counter it raises, its destination, whether that takes a sequence tag, its memory control byte, whether it may reach an
endpoint window (R231, R234), its words, whether it is TBWAIT, whether its lanes share one access (R233), and the lanes whose
earlier accesses it follows as a release beside its own. -/
structure Ask where
  need : Need
  bytes : Nat
  align : Nat := 1
  op : ReqOp
  ctr : Option Ctr
  dst : Dst := .none
  regs : Nat := 1
  ext : Ext := .zero
  tag : Bool := false
  ctl : Nat
  store : Bool := false
  words : Nat := 2
  answer : Bool := ctr.isSome
  wait : Bool := false
  one : Bool := false
  rel : List Nat := []

def Ask.ord (a : Ask) : Nat := bitsOf a.ctl 2 2
def Ask.scope (a : Ask) : Nat := bitsOf a.ctl 4 2
def Ask.rem (a : Ask) : Bool := bitOf a.ctl 6

/-- Acquire or acquire-release order. -/
def acquires (ord : Nat) : Bool := ord % 2 == 1

/-- Release or acquire-release order. -/
def releases (ord : Nat) : Bool := decide (2 ≤ ord)

/-- Operations that are strong whatever their order (R110). -/
def ReqOp.strong : ReqOp → Bool
  | .load | .store => false
  | _ => true

/-- Operations that return the bytes of a location and change nothing. -/
def ReqOp.reads : ReqOp → Bool
  | .load | .ecrd _ _ => true
  | _ => false

/-- Operations that change the location. -/
def ReqOp.changes : ReqOp → Bool
  | .load | .ecrd _ _ | .tb .test => false
  | _ => true

/-- Operations that bring a value back to their thread. -/
def ReqOp.returns : ReqOp → Bool
  | .load | .ecrd _ _ | .cas | .atom _ true => true
  | _ => false

/-- A strong access (R110). -/
def Ask.strong (a : Ask) : Bool := a.op.strong || a.ord != 0 || a.scope != 0

/-- What an instruction may not address: a misaligned atomic (R232), and an endpoint window but by an aligned store of 4, 8
or 16 bytes (R234). -/
def Ask.limits (a : Ask) : Limits :=
  { va := fun va => va % a.align != 0
    pa := fun pa => isEndpoint pa && !(a.store && decide (4 ≤ a.bytes) && pa % a.bytes == 0) }

/-- A piece joins the request to its line with its order and scope, or makes one (R119, R233). -/
def joinReq (rs : List Req) (r : Req) (acc : LaneAcc) : List Req :=
  match rs with
  | [] => [{ r with accs := [acc] }]
  | h :: t =>
    if h.line = r.line ∧ h.cx = r.cx ∧ h.ord = r.ord ∧ h.scope = r.scope then { h with accs := h.accs ++ [acc] } :: t else h :: joinReq t r acc

/-- The scope of a release fence in force for a thread among these (R119). -/
def Group.fenceScope (g : Group) (ls : List Nat) : Option Nat :=
  ls.foldl (fun a l => match g.thread l with
    | some t => match t.relFence, a with
      | some x, some y => some (Nat.max x y)
      | some x, none => some x
      | none, y => y
    | none => a) none

/-- Order and scope of a lane's access after the release fence in force for its thread, if any: a strong write is a release at the wider
scope (R119). -/
def Ctx.ordered (c : Ctx) (a : Ask) (lane : Nat) : Nat × Nat :=
  match (if a.strong && a.op.changes then c.g.fenceScope [lane] else none) with
  | some f => (if releases a.ord then a.ord else a.ord + 2, Nat.max f a.scope)
  | none => (a.ord, a.scope)

/-- The requests of an instruction: one for each line, the lanes ascending (R233). `data` gives a lane's operand, the value
it compares with and its key. -/
def Ctx.requests (c : Ctx) (s : State) (a : Ask) (issue : Nat) (ps : List (Piece × Nat)) (data : Nat → Nat × Nat × Nat) :
    List Req :=
  let pan := s.pan c.pan
  let rs := ps.foldl (fun rs pe =>
    let (p, e) := pe
    let (ord, scope) := c.ordered a p.lane
    let pa := leafPa e p.va
    let line := lineOf pa
    let (v, cmp, key) := data p.lane
    let r : Req :=
      { id := 0, issue := issue, gk := c.gk, pan := c.pan, slot := c.slot, team := c.g.team, asSlot := c.tm.slot,
        line := line, va := p.va, addr := c.run.addr, pos := c.run.pos, cx := cxOf e, codec := pteCodec e, op := a.op, accs := [],
        ord := ord, scope := if pteDl e && scope == 3 then 2 else scope, rem := a.rem,
        hint := if a.ctl % 4 = 0 then pteRet e else a.ctl % 4, tag := a.tag, strong := a.strong,
        l1 := if a.op = .load then pan.l1Key (quarterOf c.slot) line else none,
        rc := if a.op.changes then pan.rc + 1 else 0, rel := a.rel, one := a.one }
    joinReq rs r { lane := p.lane, off := pa - line, len := p.len, sh := p.sh, val := v >>> p.sh, cmp := cmp, key := key }) []
  let multi := acquires a.ord && a.op.changes && decide (1 < rs.length)
  rs.zipIdx.map fun e => { e.1 with id := issue + 1 + e.2, multi := multi }

/-- A request of the fabric that touches bytes which this one touches, for the same thread. -/
def Req.clashes (q e : Req) : Bool :=
  e.gk == q.gk && e.line == q.line && e.cx == q.cx &&
  e.accs.any fun x => q.accs.any fun y => x.lane == y.lane && decide (x.off < y.off + y.len) && decide (y.off < x.off + x.len)

/-- A load that its L1 serves (R138): a data access, or one at .team under fused mode, of a line that the L1 holds, no
earlier access of its threads to those bytes being under way. -/
def State.l1Hit (s : State) (a : Ask) (q : Req) : Option L1Line :=
  match q.l1 with
  | some key =>
    let n := s.pan q.pan
    if a.op = .load ∧ a.ord = 0 ∧ (a.scope = 0 ∨ (a.scope = 1 ∧ n.fused)) ∧ !(s.fabric.any fun e => q.clashes e) then
      n.l1Find key q.gk.part q.line q.cx
    else none
  | none => none

/-- The value of an access within the bytes of a line. -/
def LaneAcc.read (a : LaneAcc) (bytes : List Byte) : Nat := ofBytes ((bytes.drop a.off).take a.len) <<< a.sh

/-- The requests of an instruction sent: those that an L1 serves are answered, the others leave for their beds. -/
def State.sendAll (s : State) (a : Ask) (rs : List Req) : State :=
  rs.foldl (fun st q => match s.l1Hit a q with
    | some l =>
      let note := if a.strong then (s.noteOf q.gk.part q.line q.cx).map fun n => (q.va, n) else none
      (st.modPan q.pan fun n => n.l1Use (q.l1.getD 0) l).respond
        { gk := q.gk, pan := q.pan, issue := q.issue, load := true, rc := q.rc,
          vals := q.accs.map fun x => { lane := x.lane, val := x.read l.bytes, note := note } }
    | none => { st with fabric := st.fabric ++ [q] }) s

/-- The outcome of the hold for coded blocks (R75). -/
inductive BlockCheck where
  | pass
  | wait (s : State)
  | faults (fs : List (Nat × Nat × Nat × Nat))
  deriving DecidableEq, Repr

/-- A distinct failing block joins the list: slot address, cause, virtual address, codec. -/
def addBlockFault (fs : List (Nat × Nat × Nat × Nat)) (f : Nat × Nat × Nat × Nat) : List (Nat × Nat × Nat × Nat) :=
  if fs.any fun x => x.1 == f.1 then fs else fs ++ [f]

/-- The coded blocks of an instruction's accesses: all verified, some awaited, or some failing (R74, R75). -/
def Ctx.blockCheck (c : Ctx) (s : State) (ps : List (Piece × Nat)) : BlockCheck :=
  let coded := ps.filter fun p => cxOf p.2
  let missing := coded.filter fun p =>
    let pa := leafPa p.2 p.1.va
    !(s.lineHeld c.tm.part (lineOf pa) || c.g.blocks.any fun b => b.1 == blockOf pa)
  if missing.isEmpty then
    let fs := coded.foldl (fun fs p =>
      let pa := leafPa p.2 p.1.va
      match c.g.blocks.lookup (blockOf pa) with
      | some (some cause) => if s.lineHeld c.tm.part (lineOf pa) then fs
                             else addBlockFault fs (blockOf pa, cause, p.1.va, pteCodec p.2)
      | _ => fs) []
    if fs.isEmpty then .pass else .faults fs
  else .wait (missing.foldl (fun st p => st.askFill c.tm.part (pteCodec p.2) (blockOf (leafPa p.2 p.1.va)) (some c.gk) none) s)

/-- A port-event record (R76). -/
def portRecord (kind cause pkind port asid entry clen pa va pc pos : Nat) : List Byte :=
  bytesOf (kind * 2 ^ 28 + cause * 2 ^ 24 + pkind * 2 ^ 22 + port * 2 ^ 16 + asid * 2 ^ 9 + entry * 2 ^ 4) 4 ++
  bytesOf (clen * 2 ^ 16) 4 ++ bytesOf pa 8 ++ bytesOf va 8 ++ bytesOf pc 4 ++ bytesOf (bitsOf pc 32 24 * 32 + pos) 4

/-- A record joins the partition's port ring (R76, R77). -/
def State.postXpr (s : State) (part : Nat) (rec : List Byte) : State :=
  s.modPart part fun p => { p with xpr := p.xpr.push rec }

/-- A group waits on a block fault, one record for each failing block (R75). -/
def Ctx.blockFault (c : Ctx) (s : State) (fs : List (Nat × Nat × Nat × Nat)) : State :=
  let ring := (s.part c.tm.part).xpr
  let g := { c.g.faultWait s.clock.cycles with blocks := [], blockWait := true, posted := ring.head + ring.wait.length + fs.length }
  fs.foldl (fun st f =>
    let (kind, port) := portOf f.1
    st.postXpr c.tm.part
      (portRecord 1 f.2.1 kind port (asid c.tm.part c.tm.slot) 0 0 f.1 f.2.2.1 c.run.addr c.run.pos))
    (s.setGroup c.pan c.slot g)

/-- A global memory instruction (R59, R75, R229 to R236, R418): it waits for its counter, its translations and its blocks;
then it raises its counter, marks its destination empty, sends its requests, and goes on, or holds its group where it is an
acquiring access or one to a coded page, until its values have come or its beds have accepted it. `addr` and `data` are given per active lane. -/
def Ctx.global (c : Ctx) (s : State) (a : Ask) (addr : Nat → Nat) (data : Nat → Nat × Nat × Nat) : State :=
  if a.ctr.any c.counterFull then c.stall s
  else
    let ps := c.lanes.flatMap fun l => pieces l (addr l) a.bytes
    match c.translate s a.need a.limits (ps.map fun p => (p.lane, p.va)) with
    | (s1, none) => s1
    | (s1, some leaves) =>
      let placed := ps.filterMap fun p => (leaves.lookup p.va).map fun e => (p, e)
      match c.blockCheck s1 placed with
      | .wait s2 => s2
      | .faults fs => c.blockFault s1 fs
      | .pass =>
        let id := s1.nextId
        let rs := c.requests s1 a id placed data
        let acq := acquires a.ord
        let lanes : Tbl LaneWait := c.lanes.map fun l =>
          (l, { left := (placed.filter fun p => p.1.lane == l).length })
        let g1 := if a.answer then
            c.record id a.ctr a.dst a.regs a.ext lanes (acq && decide (1 < rs.length)) (if a.wait then some a.words else none)
          else c.g
        let full := acq || a.op = .tb .test
        let g2 := { g1 with blocks := [], walks := [], watching := false,
                            hold := if full || placed.any fun p => cxOf p.2 then
                                some { issue := id, addr := c.run.addr, pos := c.run.pos, set := c.run.set,
                                       act := maskOf c.lanes, bed := !full && !a.op.returns }
                              else g1.hold }
        let s2 := { s1.sendAll a rs with nextId := id + 1 + rs.length }
        if a.wait then s2.setGroup c.pan c.slot g2 else c.finish s2 g2 a.words []

/-! ## Acceptance at a home bed, R89 -/

/-- A request by its number. -/
def State.request (s : State) (id : Nat) : Option Req := s.fabric.find? fun q => q.id == id

/-- An ordered update of one of these lanes of a group is held at some bed. -/
def State.heldFor (s : State) (gk : GKey) (ls : List Nat) : Bool :=
  s.beds.any fun b => b.2.held.any fun e => e.gk == gk && ls.contains e.lane

/-- The bytes that the lanes of a request cover. -/
def Req.cover (q : Req) : BitVec 128 := q.accs.foldl (fun m a => m ||| byteMask a.off a.len) 0

/-- Units of the pan's byte budget that a request costs (R105). -/
def Req.units (q : Req) : Nat :=
  ((if q.one then ((List.range 128).filter q.cover.getLsbD).length else (q.accs.map (·.len)).sum) + 127) / 128

/-- Requests of a pan that are outstanding at the beds: not accepted yet, or their answer still to come (R105). -/
def State.outstanding (s : State) (pan : Nat) : Nat :=
  (s.fabric.filter fun e => e.pan == pan && e.sent).length + (s.resps.filter fun r => r.pan == pan && r.bed).length

/-- Earlier requests of a request's group, of other instructions. -/
def State.earlier (s : State) (q : Req) : List Req :=
  s.fabric.filter fun e => e.gk == q.gk && decide (e.issue < q.issue)

/-- The lanes that a request acts for. -/
def Req.lanes (q : Req) : List Nat := q.accs.map (·.lane) ++ q.rel

/-- A request acts for a lane for which another accesses memory. -/
def Req.shares (q e : Req) : Bool := e.accs.any fun x => q.lanes.contains x.lane

/-- A request may leave its pan: its journal records are durable (R129); no earlier access of its threads to its bytes is under
way (R113, R116); a release follows every earlier access of its threads (R115, R116). -/
def State.maySend (s : State) (q : Req) : Bool :=
  let n := s.pan q.pan
  decide (q.rc ≤ n.drc) && !n.off && !((s.earlier q).any fun e => q.clashes e) &&
  !(releases q.ord && ((s.earlier q).any (fun e => q.shares e) || s.heldFor q.gk q.lanes))

/-- A pan's byte budget covers some units, and fewer than 256 of its requests are outstanding (R105). -/
def State.budget (s : State) (pan units : Nat) : Bool :=
  let n := s.pan pan
  (n.pbud == 0xFFFF || decide (units ≤ n.pbal)) && decide (s.outstanding pan < 256)

/-- A pan's byte budget less some units (R105). -/
def State.spend (s : State) (pan units : Nat) : State :=
  s.modPan pan fun n => { n with pbal := if n.pbud = 0xFFFF then n.pbal else n.pbal - units }

/-- The charge of a thread's request that leaves its pan, which is metered too (R105, R366, R368). -/
def State.charge (s : State) (pan units : Nat) : State := (s.spend pan units).meter pan 18 units

/-- A request of a walker or an engine of a pan for one line leaves its pan, charged before or now, or waits (R105). -/
def State.lineRequest (s : State) (pan : Nat) : State :=
  if 0 < (s.pan pan).paid then s.modPan pan fun n => { n with paid := n.paid - 1 }
  else if s.budget pan 1 then s.spend pan 1
  else if s.budget pan 0 then s.want (.charge pan) else s.want .room

/-- A request is at its bed, or may leave for it now. -/
def State.accepts (s : State) (q : Req) : Bool := s.maySend q && (q.sent || s.budget q.pan q.units)

/-- A request has left its pan, charged. -/
def State.depart (s : State) (q : Req) : State :=
  if q.sent then s
  else { s.charge q.pan q.units with fabric := s.fabric.map fun (e : Req) => if e.id = q.id then { e with sent := true } else e }

/-- A hold that lasts until the beds have accepted its access ends with the last of them (R75). -/
def State.unhold (s : State) (q : Req) : State :=
  if s.fabric.any fun e => e.issue == q.issue then s
  else match s.findGroup q.gk with
    | some (p, k, g, _) => if g.hold.any fun h => h.bed && h.issue == q.issue then s.setGroup p k { g with hold := none } else s
    | none => s

/-- An accepted request leaves the fabric. -/
def State.take (s : State) (q : Req) : State := ({ s with fabric := s.fabric.filter fun e => e.id != q.id } : State).unhold q

/-- The single bytes of misaligned accesses are accepted apart (R109): of a request that holds several pieces of one lane, a choice left
open is accepted now, and the rest stays at the bed. -/
def State.part_ (s : State) (q : Req) : State × Req :=
  let loose (a : LaneAcc) : Bool := (q.accs.filter fun b => b.lane == a.lane).length != 1
  if !q.accs.any loose then (s, q)
  else
    let pick (e : LaneAcc × Nat) : Bool := !loose e.1 || bitOf (Config.freeBytes s.freeCtr) e.2
    let now := (q.accs.zipIdx.filter pick).map (·.1)
    let now := if now.isEmpty then q.accs.take 1 else now
    let rest := q.accs.filter fun a => !now.contains a
    if rest.isEmpty then (s, q)
    else
      let left : Req := { q with id := s.nextId, accs := rest, sent := true }
      let q1 := { q with accs := now }
      ({ s with freeCtr := s.freeCtr + 1, nextId := s.nextId + 1,
                fabric := (s.fabric.map fun (e : Req) => if e.id = q.id then q1 else e) ++ [left] }, q1)

/-- Nothing, a scope note or a scope check of a request (R100): the state after any promotion, and the address at which an
acquire fails its check. -/
def State.scopeCheck (s : State) (q : Req) : State × Option Nat :=
  if !acquires q.ord then (s, none)
  else match s.noteOf q.gk.part q.line q.cx with
    | none => (s, none)
    | some n =>
      let n' := promote n (q.rem && decide (2 ≤ q.scope)) q.pan
      let s1 := if n' = n then s else s.setNote q.gk.part q.line q.cx (some n')
      (s1, if noteOk n' q.scope q.pan q.team q.slot then none else some q.va)

/-- A release leaves its note on the line (R100). -/
def State.leaveNote (s : State) (q : Req) : State :=
  if releases q.ord then
    s.setNote q.gk.part q.line q.cx (some { scope := q.scope, pan := q.pan, team := q.team, slot := q.slot })
  else s

/-- An acquire wider than the L1's sharing drops the lines that its group's later reads could hit (R138). -/
def State.acquireDrop (s : State) (q : Req) : State :=
  if acquires q.ord then s.acquireAt q.pan (quarterOf q.slot) q.scope else s

/-- The L1 of a quarter takes a line's bytes as its bed now has them: always where it holds the line, and where a load allocates it
(R137). -/
def State.l1Take (s : State) (pan slot part line : Nat) (cx alloc : Bool) (hint : Nat) : State :=
  s.modPan pan fun n => match n.l1Key (quarterOf slot) line with
    | some key => n.l1Put key { line := line, cx := cx, part := part, bytes := s.viewRead cx line 128 } (alloc && hint != 3) (hint == 1)
    | none => n

/-- The L1 of a request's quarter takes the bytes of its line (R137). -/
def State.l1Refresh (s : State) (q : Req) (alloc : Bool) : State := s.l1Take q.pan q.slot q.gk.part q.line q.cx alloc q.hint

/-- The answer to a request. -/
def Req.answer (q : Req) (load : Bool) (vals : List LaneVal) (scopeFail bad : Option Nat) : Resp :=
  { gk := q.gk, pan := q.pan, issue := q.issue, load := load, vals := vals, scopeFail := scopeFail, bad := bad, rc := q.rc, bed := true }

/-- Every lane of a request answered without a value. -/
def Req.blanks (q : Req) : List LaneVal := q.accs.map fun a => { lane := a.lane }

/-- Held ordered updates of a bed applied in the order of R94, each taking its tag, bringing its issuer's L1 up to date and answering its
issue (R93, R137). -/
def State.applyHeld (s : State) (es : List OrderedEntry) : State :=
  match es with
  | [] => s
  | e :: r =>
    let line := lineOf e.addr
    let answer : Resp :=
      { gk := e.gk, pan := e.pan, issue := e.issue, load := false, vals := [{ lane := e.lane }], rc := e.rc, bed := true }
    let s' :=
      if s.badLine e.addr then s.respond { answer with bad := some line }
      else
        let s1 := s.unitTouch e.issue e.part e.codec line e.cx e.hint true true
        let (s2, _) := s1.takeTag (homeBed line) e.part
        let (s3, _) := s2.bedAtomic e.part e.codec e.addr e.cx e.op e.val
        ((match e.note with
          | some n => s3.setNote e.part line e.cx (some n)
          | none => s3).l1Take e.pan e.slot e.part line e.cx false e.hint).respond answer
    s'.applyHeld r

/-- The window of a bed closes (R94, R95). -/
def State.closeWindow (s : State) (b : Nat) (st : Option Nat) : State :=
  let bed := s.bed b
  let s1 := match st with
    | some k => s.setDstat bed.winPart k
    | none => s
  (s1.modBed b fun x => { x with held := [] }).applyHeld (sortEntries bed.held)

/-- A write to a line with held entries closes the window first (R94, conflict). -/
def State.closeConflict (s : State) (line : Nat) : State :=
  let b := homeBed line
  if (s.bed b).held.any fun e => lineOf e.addr == line then s.closeWindow b (some 3) else s

/-- A load or ECRD is accepted (R89, R99, R238): its values return with the line's note; one that fails its scope check
returns nothing (R100). A miss waits for the line's fill. -/
def State.acceptLoad (s : State) (q : Req) : State :=
  match s.touch q.id q.gk.part q.codec q.line q.cx q.hint true false with
  | none => s
  | some (s1, false) => s1
  | some (s1, true) =>
    let (s2, fail) := (s1.take q).scopeCheck q
    match fail with
    | some va => s2.respond (q.answer true q.blanks (some va) none)
    | none =>
      if s2.badLine q.line then s2.respond (q.answer true q.blanks none (some q.line))
      else
        let bytes := s2.viewRead q.cx q.line 128
        let note := if q.strong then (s2.noteOf q.gk.part q.line q.cx).map fun n => (q.va, n) else none
        let vals := q.accs.map fun a => match q.op with
          | .ecrd bf rnd =>
            let r := exactRead (ofBytes bytes) (if bf then bf16 else f32) rnd
            { lane := a.lane, val := r.code, flags := r.flags, note := note }
          | _ => { lane := a.lane, val := a.read bytes, note := note }
        ((s2.acquireDrop q).l1Refresh q (q.op == .load && q.l1.isSome)).respond (q.answer true vals none none)

/-- One lane's store takes effect, with its tag (R90, R91, R233). The tag of an access of two lines is that of the line with
its lowest byte. -/
def State.storeLane (s : State) (q : Req) (a : LaneAcc) : State × LaneVal :=
  let (s1, tag) := s.takeTag (homeBed q.line) q.gk.part
  let bs := match q.op with
    | .ecclr => clearedCell
    | _ => bytesOf a.val a.len
  (s1.bedStore q.gk.part q.codec (q.line + a.off) q.cx bs q.hint, { lane := a.lane, val := if q.tag && a.sh == 0 then tag else 0 })

/-- Lanes one after another. -/
def State.eachLane (s : State) (as : List LaneAcc) (f : State → LaneAcc → State × LaneVal) : State × List LaneVal :=
  match as with
  | [] => (s, [])
  | a :: r =>
    let (s1, v) := f s a
    let (s2, vs) := s1.eachLane r f
    (s2, v :: vs)

/-- A store or ECCLR is accepted (R90, R97, R100). A store that covers a line ends its uncorrectable datum (R389). -/
def State.acceptWrite (s : State) (q : Req) : State :=
  let s0 := s.closeConflict q.line
  match s0.touch q.id q.gk.part q.codec q.line q.cx q.hint false true with
  | none => s
  | some (s1, _) =>
    let s2 := s1.take q
    if q.op = .ecclr ∧ s2.badLine q.line then s2.respond (q.answer false q.blanks none (some q.line))
    else
      let (s3, vals) := s2.eachLane q.accs fun st a => st.storeLane q a
      let s4 := if q.cover = BitVec.allOnes 128 then s3.mend q.line else s3
      ((s4.leaveNote q).l1Refresh q false).respond (q.answer false vals none none)

/-- One lane's atomic, CAS or exact add takes effect (R92, R98, R236): the value it returns, or its tag. -/
def State.atomicLane (s : State) (q : Req) (a : LaneAcc) : State × LaneVal :=
  let pa := q.line + a.off
  let b := homeBed q.line
  let (s1, tag) := s.takeTag b q.gk.part
  match q.op with
  | .atom op ret =>
    let (s2, old) := s1.bedAtomic q.gk.part q.codec pa q.cx op a.val
    (s2, { lane := a.lane, val := if ret then old else if q.tag then tag else 0 })
  | .cas =>
    let old := ofBytes (s1.viewRead q.cx pa a.len)
    (s1.bedStore q.gk.part q.codec pa q.cx (bytesOf (if old = a.cmp then a.val else old) a.len), { lane := a.lane, val := old })
  | .eadd bf =>
    let x := if bf then decodeF bf16 (a.val % 2 ^ 16) else decodeF f32 (a.val % 2 ^ 32)
    let v : LaneVal := { lane := a.lane, val := if q.tag then tag else 0 }
    match exactAdd (ofBytes (s1.viewRead q.cx q.line 128)) x with
    | some cell => (s1.bedStore q.gk.part q.codec q.line q.cx (bytesOf cell 128), v)
    | none => (s1.setDstat q.gk.part 4, v)
  | _ => (s1, { lane := a.lane })

/-- An atomic, CAS or exact add is performed at its bed, which has the line (R92, R98, R100). One on an uncorrectable line is not performed
(R240). -/
def State.performAtomic (s : State) (q : Req) : State :=
  let s0 := s.take q
  if s0.badLine q.line then s0.respond (q.answer q.op.returns q.blanks none (some q.line))
  else
    let note := if q.op.returns then (s0.noteOf q.gk.part q.line q.cx).map fun n => (q.va, n) else none
    let (s2, vals) := s0.eachLane q.accs fun st a => st.atomicLane q a
    (((s2.leaveNote q).acquireDrop q).l1Refresh q false).respond
      (q.answer q.op.returns (vals.map fun v => { v with note := note }) none none)

/-- A request in its place by ascending line address. -/
def insertByLine (l : List Req) (q : Req) : List Req :=
  match l with
  | [] => [q]
  | h :: r => if q.line < h.line then q :: h :: r else h :: insertByLine r q

/-- The requests of an instruction that are still under way, in ascending line address. -/
def State.siblings (s : State) (q : Req) : List Req :=
  (s.fabric.filter fun e => e.issue == q.issue).foldl insertByLine []

/-- Lines that an instruction holds are released (R418). -/
def State.unlock (s : State) (issue : Nat) : State :=
  { s with beds := tmap s.beds fun _ b => { b with locked := b.locked.filter fun e => e.2 != issue } }

/-- An acquiring atomic of several lines takes its next line, in ascending address; with the last it is performed at every
bed, and a failed check releases what it holds with nothing performed (R418). -/
def State.acquireLine (s : State) (q : Req) : State :=
  let sibs := s.siblings q
  if (sibs.find? fun e => !e.lock).map (·.id) ≠ some q.id then s
  else
    let (s1, fail) := s.scopeCheck q
    match fail with
    | some va =>
      sibs.foldl (fun st e => (st.take e).respond (e.answer true e.blanks (some va) none)) (s1.unlock q.issue)
    | none =>
      let s2 := { s1 with fabric := s1.fabric.map (fun (e : Req) => if e.id = q.id then { e with lock := true } else e) }
      let s3 := s2.modBed (homeBed q.line) fun b => { b with locked := b.locked ++ [(q.line, q.issue)] }
      if (s3.siblings q).all (·.lock) then
        (sibs.foldl (fun (st : State) e =>
          (st.unitTouch e.issue e.gk.part e.codec e.line e.cx e.hint true true).performAtomic e) s3).unlock q.issue
      else s3

/-- An atomic, CAS or exact add is accepted (R89, R92, R98, R418): a conflicting window closes first, so that its check meets the notes
that the held updates leave (R94, R117). -/
def State.acceptAtomic (s : State) (q : Req) : State :=
  let s0 := s.closeConflict q.line
  match s0.touch q.id q.gk.part q.codec q.line q.cx q.hint true true with
  | none => s
  | some (x, false) => s.orWait x
  | some (x, true) =>
    if q.multi then x.acquireLine q
    else
      let (s1, fail) := x.scopeCheck q
      match fail with
      | some va => (s1.take q).respond (q.answer true q.blanks (some va) none)
      | none => s1.performAtomic q

/-- An ordered update joins the window of its bed (R93, R94): an arrival at a full buffer or from another partition closes
the window first, and then opens the next. Of one that is both, R94 does not say which status bit it sets: it sets WFGN alone (DESIGN
CHOICE: log 98). -/
def State.holdEntry (s : State) (b : Nat) (e : OrderedEntry) : State :=
  let bed := s.bed b
  let s1 :=
    if bed.held.isEmpty then s
    else if bed.winPart ≠ e.part then s.closeWindow b (some 2)
    else if 16 ≤ bed.held.length then s.closeWindow b (some 0) else s
  s1.modBed b fun x =>
    if x.held.isEmpty then { x with held := [e], winPart := e.part, winOpen := s.clock.nanos } else { x with held := x.held ++ [e] }

/-- The ordered updates of a request arrive at their bed, the lanes ascending (R93, R237). -/
def State.acceptOrdered (s : State) (q : Req) (op : Nat) : State :=
  q.accs.foldl (fun st a => st.holdEntry (homeBed q.line)
    { addr := q.line + a.off, op := op, val := a.val, key := a.key, pan := q.pan, lane := a.lane, part := q.gk.part,
      gk := q.gk, issue := q.issue, slot := q.slot, rc := q.rc, cx := q.cx, codec := q.codec, hint := q.hint,
      note := if releases q.ord then some { scope := q.scope, pan := q.pan, team := q.team, slot := q.slot } else none })
    (s.take q)

/-! ## Transaction barriers at their bed, R102 to R104 -/

/-- A barrier operation takes effect (R103); the barrier that it found, none where it is discarded, which sets BERR. A completed phase is
a release at the operation's scope, also one that a test finds complete, and its watchers are to be told (R104, log 105). -/
def State.barrierOp (s : State) (part codec pa : Nat) (cx : Bool) (op : TbOp) (note : Option Note) : State × Option Barrier :=
  let line := lineOf pa
  let b := barrierOf (s.viewRead cx pa 16)
  match tbApply b op with
  | none => (s.setDstat part 5, none)
  | some (b', done) =>
    if op = .test ∧ !done then (s, some b)
    else
      let s1 := s.bedStore part codec pa cx b'.toBytes
      let s2 := match note with
        | some n => s1.setNote part line cx (some n)
        | none => s1
      (if done then s2.modBed (homeBed pa) fun x =>
          { x with watch := x.watch.map fun w => if w.addr = pa then { w with due := true } else w }
       else s2, some b)

/-- Phase `p` is complete (R250). -/
def phaseComplete (phase p : Nat) : Bool :=
  let d := (phase + 2 ^ 16 - p % 2 ^ 16) % 2 ^ 16
  decide (1 ≤ d) && decide (d ≤ 2 ^ 15)

/-- A TBWAIT that finds its phase incomplete registers a watch, where the table of its bed has room (R104). -/
def State.watchFor (s : State) (q : Req) (pa : Nat) (a : LaneAcc) : State :=
  let b := barrierOf (s.viewRead q.cx pa 16)
  if a.key = 1 ∧ b.valid ∧ !phaseComplete b.phase a.val ∧ (s.bed (homeBed pa)).watch.length < 64 then
    s.modBed (homeBed pa) fun x =>
      { x with watch := x.watch ++ [{ addr := pa, phase := a.val % 2 ^ 16, pan := q.pan, slot := q.slot, gk := q.gk }] }
  else s

/-- A barrier request is accepted (R103, R249, R250). An operation other than a test answers nothing; a test answers whether
its phase is complete, and a TBWAIT that finds it incomplete registers a watch where the table has room (R104). -/
def State.acceptBarrier (s : State) (q : Req) (op : TbOp) : State :=
  match q.accs with
  | [] => s.take q
  | a :: _ =>
    let pa := q.line + a.off
    let s0 := s.closeConflict q.line
    match s0.touch q.id q.gk.part q.codec q.line q.cx q.hint true true with
    | none => s
    | some (x, false) => s.orWait x
    | some (x, true) =>
      let s2 := x.take q
      let note : Note := { scope := q.scope, pan := q.pan, team := q.team, slot := q.slot }
      if op = .test then
        if s2.badLine q.line then s2.respond (q.answer true q.blanks none (some q.line))
        else
          let b := barrierOf (s2.viewRead q.cx pa 16)
          let done := b.valid && phaseComplete b.phase a.val
          let (s2a, fail) := if done then s2.scopeCheck { q with ord := 1 } else (s2, none)
          let (s2b, _) := s2a.takeTag (homeBed q.line) q.gk.part
          let (s3, _) := (s2b.watchFor q pa a).barrierOp q.gk.part q.codec pa q.cx .test (some note)
          if !done then s3.respond (q.answer true q.blanks none none)
          else match fail with
            | some va => s3.respond (q.answer true q.blanks (some va) none)
            | none =>
              (s3.acquireDrop { q with ord := 1 }).respond (q.answer true (q.blanks.map fun v => { v with val := 1 }) none none)
      else if s2.badLine q.line then
        match s2.findGroup q.gk with
        | some (p, k, g, tm) => (s2.putGroup p k g.exitAll).dataFault tm q.line q.addr q.pos
        | none => s2
      else
        let (s3, _) := s2.takeTag (homeBed q.line) q.gk.part
        ((s3.barrierOp q.gk.part q.codec pa q.cx op (some note)).1).l1Refresh q false

/-! ## Writes and reads of engines, the front end and remote devices -/

/-- A write by an engine, the front end or a remote device is accepted at its home bed (R94, R89, R90). -/
def State.unitWrite (s : State) (part codec pa : Nat) (cx : Bool) (hint : Nat) (bs : List Byte) : State :=
  let line := lineOf pa
  (((s.closeConflict line).unitTouch 0 part codec line cx hint false true).takeTag (homeBed line) part).1.bedStore part codec pa cx bs hint

/-- What a unit's read of a line comes to: its bytes; an uncorrectable line; or a block whose fill fails, with the cause (R74, R389). -/
inductive Got where
  | bytes (bs : List Byte)
  | bad
  | block (cause : Nat)

/-- A read of bytes within a line by an engine, the front end, a walker or a remote device at its home bed (R86, R89). A coded block that
is not there is filled, after any fill or write-back of it that is under way (R73). -/
def State.unitRead (s : State) (part codec pa : Nat) (cx : Bool) (hint n : Nat) : State × Got :=
  let line := lineOf pa
  let fault : Option Nat :=
    if cx && !s.lineHeld part line && !s.filling part (blockOf line) && !s.backing (blockOf line) then
      match s.portRead part codec (blockOf line) with
      | .error c => some c
      | .ok _ => none
    else none
  match fault with
  | some c => (s, .block c)
  | none =>
    let s1 := s.unitTouch 0 part codec line cx hint true false
    if s1.badLine pa then (s1, .bad) else (s1, .bytes (s1.viewRead cx pa n))

/-- Bytes written line by line (R109: an engine's access is a set of smaller ones). -/
def State.unitWrites (s : State) (part codec pa : Nat) (cx : Bool) (hint : Nat) (bs : List Byte) (fuel : Nat) : State :=
  match fuel with
  | 0 => s
  | fuel + 1 =>
    if bs.isEmpty then s
    else
      let n := 128 - pa % 128
      (s.unitWrite part codec pa cx hint (bs.take n)).unitWrites part codec (pa + n) cx hint (bs.drop n) fuel

end Sys2Proof.Machine
end

