-- ==== Sys2Proof/Machine/Memory.lean ====
section
/-! DEFINITION. Rows 0x70 to 0x83: loads, stores, atomics, cache control and fences (R119, R133, R229 to R240). -/

namespace Sys2Proof.Machine

/-! ## Operands, R230 to R232 -/

/-- A value of an active lane. -/
def Ctx.at (c : Ctx) (f : Group → Thread → Nat) (l : Nat) : Nat := match c.g.thread l with
  | some t => f c.g t
  | none => 0

/-- Bytes of an access under SZ (R232). -/
def szBytes (sz : Nat) : Nat := if sz < 2 then 1 else if sz < 4 then 2 else if sz = 4 then 4 else if sz = 5 then 8 else 16

/-- The extension of a load under SZ (R232). -/
def szExt (sz : Nat) : Ext := if sz = 1 then .sext8 else if sz = 3 then .sext16 else .zero

/-- Registers of a value of `n` bytes. -/
def bytesRegs (n : Nat) : Nat := if n = 16 then 4 else if n = 8 then 2 else 1

/-- A global address with its offset (R232). -/
def globalAddr (x : Std) (g : Group) (t : Thread) : Nat :=
  wrap (srcNat g t 2 x.a + sval (srcNat g t 1 x.b) 32) 64

/-- A global address in A alone (R232). -/
def plainAddr (x : Std) (g : Group) (t : Thread) : Nat := srcNat g t 2 x.a

/-- A scratchpad offset with its addend (R232). -/
def scratchAddr (x : Std) (g : Group) (t : Thread) : Nat := wrap (srcNat g t 1 x.a + sval (srcNat g t 1 x.b) 32) 32

/-- A scratchpad offset in A alone (R232). -/
def plainScratch (x : Std) (g : Group) (t : Thread) : Nat := srcNat g t 1 x.a

/-- The SZ field of a load or store (R232). -/
def szOf (x : Std) : Nat := x.fn.toNat / 8

/-- An instruction whose effect follows the steps of R40. -/
def execFront (opc : Nat) (x : Std) (s : State) (f : State → Ctx → State) : Host.Outcome State Fault Refusal :=
  match front opc x s with
  | .over_ s' => .next s'
  | .go s' c => .next (f s' c)

/-! ## Global accesses -/

/-- LD (R233). -/
def execLd (x : Std) (s : State) : Host.Outcome State Fault Refusal :=
  execFront 0x70 x s fun s c =>
    let n := szBytes (szOf x)
    c.global s { need := .r, bytes := n, op := .load, ctr := some .ld, dst := x.d, regs := bytesRegs n, ext := szExt (szOf x),
                 ctl := x.ctl.toNat } (c.at (globalAddr x)) fun _ => (0, 0, 0)

/-- ST (R233, R234). -/
def execSt (x : Std) (s : State) : Host.Outcome State Fault Refusal :=
  execFront 0x71 x s fun s c =>
    let n := szBytes (szOf x)
    c.global s { need := .w, bytes := n, op := .store, ctr := some .st, dst := x.d, tag := x.d != .none, ctl := x.ctl.toNat,
                 store := true } (c.at (plainAddr x)) fun l => (c.at (fun g t => srcNat g t (bytesRegs n) x.b) l, 0, 0)

/-- LDK: one access, at the address of the lowest active thread, whose value every active thread takes (R233). -/
def execLdk (x : Std) (s : State) : Host.Outcome State Fault Refusal :=
  execFront 0x74 x s fun s c =>
    let n := szBytes (szOf x)
    let va := c.at (globalAddr x) (c.lanes.headD 0)
    c.global s { need := .r, bytes := n, op := .load, ctr := some .ld, dst := x.d, regs := bytesRegs n, ext := szExt (szOf x),
                 ctl := x.ctl.toNat, one := true } (fun _ => va) fun _ => (0, 0, 0)

/-- ATOM (R236). -/
def execAtom (x : Std) (s : State) : Host.Outcome State Fault Refusal :=
  execFront 0x79 x s fun s c =>
    let op := x.fn.toNat % 32
    let nr := x.fn.toNat / 32 == 1
    let n := atopBytes op
    c.global s { need := .rw, bytes := n, align := n, op := .atom op (!nr), ctr := some (if nr then .st else .ld), dst := x.d,
                 regs := bytesRegs n, ctl := x.ctl.toNat } (c.at (plainAddr x))
      fun l => (c.at (fun g t => srcNat g t (bytesRegs n) x.b) l, 0, 0)

/-- RED, with EADD an exact add (R236, R238). -/
def execRed (x : Std) (s : State) : Host.Outcome State Fault Refusal :=
  execFront 0x7B x s fun s c =>
    let op := x.fn.toNat % 32
    let ead := decide (0x1C ≤ op)
    let n := if ead then 128 else atopBytes op
    c.global s { need := .w, bytes := n, align := n, op := if ead then .eadd (op == 0x1D) else .atom op false,
                 ctr := some .st, dst := x.d, tag := x.d != .none, ctl := x.ctl.toNat } (c.at (plainAddr x))
      fun l => (c.at (fun g t => srcNat g t (if atop64 op then 2 else 1) x.b) l, 0, 0)

/-- ATOMX: an ordered update with the key read from D (R230, R237). -/
def execAtomx (x : Std) (s : State) : Host.Outcome State Fault Refusal :=
  execFront 0x7D x s fun s c =>
    let op := x.fn.toNat % 32
    let n := atopBytes op
    c.global s { need := .rw, bytes := n, align := n, op := .ordered op, ctr := some .st, ctl := x.ctl.toNat }
      (c.at (plainAddr x))
      fun l => (c.at (fun g t => srcNat g t (bytesRegs n) x.b) l, 0, c.at (fun g t => dstNat g t 1 x.d) l)

/-- CAS: compare value in the low half of B, new value in the high half (R236). -/
def execCas (x : Std) (s : State) : Host.Outcome State Fault Refusal :=
  execFront 0x80 x s fun s c =>
    let n := if x.fn = 1 then 8 else 4
    let b := c.at fun g t => srcNat g t (2 * bytesRegs n) x.b
    c.global s { need := .rw, bytes := n, align := n, op := .cas, ctr := some .ld, dst := x.d, regs := bytesRegs n,
                 ctl := x.ctl.toNat } (c.at (plainAddr x))
      fun l => (b l / 2 ^ (8 * n), b l % 2 ^ (8 * n), 0)

/-- ECRD (R99, R238). -/
def execEcrd (x : Std) (s : State) : Host.Outcome State Fault Refusal :=
  execFront 0x82 x s fun s c =>
    c.global s { need := .rw, bytes := 128, align := 128, op := .ecrd (x.fn.toNat / 32 == 1) (x.fn.toNat / 4 % 8),
                 ctr := some .ld, dst := x.d, ctl := x.ctl.toNat } (c.at (plainAddr x)) fun _ => (0, 0, 0)

/-- ECCLR (R97, R238). -/
def execEcclr (x : Std) (s : State) : Host.Outcome State Fault Refusal :=
  execFront 0x83 x s fun s c =>
    c.global s { need := .rw, bytes := 128, align := 128, op := .ecclr, ctr := some .st, ctl := x.ctl.toNat }
      (c.at (plainAddr x)) fun _ => (0, 0, 0)

/-! ## Scratchpad accesses, R111, R112, R139 -/

/-- An earlier global access of one of these threads is under way: a request that no bed has accepted, or an ordered update
that no window has applied. -/
def State.busy (s : State) (gk : GKey) (ls : List Nat) : Bool :=
  (s.fabric.any fun q => q.gk == gk && q.accs.any fun a => ls.contains a.lane) || s.heldFor gk ls

/-- What a scratchpad instruction asks for: bytes per lane, alignment demanded, whether it writes, whether it reads, counter, destination
and its control byte. -/
structure ScratchAsk where
  bytes : Nat
  align : Nat := 1
  writes : Bool
  reads : Bool := true
  ctr : Ctr
  dst : Dst := .none
  regs : Nat := 1
  ext : Ext := .zero
  ctl : Nat

/-- The scratchpad-bound fault (R139, R232): fatal to the slot, with a KIND 3 record. -/
def State.scratchFault (s : State) (tm : Team) (addr pos : Nat) : State :=
  s.fatal tm.part tm.slot fun st =>
    st.logError (errRecord 3 Config.noUnit.toNat 0 tm.part (asid tm.part tm.slot) 0 0 addr pos)

/-- A scratchpad access that faults: the slot is torn down, and the active threads exit at the instruction, which has no effect (R139,
R375). -/
def Ctx.boundFault (c : Ctx) (s : State) (n : Nat) : State := c.exitAt (s.scratchFault c.tm c.run.addr c.run.pos) n c.lanes

/-- `n` bytes at an offset lie in the team's allocation (R139). -/
def Team.holds (t : Team) (off n : Nat) : Bool := decide (off + n ≤ t.size)

/-- The lanes' accesses to the scratchpad, in ascending lane order (R112): the bytes after them and the values returned. Those whose
bytes are uncorrectable by `bad` are not performed (R240). -/
def scratchLanes (m : Memory) (base n : Nat) (writes : Bool) (ls : List (Nat × Nat)) (bad : Nat → Bool) (f : Nat → Nat → Nat × Nat) :
    Memory × List LaneVal :=
  match ls with
  | [] => (m, [])
  | (l, off) :: r =>
    if bad off then
      let (m2, vs) := scratchLanes m base n writes r bad f
      (m2, { lane := l, val := 0 } :: vs)
    else
      let (new, out) := f l (mnat m (base + off) n)
      let m1 := if writes then mwrite m (base + off) (bytesOf new n) else m
      let (m2, vs) := scratchLanes m1 base n writes r bad f
      (m2, { lane := l, val := out } :: vs)

/-- A scratchpad instruction (R111, R112, R115, R139, R233, R236): a release, also one by a release fence, waits for every
earlier access of its threads; an acquire wider than the L1's sharing drops its lines; the accesses take place, and the
values or the completion come back later, or word of an uncorrectable datum (R240, R389). `f` gives the new bytes and the value returned
from a lane and its old bytes. -/
def Ctx.scratch (c : Ctx) (s : State) (a : ScratchAsk) (addr : Nat → Nat) (f : Nat → Nat → Nat × Nat) : State :=
  let ord := bitsOf a.ctl 2 2
  let rel := c.lanes.filter fun l => releases ord || (a.writes && (c.g.fenceScope [l]).isSome)
  let offs := c.lanes.map fun l => (l, addr l)
  if c.counterFull a.ctr then c.stall s
  else if offs.any fun e => e.2 % a.align != 0 || !c.tm.holds e.2 a.bytes then c.boundFault s 2
  else if s.busy c.gk rel then c.stall s
  else
    let bad (off : Nat) : Bool := a.reads && ((s.pan c.pan).spoiltIn (c.tm.base + off) a.bytes).isSome
    let (m, vals) := scratchLanes (s.pan c.pan).core.scratch c.tm.base a.bytes a.writes offs bad f
    let id := s.nextId
    let s1 := { s with nextId := id + 1 }.modCore c.pan fun p => { p with scratch := m }
    let scope := Nat.max 1 (bitsOf a.ctl 4 2)
    let s2 := if acquires ord then s1.acquireAt c.pan (quarterOf c.slot) scope else s1
    let g := c.record id (some a.ctr) a.dst a.regs a.ext (c.lanes.map fun l => (l, {})) false none
    let s3 := s2.respond { gk := c.gk, pan := c.pan, issue := id, load := a.ctr == .ld, vals := vals,
                           bad := if offs.any fun e => bad e.2 then some 0 else none, rc := (s.pan c.pan).rc + 1 }
    c.finish s3 g 2 []

/-- LDS (R233). -/
def execLds (x : Std) (s : State) : Host.Outcome State Fault Refusal :=
  execFront 0x72 x s fun s c =>
    let n := szBytes (szOf x)
    c.scratch s { bytes := n, writes := false, ctr := .ld, dst := x.d, regs := bytesRegs n, ext := szExt (szOf x),
                  ctl := x.ctl.toNat } (c.at (scratchAddr x)) fun _ old => (old, old)

/-- STS (R233). -/
def execSts (x : Std) (s : State) : Host.Outcome State Fault Refusal :=
  execFront 0x73 x s fun s c =>
    let n := szBytes (szOf x)
    c.scratch s { bytes := n, writes := true, reads := false, ctr := .st, ctl := x.ctl.toNat } (c.at (plainScratch x))
      fun l _ => (c.at (fun g t => srcNat g t (bytesRegs n) x.b) l, 0)

/-- ATOMS (R236). -/
def execAtoms (x : Std) (s : State) : Host.Outcome State Fault Refusal :=
  execFront 0x7A x s fun s c =>
    let op := x.fn.toNat % 32
    let nr := x.fn.toNat / 32 == 1
    let n := atopBytes op
    c.scratch s { bytes := n, align := n, writes := true, ctr := if nr then .st else .ld, dst := x.d, regs := bytesRegs n,
                  ctl := x.ctl.toNat } (c.at (plainScratch x))
      fun l old => (atopVal op old (c.at (fun g t => srcNat g t (bytesRegs n) x.b) l), old)

/-- REDS (R236). -/
def execReds (x : Std) (s : State) : Host.Outcome State Fault Refusal :=
  execFront 0x7C x s fun s c =>
    let op := x.fn.toNat % 32
    let n := atopBytes op
    c.scratch s { bytes := n, align := n, writes := true, ctr := .st, ctl := x.ctl.toNat } (c.at (plainScratch x))
      fun l old => (atopVal op old (c.at (fun g t => srcNat g t (bytesRegs n) x.b) l), 0)

/-- CASS (R236). -/
def execCass (x : Std) (s : State) : Host.Outcome State Fault Refusal :=
  execFront 0x81 x s fun s c =>
    let n := if x.fn = 1 then 8 else 4
    let b := c.at fun g t => srcNat g t (2 * bytesRegs n) x.b
    c.scratch s { bytes := n, align := n, writes := true, ctr := .ld, dst := x.d, regs := bytesRegs n, ctl := x.ctl.toNat }
      (c.at (plainScratch x))
      fun l old => (if old = b l % 2 ^ (8 * n) then b l / 2 ^ (8 * n) else old, old)

/-! ## Prefetch and cache control, R239 -/

/-- The leaf of an address without any check; none where a translation would fault (R54, R239). -/
def State.peek (s : State) (pan part slot va : Nat) : Option Nat :=
  if !addressOk s part slot va then none
  else match tlbFind (s.pan pan).l2tlb (asid part slot) va with
    | some e => some e
    | none => match walk s part slot va with
      | .leaf e _ => some e
      | _ => none

/-- The lines that the active threads' addresses name, outside the endpoint windows, with their leaves. -/
def Ctx.peekLines (c : Ctx) (s : State) (addr : Nat → Nat) : List (Nat × Nat) :=
  c.lanes.filterMap fun l => match s.peek c.pan c.tm.part c.tm.slot (addr l) with
    | some e => if isEndpoint (leafPa e (addr l)) then none else some (lineOf (leafPa e (addr l)), e)
    | none => none

/-- PREF of one line leaves for its home bed (R239). -/
def Ctx.prefLine (c : Ctx) (s : State) (hint : Nat) (l1 : Bool) (line e : Nat) : State :=
  { s with nextId := s.nextId + 1,
           prefs := s.prefs ++ [{ id := s.nextId, pan := c.pan, slot := c.slot, part := c.tm.part, codec := pteCodec e, line := line,
                                  cx := cxOf e, hint := hint, l1 := l1 }] }

/-- PREF (R239). -/
def execPref (x : Std) (s : State) : Host.Outcome State Fault Refusal :=
  execFront 0x75 x s fun s c =>
    let ret := x.ctl.toNat % 4
    let s1 := (c.peekLines s (c.at (globalAddr x))).dedup.foldl (fun st p =>
      c.prefLine st (if ret = 0 then pteRet p.2 else ret) (x.fn == 1) p.1 p.2) s
    c.finish s1 c.g (stdWords x) []

/-- A prefetch at its home bed (R239): it asks for its line, waits as a read does (R85, R86), and ends once the line is there; with `l1`
the thread's L1 takes a line that is no uncorrectable datum. -/
def State.acceptPref (s : State) (x : Pref) : State :=
  if (!x.sent && !s.budget x.pan 1) || s.shut x.line 0 then s
  else
    let s0 := if x.sent then s else s.charge x.pan 1
    let set (l : List Pref) : List Pref := l.filter fun y => y.id != x.id
    match s0.touch x.id x.part x.codec x.line x.cx x.hint true false with
    | none => s
    | some (s1, false) => { s1 with prefs := set s1.prefs ++ [{ x with sent := true }] }
    | some (s1, true) =>
      let s2 := { s1 with prefs := set s1.prefs }
      if x.l1 && !s2.badLine x.line then s2.l1Take x.pan x.slot x.part x.line x.cx true x.hint else s2

/-- CCTL op 0: one line dropped from every L1 that the thread's loads could hit (R239). -/
def execCctlL1line (x : Std) (s : State) : Host.Outcome State Fault Refusal :=
  execFront 0x76 x s fun s c =>
    let lines := (c.peekLines s (c.at (globalAddr x))).map (·.1)
    let s1 := s.modPan c.pan fun n =>
      { n with l1 := (n.l1Keys (quarterOf c.slot)).foldl (fun t k => tmod t k fun ls => ls.filter fun l => !lines.contains l.line) n.l1 }
    c.finish s1 c.g (stdWords x) []

/-- CCTL op 1: every such line and every decoded run of the issuing quarter dropped (R160, R239). -/
def execCctlL1all (x : Std) (s : State) : Host.Outcome State Fault Refusal :=
  execFront 0x76 x s fun s c =>
    let s1 := s.modPan c.pan fun n =>
      let n1 := n.l1Drop (quarterOf c.slot)
      { n1 with decoded := tdel n1.decoded (quarterOf c.slot) }
    c.finish s1 c.g (stdWords x) []

/-- A Saltern line set to streaming with AGE 3, unless it is pinned (R239). -/
def State.demote (s : State) (part line : Nat) (cx : Bool) : State :=
  s.modBed (homeBed line) fun x =>
    let ws := tgetD x.sets (setOf line) []
    match wayFind ws part line cx with
    | some (i, w) =>
      if w.st = .pinned then x else { x with sets := tput x.sets (setOf line) (tput ws i { w with ret := 1, age := 3 }) }
    | none => x

/-- CCTL op 2 (R239). -/
def execCctlDemote (x : Std) (s : State) : Host.Outcome State Fault Refusal :=
  execFront 0x76 x s fun s c =>
    let s1 := (c.peekLines s (c.at (globalAddr x))).foldl (fun st p => st.demote c.tm.part p.1 (cxOf p.2)) s
    c.finish s1 c.g (stdWords x) []

/-! ## Fences, R119, R120, R133, R239 -/

/-- An access of an active thread has not completed: a load or store issue still waits for it (R119). -/
def Ctx.pending (c : Ctx) : Bool :=
  c.g.issues.any fun i => (i.ctr == some .ld || i.ctr == some .st) &&
    i.lanes.any fun e => c.lanes.contains e.1 && e.2.left != 0

/-- Beds whose window holds an entry of the group. -/
def State.bedsHolding (s : State) (gk : GKey) : List Nat :=
  (s.beds.filter fun b => b.2.held.any fun e => e.gk == gk).map (·.1)

/-- Closes sent to these beds, each once (R94). -/
def State.sendCloses (s : State) (gk : GKey) (bs : List Nat) : State :=
  { s with closes := s.closes ++ (bs.filter fun b => !s.closes.any fun r => r.gk == gk && r.bed == b).map fun b =>
      ({ bed := b, part := gk.part, gk := gk } : CloseReq) }

/-- The wait of every FENCE (R119): some when it goes on, with the closes that it sends (R94). -/
def Ctx.fenceWait (c : Ctx) (s : State) : State × Bool :=
  if s.fabric.any (fun q => q.gk == c.gk && q.accs.any fun a => c.lanes.contains a.lane) then (s, false)
  else
    let bs := s.bedsHolding c.gk
    if !bs.isEmpty then (s.sendCloses c.gk bs, false) else (s, !c.pending)

/-- The first note that a FENCE.acq meets which fails its check, by lane and then in order of return (R119). -/
def Ctx.badNote (c : Ctx) (scope : Nat) : Option Nat :=
  c.lanes.findSome? fun l => match c.g.thread l with
    | some t => (t.seen.find? fun n => !noteOk n.2 scope c.pan c.g.team c.slot).map (·.1)
    | none => none

/-- FENCE (R119, R120). -/
def execFence (x : Std) (s : State) : Host.Outcome State Fault Refusal :=
  execFront 0x77 x s fun s c =>
    let ord := bitsOf x.ctl.toNat 2 2
    let scope := bitsOf x.ctl.toNat 4 2
    match c.fenceWait s with
    | (s1, false) => c.stall s1
    | (s1, true) =>
      match (if acquires ord then c.badNote scope else none) with
      | some va => c.trapAll s1 9 va c.run.pos
      | none =>
        let g := c.g.modThreads c.lanes fun _ t =>
          { t with relFence := if releases ord then some scope else none, seen := [] }
        let s2 := if ord = 0 then s1 else s1.acquireAt c.pan (quarterOf c.slot) scope
        c.finish s2 g (stdWords x) []

/-- PFENCE.pp: the group issues nothing more until its own journal record is durable (R133). -/
def execPfencePp (x : Std) (s : State) : Host.Outcome State Fault Refusal :=
  execFront 0x78 x s fun s c => c.finish s { c.g with pwait := (s.pan c.pan).rc + 1 } (stdWords x) []

/-- Lines of the brine window with codec-2 expanded bytes that are dirty: their partition, codec and address (R82, R133). -/
def State.dirtyBrineBlocks (s : State) : List (Nat × Nat × Nat) :=
  s.beds.flatMap fun b => b.2.sets.flatMap fun ws => ws.2.filterMap fun w =>
    if w.2.cx && isBrine w.2.line && (w.2.st == .dirty || w.2.st == .pinned) then some (w.2.part, w.2.codec, w.2.line) else none

/-- Beds to which a persist request matters: those with a brine-window line on its way out. Every other bed answers at
once (R133). -/
def State.brineBeds (s : State) : List Nat :=
  ((s.beds.filter fun b => b.2.merge.any fun e => isBrine e.line).map (·.1) ++
   s.brineWrites.map (fun w => homeBed w.line) ++
   s.blockOuts.flatMap (fun o => if isBrine o.pa then (List.range 32).map fun k => homeBed (o.pa + 128 * k) else []) ++
   s.overflow.flatMap (fun o => if isBrine o.pa then (List.range 32).map fun k => homeBed (o.pa + 128 * k) else [])).dedup

/-- Persist requests sent to the beds; the codec-2 brine blocks with dirty lines are to leave, which a
full port takes once an entry frees (R81, R133). -/
def State.sendPersists (s : State) (gk : GKey) : State :=
  let s1 := s.dirtyBrineBlocks.foldl (fun st w => st.startBlockOut 0 w.1 w.2.1 (blockOf w.2.2) []) s
  { s1 with persists := s1.persists ++ s1.brineBeds.map fun b => ({ bed := b, gk := gk, upto := s1.nextId } : PersistReq) }

/-- PFENCE.dp: the wait of a FENCE.rel at .dev, then a persist request to every bed, and the journal as PFENCE.pp (R133). -/
def execPfenceDp (x : Std) (s : State) : Host.Outcome State Fault Refusal :=
  execFront 0x78 x s fun s c =>
    if c.g.flush then
      if s.persists.any fun p => p.gk == c.gk then c.stall s
      else c.finish s { c.g with flush := false, pwait := (s.pan c.pan).rc + 1 } (stdWords x) []
    else match c.fenceWait s with
      | (s1, false) => c.stall s1
      | (s1, true) => (s1.sendPersists c.gk).setGroup c.pan c.slot { c.g with flush := true }

/-- DFLUSH (R122, R239): every earlier ATOMX of the active threads has reached its bed; then every window of the partition
is told to close, and the instruction retires when every bed has answered. -/
def execDflush (x : Std) (s : State) : Host.Outcome State Fault Refusal :=
  execFront 0x7E x s fun s c =>
    if c.g.flush then
      if s.closes.any fun r => r.gk == c.gk then c.stall s
      else c.finish s { c.g with flush := false } (stdWords x) []
    else if s.fabric.any (fun q => q.gk == c.gk && (match q.op with
        | .ordered _ => true
        | _ => false) && q.accs.any fun a => c.lanes.contains a.lane) then c.stall s
    else
      let bs := (s.beds.filter fun b => !b.2.held.isEmpty && b.2.winPart == c.tm.part).map (·.1)
      (s.sendCloses c.gk bs).setGroup c.pan c.slot { c.g with flush := true }

end Sys2Proof.Machine
end

