-- ==== Sys2Proof/Machine/Ports.lean ====
section
/-! DEFINITION. Transform ports: coded blocks, fills, write-backs, overflow entries, record rings and the dictionary code
of the side ports (R64, R65 to R83). -/

namespace Sys2Proof.Machine

/-! ## Fills, R73, R74, R79 -/

/-- The hint with which a fill allocates a line: that of an access which asked for it and is no bypass, and else default (DESIGN CHOICE for
the lines that no access asked for: log 102); none where only bypass accesses asked for it (R86, R87). -/
def fillHint (asks : List (Nat × Nat × Nat)) (line : Nat) : Option (Nat × Option Nat) :=
  let mine := asks.filter fun a => a.1 == line
  match mine.find? fun a => a.2.1 != 3 with
  | some a => some (a.2.1, some a.2.2)
  | none => if mine.isEmpty then some (0, none) else none

/-- One expanded line of a verified block installed in its home bed (R73): a line already there keeps its contents, and bytes that the
write-merge buffer holds stand over the fill's (R90). An asked line that finds no way must wait (R86). -/
def State.installLine (s : State) (part codec : Nat) (asks : List (Nat × Nat × Nat)) (line : Nat) (bs : List Byte) : State :=
  let b := s.bed (homeBed line)
  if s.lineHeld part line || s.wayMask (homeBed line) part == 0 then s
  else match fillHint asks line with
    | none => s
    | some (hint, who) =>
      let st := if (b.mergeOf line true).isSome then .dirty else .clean
      match s.allocate { line := line, cx := true, st := st, part := part, codec := codec, opens := who } hint with
      | some (s1, _) => s1.fillUnder line bs
      | none => if who.isSome then s.want .room else s

/-- The expanded lines of a block installed in their home beds (R73). -/
def State.installBlock (s : State) (part codec pa : Nat) (asks : List (Nat × Nat × Nat)) (bytes : List Byte) : State :=
  (blockLines pa).foldl (fun st line => st.installLine part codec asks line ((bytes.drop (line - pa)).take 128)) s

/-- A block filled and verified at its port (R73): installed, or the cause of its block fault. -/
def State.fillBlock (s : State) (part codec pa : Nat) (asks : List (Nat × Nat × Nat)) : State × Option Nat :=
  match s.portRead part codec pa with
  | .ok bytes => (s.installBlock part codec pa asks bytes, none)
  | .error cause => (s, some cause)

/-- The outcome of a fill reaches a group that waits for it (R75). -/
def State.tellBlock (s : State) (pa : Nat) (cause : Option Nat) (gk : GKey) : State :=
  match s.findGroup gk with
  | some (p, k, g, _) => s.setGroup p k { g with blocks := g.blocks ++ [(pa, cause)] }
  | none => s

/-- The oldest fill of a port that may go on: none of its block is under write-back (R73). -/
def State.nextFill (s : State) (kind port : Nat) : Option BlockFill :=
  s.blockFills.find? fun f => portOf f.pa == (kind, port) && !s.backing f.pa

/-- The number of a port kind in R76. -/
def kindCode : PortKind → Nat
  | .asset => 0
  | .brine => 1
  | .side => 2

/-- PORT_FILL_COMPLETE (R73). A prefetch of a block whose fill fails does nothing (R239). -/
def execPortFillComplete (kind : PortKind) (port : Nat) (s : State) : Host.Outcome State Fault Refusal :=
  match s.nextFill (kindCode kind) port with
  | none => .next s
  | some f =>
    let (s1, cause) := s.fillBlock f.part f.codec f.pa f.asks
    let s2 := { s1 with
      blockFills := s1.blockFills.filter fun g => !(g.pa == f.pa && g.part == f.part)
      prefs := if cause.isSome then s1.prefs.filter fun x => !(x.cx && blockOf x.line == f.pa && x.part == f.part) else s1.prefs }
    .next (s.orWait (f.waiters.foldl (fun st gk => st.tellBlock f.pa cause gk) s2))

/-! ## Write-backs, R78 to R82 -/

/-- A line of the expanded view. -/
def State.xline (s : State) (line : Nat) : List Byte := mread s.xmem line 128

/-- Dirty expanded lines of a block that stand whole: those held dirty in a way, and those that left their ways. -/
def State.dirtyLines (s : State) (part pa : Nat) (left : List Nat) : List Nat :=
  (blockLines pa).filter fun line =>
    let b := s.bed (homeBed line)
    left.contains line ||
    (match wayFind (tgetD b.sets (setOf line) []) part line true with
     | some (_, w) => w.st == .dirty || w.st == .pinned
     | none => false)

/-- The lines of a snapshot are clean (R78). -/
def State.cleanLines (s : State) (part : Nat) (lines : List Nat) : State :=
  lines.foldl (fun st line => st.modBed (homeBed line) fun b =>
    let ws := tgetD b.sets (setOf line) []
    let b1 := { b with merge := b.merge.filter fun e => !(e.line == line && e.cx) }
    match wayFind ws part line true with
    | some (i, w) => { b1 with sets := tput b1.sets (setOf line) (tput ws i { w with st := .clean }) }
    | none => b1) s

/-- A block's bytes with the snapshot of its dirty lines merged over them: whole lines, and the bytes that the write-merge buffer holds of
a line that no way holds (R78, R90). -/
def State.mergedBlock (s : State) (pa : Nat) (whole : List Nat) (bytes : List Byte) : List Byte :=
  (blockLines pa).flatMap fun line =>
    let old := (bytes.drop (line - pa)).take 128
    let mask : BitVec 128 :=
      if whole.contains line then BitVec.allOnes 128
      else (((s.bed (homeBed line)).mergeOf line true).map (·.mask)).getD 0
    let new := s.xline line
    (List.range 128).map fun k => if mask.getLsbD k then new.getD k 0 else old.getD k 0

/-- A block's coded form written to its slot (R78): the stored bytes, and in the brine window the durable ones, whole, after which no
earlier write of those lines is under way (R82). -/
def State.writeSlot (s : State) (pa : Nat) (coded : List Byte) : State :=
  let hit (line : Nat) : Bool := decide (pa ≤ line) && decide (line < pa + coded.length)
  { s with
    mem := mwrite s.mem pa coded
    durable := if isBrine pa then mwrite s.durable pa coded else s.durable
    brineWrites := s.brineWrites.map fun (w : BrineWrite) =>
      if hit w.line then { w with bytes := mread (mwrite s.mem pa coded) w.line 128 } else w }

/-- A free overflow entry of a port (R79): the least (DESIGN CHOICE: log 99). -/
def State.freeEntry (s : State) (kind port : Nat) : Option Nat :=
  (List.range 32).find? fun k => !s.overflow.any fun o => o.kind == kind && o.port == port && o.entry == k

/-- A block that has grown takes an overflow entry and posts a growth record; with the 32nd entry the port posts that it is
full, with the slot address of the block that took that entry (R79, R81; DESIGN CHOICE: log 101). -/
def State.growBlock (s : State) (id part codec pa clen : Nat) (bytes : List Byte) : State :=
  let (kind, port) := portOf pa
  match s.freeEntry kind port with
  | none => s
  | some k =>
    let o : Overflow :=
      { id := id, kind := kind, port := port, entry := k, pa := pa, part := part, codec := codec, bytes := bytes }
    let s1 : State := { s with overflow := s.overflow ++ [o] }
    let s2 := s1.postXpr part (portRecord 0 0 kind port 0 k clen pa 0 0 0)
    if s1.portFull pa then s2.postXpr part (portRecord 2 0 kind port 0 0 0 pa 0 0 0) else s2

/-- CODED_WRITEBACK (R78, R79, R81): snapshot, fill, merge, recompress, and the slot written or an overflow entry taken. Its fill installs
the lines that the Saltern does not hold and that are not leaving it (R73). A block whose slot does not verify, or whose port is full,
stays on its way. -/
def execCodedWriteback (part pa : Nat) (s : State) : Host.Outcome State Fault Refusal :=
  match s.blockOuts.find? fun o => o.pa == pa && o.part == part with
  | none => .next s
  | some o =>
    let lines := s.dirtyLines part pa o.lines
    match s.portRead part o.codec pa with
    | .error _ => .next s
    | .ok bytes =>
      let merged := s.mergedBlock pa lines bytes
      let s0 := ((blockLines pa).filter fun l => !o.lines.contains l).foldl (fun (st : State) l =>
        st.installLine part o.codec [] l ((merged.drop (l - pa)).take 128)) s
      let s1 := { s0.cleanLines part (blockLines pa) with blockOuts := s0.blockOuts.filter fun x => x.pa != pa }
      if s.portFull pa then .next s
      else if s.overflow.any fun e => e.pa == pa then
        .next { s1 with overflow := s1.overflow.map fun (e : Overflow) =>
          if e.pa = pa then { e with bytes := merged, moved := false, id := if e.moved then o.id else e.id } else e }
      else
        let coded := compressBlock (s.part part).codeTables o.codec (bitsOf (mget s.mem (pa + 2)).toNat 0 4)
          (bitsOf (mget s.mem (pa + 3)).toNat 4 4) merged
        if coded.length ≤ 4096 then .next (s1.writeSlot pa coded)
        else .next (s1.growBlock o.id part o.codec pa coded.length merged)

/-- XPR_TBL_WRITE: bytes written to a coding table's window (R71). -/
def execXprTblWrite (part k off : Nat) (bytes : List Byte) (s : State) : Host.Outcome State Fault Refusal :=
  if k < 16 ∧ off + bytes.length ≤ 512 then
    .next (s.modPart part fun p => { p with codeTables := mwrite p.codeTables (512 * k + off) bytes })
  else .next s

/-! ## Waking the groups that wait, R64, R77 -/

/-- A group that leaves FAULTW stands where it stood: in its run, or at the run boundary with its choice (R60, R373). -/
def Group.unfault (g : Group) (now : Nat) : Group :=
  { g with st := if g.run.isSome then .run else g.restState, walks := [], blocks := [], blockWait := false, readySince := now }

/-- A group of the pan belongs to a team of an address-space slot. -/
def PanCore.inSlot (c : PanCore) (g : Group) (part slot : Nat) : Bool :=
  match tget c.teams g.team with
  | some tm => tm.part == part && tm.slot == slot
  | none => false

/-- The groups of a slot that wait on a fault of one sort leave FAULTW, but for those whose records wait on a full ring, its slices that wait so start their pre-pass again, and its
rake commands go on (R64, R77, R146, R284, R288). -/
def State.wakeFaults (s : State) (part slot : Nat) (block : Bool) : State :=
  let now := s.clock.cycles
  let head := (if block then (s.part part).xpr else (s.part part).xfr).head
  { s with pans := tmap s.pans fun _ n =>
    let gs := tmap n.core.groups fun _ g =>
      if g.st == .faultw && g.blockWait == block && n.core.inSlot g part slot && decide (g.posted ≤ head) then g.unfault now
      else g
    let ss := tmap n.core.sluices fun _ (r : SliceRun) =>
      let waits := match r.st with
        | .page => !block
        | .block _ => block
        | _ => false
      if r.slice.part == part && r.slice.asSlot == slot && waits then { r with st := .fresh } else r
    let rs := n.core.rqueue.map fun (c : RkCmd) =>
      if c.part == part && c.asSlot == slot && c.wait == 1 && block then { c with wait := 0 } else c
    let xs := n.core.gfx.map fun (c : GfxCmd) =>
      if c.part == part && c.asSlot == slot && c.wait == 1 && block then { c with wait := 0 } else c
    { n with core := { n.core with groups := gs, sluices := ss, rqueue := rs, gfx := xs } } }

/-- What the front end holds for a slot's translation goes on (R347, R350). -/
def State.wakeFront (s : State) (part slot : Nat) : State :=
  { s with
    pool := s.pool.map fun (e : PoolEntry) => if e.part = part ∧ e.wait = some slot then { e with wait := none } else e
    recs := s.recs.map fun (r : RecReq) => if r.gk.part = part ∧ r.wait = some slot then { r with wait := none } else r
    queues := tmap s.queues fun _ (q : Queue) => if q.part = part ∧ q.stuck = some slot then { q with stuck := none } else q }

/-- XFR_RETRY (R64, R347, R350). -/
def execXfrRetry (part slot : Nat) (s : State) : Host.Outcome State Fault Refusal :=
  .next ((s.wakeFaults part slot false).wakeFront part slot)

/-- XPR_RETRY without FAIL (R77). -/
def execXprRetry (part slot : Nat) (s : State) : Host.Outcome State Fault Refusal := .next (s.wakeFaults part slot true)

/-- Some group of a slot waits on a block fault. -/
def State.blockWaiter (s : State) (part slot : Nat) : Bool :=
  s.pans.any fun e => e.2.core.groups.any fun g => g.2.st == .faultw && g.2.blockWait &&
    e.2.core.inSlot g.2 part slot

/-! ## Record rings, R64, R77 -/

/-- The oldest record that waits is written, where the ring has room. -/
def State.postRing (s : State) (part : Nat) (r : RecRing) : State × RecRing :=
  match r.wait with
  | rec :: rest =>
    if r.head - r.tail < 2 ^ r.log then
      (s.unitWrites part 0 (r.base + 32 * (r.head % 2 ^ r.log)) false 0 rec 2, { r with head := r.head + 1, wait := rest })
    else (s, r)
  | [] => (s, r)

/-- FAULT_RECORD_POST (R64). -/
def execFaultRecordPost (part : Nat) (s : State) : Host.Outcome State Fault Refusal :=
  let (s1, r) := s.postRing part (s.part part).xfr
  .next (s.orWait (s1.modPart part fun p => { p with xfr := r }))

/-- PORT_RECORD_POST (R77). -/
def execPortRecordPost (part : Nat) (s : State) : Host.Outcome State Fault Refusal :=
  let (s1, r) := s.postRing part (s.part part).xpr
  .next (s.orWait (s1.modPart part fun p => { p with xpr := r }))

/-! ## Overflow commands, R80 -/

/-- The overflow entry that a command names, of a partition. -/
def State.overflowAt (s : State) (part kind port entry : Nat) : Option Overflow :=
  s.overflow.find? fun o => o.part == part && o.kind == kind && o.port == port && o.entry == entry

/-- A command has been accepted and completed: ISSUED and DONE advance (R77). -/
def State.ovfDone (s : State) (part : Nat) : State :=
  s.modPart part fun p => { p with ovfDone := (p.ovfDone + 1) % 2 ^ 16 }

/-- A bed whose lines pinned for a port may leave again (R81). -/
def Bed.unpin (b : Bed) (kind port : Nat) : Bed :=
  let free (w : Way) : Way := if w.st == .pinned && portOf w.line == (kind, port) then { w with st := .dirty } else w
  { b with sets := tmap b.sets fun _ ws => tmap ws fun _ w => free w }

/-- An overflow entry is freed; lines pinned for its port may leave again (R81). -/
def State.freeOverflow (s : State) (o : Overflow) : State :=
  { s with
    overflow := s.overflow.filter fun e => !(e.kind == o.kind && e.port == o.port && e.entry == o.entry)
    beds := tmap s.beds fun _ b => b.unpin o.kind o.port }

/-- The writes of a moved block's 4 KiB count from when its block was written, so that a persist request which waits for the block waits
for them (R82, R133). -/
def State.backdate (s : State) (id pa : Nat) : State :=
  (blockLines pa).foldl (fun (st : State) line => st.modBed (homeBed line) fun b =>
    { b with merge := b.merge.map fun e => if e.line = line ∧ !e.cx then { e with id := Nat.min e.id id } else e }) s

/-- The state after a MOVE of an overflow entry (R80, R82). A target outside the partition's asset memory or brine window is ignored. -/
def State.overflowMoved (s : State) (part : Nat) (kind : PortKind) (port entry : Nat) : State :=
  match s.overflowAt part (kindCode kind) port entry with
  | none => s
  | some o =>
    let pa := (s.part part).ovfPa
    if ownsRange s part pa 4096 then
      let s1 := (s.unitWrites part 0 pa false 0 o.bytes 33).backdate o.id pa
      let s2 : State := { s1 with overflow := s1.overflow.map fun (e : Overflow) =>
        if e.part = o.part ∧ e.kind = o.kind ∧ e.port = o.port ∧ e.entry = o.entry then { e with moved := true } else e }
      s2.ovfDone part
    else s

/-- OVERFLOW_MOVE (R80, R82). It waits while a bed does not take its bytes (R86, R90). -/
def execOverflowMove (part : Nat) (kind : PortKind) (port entry : Nat) (s : State) : Host.Outcome State Fault Refusal :=
  .next (s.orWait (s.overflowMoved part kind port entry))

/-- OVERFLOW_RELEASE (R80). -/
def execOverflowRelease (part : Nat) (kind : PortKind) (port entry : Nat) (s : State) : Host.Outcome State Fault Refusal :=
  match s.overflowAt part (kindCode kind) port entry with
  | none => .next s
  | some o => .next ((s.freeOverflow o).ovfDone part)

/-- OVERFLOW_RETRY (R80). -/
def execOverflowRetry (part : Nat) (kind : PortKind) (port entry : Nat) (s : State) : Host.Outcome State Fault Refusal :=
  match s.overflowAt part (kindCode kind) port entry with
  | none => .next s
  | some o =>
    let coded := compressBlock (s.part part).codeTables o.codec (bitsOf (mget s.mem (o.pa + 2)).toNat 0 4)
      (bitsOf (mget s.mem (o.pa + 3)).toNat 4 4) o.bytes
    if coded.length ≤ 4096 then .next (((s.writeSlot o.pa coded).freeOverflow o).ovfDone part)
    else .next (s.ovfDone part)

/-! ## Front-end writes by physical address, R66 -/

/-- A fill or a write-back of the block is in progress, or its port's queue is full (R73). -/
def State.blockBusy (s : State) (pa : Nat) : Bool :=
  (s.blockFills.any fun f => f.pa == blockOf pa) || s.backing (blockOf pa) || s.queueFull pa

/-- Clean expanded lines of a block dropped (R66). -/
def State.dropClean (s : State) (pa : Nat) : State :=
  (blockLines (blockOf pa)).foldl (fun st line => st.modBed (homeBed line) fun b =>
    let ws := tgetD b.sets (setOf line) []
    { b with sets := tputD [] b.sets (setOf line) (ws.filter fun e => !(e.2.line == line && e.2.cx && e.2.st == .clean)) }) s

/-- A front-end write waits for the fills and write-backs in progress of its blocks (R66). -/
def State.frontBusy (s : State) (pa len : Nat) : Bool :=
  let hit (b : Nat) : Bool := decide (blockOf pa ≤ b) && decide (b < pa + len)
  (s.blockOuts.any fun o => hit o.pa && s.backing o.pa) || s.blockFills.any fun f => hit f.pa

/-- Clean expanded lines of the blocks that some bytes lie in dropped (R66). -/
def State.dropCleans (s : State) (pa len : Nat) : State :=
  (List.range ((pa % 4096 + len + 4095) / 4096)).foldl (fun (st : State) k => st.dropClean (pa + 4096 * k)) s

/-- A front-end write by physical address to stored bytes: it first drops the clean expanded lines of its blocks (R66). -/
def State.frontWrite (s : State) (part pa : Nat) (bs : List Byte) : State :=
  (s.dropCleans pa bs.length).unitWrites part 0 pa false 0 bs (bs.length / 128 + 2)

end Sys2Proof.Machine
end

