-- ==== Sys2Proof/Machine/Beds.lean ====
section
/-! DEFINITION. Events of the home beds and of the return path: acceptances, windows, watches, fills, evictions, persist
requests, way masks, responses (R34, R88 to R106, R131, R133). -/

namespace Sys2Proof.Machine

/-- An event that accepts a request of one of the given operations, where it may leave its pan and its bed takes it now (R89, R105,
R418). -/
def execAccept (id : Nat) (s : State) (f : State → Req → Option State) : Host.Outcome State Fault Refusal :=
  match s.request id with
  | some q =>
    let (s1, q1) := (s.depart q).part_ { q with sent := true }
    if !s.accepts q || (f s1 q1).isNone then .next s
    else if s.shut q.line q.issue then .next (s.depart q)
    else .next ((s.depart q).orWait ((f s1 q1).getD s1))
  | none => .next s

/-- BED_LOAD (R89): loads, exact-cell reads and prefetches. -/
def execBedLoad (id : Nat) (s : State) : Host.Outcome State Fault Refusal :=
  match s.prefs.find? fun x => x.id == id with
  | some x => .next (s.acceptPref x)
  | none => execAccept id s fun s q => if q.op.reads then some (s.acceptLoad q) else none

/-- BED_WRITE (R90): stores outside the endpoint windows, and ECCLR. -/
def execBedWrite (id : Nat) (s : State) : Host.Outcome State Fault Refusal :=
  execAccept id s fun s q => if (q.op == .store || q.op == .ecclr) && !isEndpoint q.line then some (s.acceptWrite q) else none

/-- BED_ATOMIC (R92). -/
def execBedAtomic (id : Nat) (s : State) : Host.Outcome State Fault Refusal :=
  execAccept id s fun s q => match q.op with
    | .atom _ _ | .cas => some (s.acceptAtomic q)
    | _ => none

/-- ORDERED_UPDATE_ARRIVAL (R93). -/
def execOrderedUpdateArrival (id : Nat) (s : State) : Host.Outcome State Fault Refusal :=
  execAccept id s fun s q => match q.op with
    | .ordered op => some (s.acceptOrdered q op)
    | _ => none

/-- EXACT_ADD (R98). -/
def execExactAdd (id : Nat) (s : State) : Host.Outcome State Fault Refusal :=
  execAccept id s fun s q => match q.op with
    | .eadd _ => some (s.acceptAtomic q)
    | _ => none

/-- TB_INIT_OPERATION (R103). -/
def execTbInitOperation (id : Nat) (s : State) : Host.Outcome State Fault Refusal :=
  execAccept id s fun s q => match q.op with
    | .tb (.init n) => some (s.acceptBarrier q (.init n))
    | _ => none

/-- TB_EXPECT_OPERATION (R103). -/
def execTbExpectOperation (id : Nat) (s : State) : Host.Outcome State Fault Refusal :=
  execAccept id s fun s q => match q.op with
    | .tb (.expect b) => some (s.acceptBarrier q (.expect b))
    | _ => none

/-- TB_ARRIVE_OPERATION (R103). -/
def execTbArriveOperation (id : Nat) (s : State) : Host.Outcome State Fault Refusal :=
  execAccept id s fun s q => match q.op with
    | .tb (.arrive k) => some (s.acceptBarrier q (.arrive k))
    | _ => none

/-- TB_DELIVER_OPERATION (R103). -/
def execTbDeliverOperation (id : Nat) (s : State) : Host.Outcome State Fault Refusal :=
  execAccept id s fun s q => match q.op with
    | .tb (.deliver n) => some (s.acceptBarrier q (.deliver n))
    | _ => none

/-- TB_TEST_OPERATION (R103, R104). -/
def execTbTestOperation (id : Nat) (s : State) : Host.Outcome State Fault Refusal :=
  execAccept id s fun s q => match q.op with
    | .tb .test => some (s.acceptBarrier q .test)
    | _ => none

/-- WINDOW_TIMER: a window open for 4 µs of station time closes and sets WTMR (R94). -/
def execWindowTimer (bed : Nat) (s : State) : Host.Outcome State Fault Refusal :=
  if (s.bed bed).held ≠ [] ∧ (s.bed bed).winOpen + 4000 ≤ s.clock.nanos then .next (s.orWait (s.closeWindow bed (some 1)))
  else .next s

/-- BED_CLOSE_REQUEST: a close ends the window of its partition at the bed, with no status bit, and is answered (R94,
R239). -/
def execBedCloseRequest (idx : Nat) (s : State) : Host.Outcome State Fault Refusal :=
  match s.closes[idx]? with
  | none => .next s
  | some r =>
    let s1 := { s with closes := listDrop s.closes idx }
    let b := s1.bed r.bed
    .next (s.orWait (if !b.held.isEmpty && b.winPart == r.part then s1.closeWindow r.bed none else s1))

/-- The watches whose phase has moved on, bed by bed. -/
def State.dueWatches (s : State) : List (Nat × Watch) :=
  s.beds.flatMap fun b => (b.2.watch.filter (·.due)).map fun w => (b.1, w)

/-- A group that stands at a TBWAIT tests again (R104). -/
def State.wakeWatcher (s : State) (gk : GKey) : State :=
  match s.findGroup gk with
  | some (p, k, g, _) => s.setGroup p k { g with watching := false }
  | none => s

/-- PHASE_NOTICE: a phase notice wakes its waiter and the watch is dropped (R104). -/
def execPhaseNotice (idx : Nat) (s : State) : Host.Outcome State Fault Refusal :=
  match s.dueWatches[idx]? with
  | none => .next s
  | some (b, w) => .next ((s.modBed b fun x => { x with watch := x.watch.erase w }).wakeWatcher w.gk)

/-- WATCH_RETEST: a waiter that no watch table holds tests its barrier again (R104, R250). -/
def execWatchRetest (pan slot : Nat) (s : State) : Host.Outcome State Fault Refusal :=
  match s.group pan slot with
  | none => .next s
  | some g => match s.team pan g.team with
    | none => .next s
    | some tm =>
      let gk := gkeyOf tm g.num
      if g.watching && !(s.pan pan).off && !(s.beds.any fun b => b.2.watch.any fun w => w.gk == gk) then
        .next (s.setGroup pan slot { g with watching := false })
      else .next s

/-- A merge-buffer entry may leave: its mask is full, the buffer needs room, or 512 cycles have passed (R90). -/
def mergeReady (b : Bed) (e : MergeEntry) (now : Nat) : Bool :=
  e.mask == BitVec.allOnes 128 || decide (2048 ≤ b.merge.length) || decide (e.since + 512 ≤ now)

/-- A line held in a way is clean once it has been written through (R90). -/
def State.throughLine (s : State) (line : Nat) : State :=
  let clean (w : Way) : Way := if w.line == line && !w.cx && w.st == .dirty then { w with st := .clean } else w
  s.modBed (homeBed line) fun b => { b with sets := tmod b.sets (setOf line) fun ws => tmap ws fun _ w => clean w }

/-- A merge-buffer entry enters the array (R86, R87, R90): the way that holds its line is dirty, or one is allocated, after the fill of the
bytes that the entry does not hold; a partition that owns no way, or a bypass write, allocates none, and its line is written to
memory, or with its block by R78. The result says whether the entry has left. -/
def State.enterArray (s : State) (e : MergeEntry) : State × Bool :=
  let b := homeBed e.line
  let whole := e.mask == BitVec.allOnes 128
  match wayFind (tgetD (s.bed b).sets (setOf e.line) []) e.part e.line e.cx with
  | some (i, w) =>
    if w.st == .filling then (s, false)
    else if w.st == .clean then
      (s.modBed b fun x => { x with sets := tmod x.sets (setOf e.line) fun ws => tput ws i { w with st := .dirty } }, true)
    else (s, true)
  | none =>
    if s.bypass e.part e.line e.hint then
      if e.cx then (if s.portFull e.line then s else s.startBlockOut e.id e.part e.codec (blockOf e.line) [], false) else (s, true)
    else if whole then
      match s.allocate { line := e.line, cx := e.cx, st := .dirty, part := e.part, codec := e.codec } e.hint with
      | some (s1, _) => (s1, true)
      | none => (s, false)
    else (s.pursue (.line e.part e.codec e.line e.cx e.hint), false)

/-- MERGE_BUFFER_EVICT (R90): an entry leaves for the array. A brine-window line with stored bytes is written through. -/
def execMergeBufferEvict (bed idx : Nat) (s : State) : Host.Outcome State Fault Refusal :=
  let b := s.bed bed
  match b.merge[idx]? with
  | none => .next s
  | some e =>
    if mergeReady b e s.clock.cycles then
      match s.enterArray e with
      | (s1, false) => .next s1
      | (s1, true) =>
        let s2 := s1.modBed bed fun x => { x with merge := listDrop x.merge idx }
        .next (if !e.cx && isBrine e.line then (s2.startBrineWrite e.id e.line).throughLine e.line else s2)
    else .next s

/-- LINE_FILL_RETURN: an uncoded fill from memory arrives, and its line can be read: merged with the bytes that the write-merge buffer
holds of it, it is dirty (R84, R85, R90). -/
def execLineFillReturn (idx : Nat) (s : State) : Host.Outcome State Fault Refusal :=
  match s.fills[idx]? with
  | none => .next s
  | some (b, k, i) =>
    let s1 := { s with fills := listDrop s.fills idx }
    let written (w : Way) : Bool := ((s.bed b).mergeOf w.line w.cx).isSome
    let filled (w : Way) : Way := if w.st = .filling then { w with st := if written w then .dirty else .clean } else w
    .next (s1.modBed b fun x => { x with sets := tmod x.sets k fun ws => tmod ws i filled })

/-- BRINE_WINDOW_WRITE_DONE: a line reaches the brine window and is durable; writes of one line arrive in order (R90,
R133, R135). -/
def execBrineWindowWriteDone (idx : Nat) (s : State) : Host.Outcome State Fault Refusal :=
  match s.brineWrites[idx]? with
  | none => .next s
  | some w =>
    if (s.brineWrites.take idx).any fun e => e.line == w.line then .next s
    else .next { s with brineWrites := listDrop s.brineWrites idx, durable := mwrite s.durable w.line w.bytes }

/-- A brine-window write accepted before a persist request at a bed is still on its way: in the merge buffer, to the window,
in a coded block or in an overflow entry that no MOVE has written (R82, R133). -/
def State.persistPending (s : State) (r : PersistReq) : Bool :=
  let here (pa : Nat) : Bool := isBrine pa && (blockLines pa).any fun l => homeBed l == r.bed
  ((s.bed r.bed).merge.any fun e => isBrine e.line && decide (e.id < r.upto)) ||
  (s.brineWrites.any fun w => homeBed w.line == r.bed && decide (w.id < r.upto)) ||
  (s.blockOuts.any fun o => here o.pa && decide (o.id < r.upto)) ||
  (s.overflow.any fun o => !o.moved && here o.pa && decide (o.id < r.upto))

/-- BED_PERSIST_REQUEST: a bed answers (R133). -/
def execBedPersistRequest (idx : Nat) (s : State) : Host.Outcome State Fault Refusal :=
  match s.persists[idx]? with
  | none => .next s
  | some r => if s.persistPending r then .next s else .next { s with persists := listDrop s.persists idx }

/-- SALTERN_BUDGET_REFILL (R105): at a boundary of a station-time microsecond. -/
def execSalternBudgetRefill (pan : Nat) (s : State) : Host.Outcome State Fault Refusal :=
  let now := s.clock.nanos / 1000
  if (s.pan pan).ptick < now then .next (s.modPan pan fun n => { n with pbal := n.pbud, ptick := now }) else .next s

/-- SAL_WAYS_WRITE (R88): a mask that would overlap another partition's is ignored; one that loses ways starts their
write-back. -/
def execSalWaysWrite (part : Nat) (mask : BitVec 16) (s : State) : Host.Outcome State Fault Refusal :=
  if s.parts.any fun e => e.1 != part && e.2.salMask &&& mask.toNat != 0 then .next s
  else
    let loses := (s.part part).salMask &&& notw mask.toNat 16 != 0
    .next (s.modPart part fun p => { p with salMask := mask.toNat, salBusy := p.salBusy || loses })

/-- A way that a partition no longer owns. -/
def lostWay (mask part i : Nat) (w : Way) : Bool := w.part == part && !bitOf mask i

/-- MASK_REDUCTION_COMPLETE (R88): the lines in the lost ways are written back and invalidated in every bed, and BUSY
returns to 0. It waits for fills and pinned lines among them. -/
def execMaskReductionComplete (part : Nat) (s : State) : Host.Outcome State Fault Refusal :=
  let mask := (s.part part).salMask
  let lost := s.beds.flatMap fun b => b.2.sets.flatMap fun ws => ws.2.filter fun e => lostWay mask part e.1 e.2
  if !(s.part part).salBusy || lost.any fun e => e.2.st == .filling || e.2.st == .pinned then .next s
  else
    let s1 := lost.foldl (fun st e => st.writeBack e.2) s
    let keep (ws : Tbl Way) : Tbl Way := ws.filter fun e => !lostWay mask part e.1 e.2
    let s2 := { s1 with beds := tmap s1.beds fun _ b => { b with sets := tmap b.sets fun _ ws => keep ws } }
    .next (s2.modPart part fun p => { p with salBusy := false })

/-- LOAD_RETURN: a returning value arrives (R34, R35). -/
def execLoadReturn (idx : Nat) (s : State) : Host.Outcome State Fault Refusal :=
  match s.resps[idx]? with
  | some r => if r.load then .next ({ s with resps := listDrop s.resps idx }.deliver r) else .next s
  | none => .next s

/-- WRITE_ACK: a write acknowledgement arrives (R34, R35, R91). -/
def execWriteAck (idx : Nat) (s : State) : Host.Outcome State Fault Refusal :=
  match s.resps[idx]? with
  | some r => if r.load then .next s else .next ({ s with resps := listDrop s.resps idx }.deliver r)
  | none => .next s

end Sys2Proof.Machine
end

