-- ==== Sys2Proof/Machine/Cross.lean ====
section
/-! DEFINITION. Row 0x60: instructions that exchange values among the threads of a group (R187, R226 to R229). -/

namespace Sys2Proof.Machine

/-! ## Results, R187, R228, R229 -/

/-- What a member brings: its lane and its operands. -/
structure Member where
  lane : Nat
  a : Nat
  b : Nat
  deriving DecidableEq, Repr

/-- The operation, element format and elements of a floating REDX or SCANX (R229): the combining function on codes. -/
def redxFloat (fn : Nat) : Option (Nat → Nat → FRes) :=
  let packed (m : Fmt) (rnd : Nat) (x y : Nat) : FRes :=
    let lo := addF m (elem x 16 0) (elem y 16 0) rnd
    let hi := addF m (elem x 16 1) (elem y 16 1) rnd
    { code := lo.code + hi.code * 2 ^ 16, flags := lo.flags ||| hi.flags }
  if fn = 0x08 then some fun x y => minMaxF f32 x y true true
  else if fn = 0x09 then some fun x y => minMaxF f32 x y false true
  else if 0x10 ≤ fn ∧ fn < 0x18 then some fun x y => addF f32 x y (fn % 8)
  else if 0x18 ≤ fn ∧ fn < 0x20 then some (packed f16 (fn % 8))
  else if 0x20 ≤ fn ∧ fn < 0x28 then some (packed bf16 (fn % 8))
  else if 0x28 ≤ fn ∧ fn < 0x30 then some fun x y => addF f64 x y (fn % 8)
  else none

/-- An integer REDX or SCANX operation (R229). -/
def redxInt (fn x y : Nat) : Nat :=
  match fn with
  | 0 => (x + y) % 2 ^ 32
  | 1 => Nat.min x y
  | 2 => if sval x 32 ≤ sval y 32 then x else y
  | 3 => Nat.max x y
  | 4 => if sval x 32 ≤ sval y 32 then y else x
  | 5 => x &&& y
  | 6 => x ||| y
  | _ => x ^^^ y

/-- One level of the tree of R187: neighbours combined, their flags gathered. -/
def treeLevel (f : Nat → Nat → FRes) (xs : List Nat) : List Nat × Nat :=
  match xs with
  | x :: y :: r =>
    let (ys, fl) := treeLevel f r
    ((f x y).code :: ys, (f x y).flags ||| fl)
  | _ => (xs, 0)

/-- RedxTree of R187 over 32 entries: the root and the flags of every node. -/
def redxTree (f : Nat → Nat → FRes) (xs : List Nat) : Nat × Nat :=
  let r := (List.range 5).foldl (fun (a : List Nat × Nat) _ =>
    let (ys, fl) := treeLevel f a.1
    (ys, a.2 ||| fl)) (xs, 0)
  (r.1.headD 0, r.2)

/-- The value a member brings, none for a lane that is no member. -/
def memberA (ms : List Member) (l : Nat) : Option Nat := (ms.find? fun m => m.lane == l).map (·.a)

/-- REDX: the result of every member (R229). -/
def redx (fn : Nat) (ms : List Member) : Nat × Nat :=
  match redxFloat fn with
  | some f => redxTree f ((List.range 32).map fun l => (memberA ms l).getD 0)
  | none => match ms with
    | m :: r => (r.foldl (fun a x => redxInt fn a x.a) m.a, 0)
    | [] => (0, 0)

/-- SCANX: the result of each member in ascending lane order, with the flags of the steps that made it (R187, R229). -/
def scanx (fn : Nat) (acc : Nat × Nat) (ms : List Member) : List (Nat × Nat × Nat) :=
  match ms with
  | [] => []
  | m :: r =>
    let acc' := match redxFloat fn with
      | some f => ((f acc.1 m.a).code, acc.2 ||| (f acc.1 m.a).flags)
      | none => (redxInt fn acc.1 m.a, 0)
    (m.lane, acc'.1, acc'.2) :: scanx fn acc' r

/-- The source lane of a shuffle (R228); an integer, which may lie outside 0 to 31. -/
def shuffleLane (opc l n : Nat) : Int :=
  match opc with
  | 0x62 => n
  | 0x63 => (l : Int) - n
  | 0x64 => (l : Int) + n
  | _ => ((l ^^^ n : Nat) : Int)

/-- A shuffle's result (R228): the value of the source lane where it is a member, else the thread's own. -/
def shuffle (opc : Nat) (ms : List Member) (m : Member) : Nat :=
  let s := shuffleLane opc m.lane m.b
  if 0 ≤ s ∧ s < 32 then (memberA ms s.toNat).getD m.a else m.a

/-- The result and the flags of each member of a completed operation (R228, R229); the members ascend by lane. -/
def crossResults (opc fn : Nat) (ms : List Member) : List (Nat × Nat × Nat) :=
  let each (f : Member → Nat) : List (Nat × Nat × Nat) := ms.map fun m => (m.lane, f m, 0)
  match opc with
  | 0x60 =>
    let r := match fn with
      | 0 => ms.all fun m => m.a == 1
      | 1 => ms.any fun m => m.a == 1
      | _ => ms.all (fun m => m.a == 1) || ms.all fun m => m.a == 0
    each fun _ => r.toNat
  | 0x61 => each fun _ => (maskOf ((ms.filter fun m => m.a == 1).map (·.lane))).toNat
  | 0x62 | 0x63 | 0x64 | 0x65 => each fun m => shuffle opc ms m
  | 0x66 => let r := redx fn ms
            ms.map fun m => (m.lane, r.1, r.2)
  | 0x67 => match ms with
    | m :: r => (m.lane, m.a, 0) :: scanx fn (m.a, 0) r
    | [] => []
  | 0x68 => each fun m => (maskOf ((ms.filter fun x => x.a == m.a).map (·.lane))).toNat
  | 0x69 => each fun m => (ms.head?.map (·.lane) == some m.lane).toNat
  | 0x6A => each fun _ => (ms.head?.map (·.a)).getD 0
  | _ => each fun _ => 0

/-! ## Arrival, parking and completion, R227 -/

/-- A thread that stands parked at a place of a cross-lane instruction: its mask, operands and issue. -/
def Thread.parkedAt (t : Thread) (addr pos : Nat) : Option (BitVec 32 × Member × Nat) :=
  match t.park with
  | some (.lanes a p m x y i) => if a = addr ∧ p = pos then some (m, { lane := 0, a := x.toNat, b := y.toNat }, i) else none
  | _ => none

/-- Lane `l` has arrived: its mask, operands and issue. -/
structure Arrival where
  lane : Nat
  mask : BitVec 32
  a : Nat
  b : Nat
  issue : Nat
  deriving DecidableEq, Repr

/-- The threads that stand parked at a place. -/
def Group.arrivals (g : Group) (addr pos : Nat) : List Arrival :=
  g.th.filterMap fun e => (e.2.parkedAt addr pos).map fun r =>
    { lane := e.1, mask := r.1, a := r.2.1.a, b := r.2.1.b, issue := r.2.2 }

/-- A lane that a mask may not name: one that has exited or is vacant, and in a CONTROL group any lane but 0 (R227). -/
def Group.absent (g : Group) (l : Nat) : Bool :=
  (match g.thread l with
   | some t => t.st == .exited
   | none => true) || (g.role == .control && l != 0)

/-- An arrival that takes the absent-member trap for its mask, or for that of another arrival it names (R227). -/
def absentTrap (g : Group) (as : List Arrival) (x : Arrival) : Bool :=
  !x.mask.getLsbD x.lane || (lanesOf x.mask).any g.absent ||
  as.any fun y => x.mask.getLsbD y.lane && y.mask != x.mask

/-- The arrivals drawn into a trap: whoever an arrival of the set names, or is named by. -/
def drawn (as ts : List Arrival) (n : Nat) : List Arrival :=
  match n with
  | 0 => ts
  | n + 1 =>
    drawn as (as.filter fun x => ts.any fun y => y.lane == x.lane || y.mask.getLsbD x.lane || x.mask.getLsbD y.lane) n

/-- Parked threads of one place take the absent-member trap, each with its own mask; they become runnable in the trap
routine (R227, R330). -/
def State.absentAt (s : State) (p k addr pos : Nat) (ls : List Arrival) : State :=
  match s.group p k with
  | none => s
  | some g => match s.team p g.team with
    | none => s
    | some tm =>
      s.takeTrap p k g tm (ls.map (·.lane)) addr pos 8
        (fun l => match ls.find? (fun x => x.lane == l) with
          | some x => x.mask.toNat
          | none => 0) (fun _ => true)

/-- The places at which threads of a group stand parked for a cross-lane instruction. -/
def Group.parkPlaces (g : Group) : List (Nat × Nat) :=
  (g.th.filterMap fun e => match e.2.park with
    | some (.lanes a p _ _ _ _) => some (a, p)
    | _ => none).dedup

/-- Every thread that has not exited is parked at a cross-lane instruction (R227). -/
def Group.allAtLanes (g : Group) : Bool :=
  g.th.all (fun e => e.2.st == .exited || (match e.2.park with
    | some (.lanes _ _ _ _ _ _) => true
    | _ => false)) && g.th.any fun e => e.2.st == .parked

/-- The absent-member traps that the exit or the parking of threads brings about (R227): of parked threads that name one who
can no longer arrive, and of all of them once nobody else is left. -/
def State.resolveParks (s : State) (p k : Nat) : State :=
  match s.group p k with
  | none => s
  | some g =>
    let stuck := g.run.isNone && g.allAtLanes
    g.parkPlaces.foldl (fun st pl =>
      let as := g.arrivals pl.1 pl.2
      let bad := as.filter fun x => stuck || absentTrap g as x
      if bad.isEmpty then st else st.absentAt p k pl.1 pl.2 (drawn as bad 32)) s

/-- A parked thread whose operation has completed is runnable at the next instruction, with its t-registers cleared
(R227). -/
def Thread.released (t : Thread) (addr pos count after : Nat) : Thread :=
  { t with
    st := .runnable, park := none, t := []
    addr := if pos = count then after else addr
    entry := if pos = count then none else some pos }

/-- The responses of a completed operation: each issue takes the results of its lanes. -/
def State.crossRespond (s : State) (gk : GKey) (pan rc : Nat) (res : List (Nat × Nat × Nat)) (as : List Arrival) : State :=
  ((as.map (·.issue)).dedup).foldl (fun st i =>
    let mine := as.filter fun x => x.issue == i
    st.respond { gk := gk, pan := pan, issue := i, load := true, rc := rc,
                 vals := mine.filterMap fun x => (res.lookup x.lane).map fun r => { lane := x.lane, val := r.1 } }) s

/-- A cross-lane instruction (R226, R227): its active threads arrive; where an arrival names a member that cannot come, or
one that came with another mask, all concerned take the absent-member trap; operations that now have all their members
complete, and the other arrivals park. An operation that completes raises its flags at once, so that what its members do next reads
them (R167, R229). `ka` is the number of registers of A and of D. -/
def Ctx.cross (c : Ctx) (s : State) (x : Std) (opc ka : Nat) : State :=
  if c.counterFull .cl then c.stall s
  else
    let id := s.nextId
    let pos := c.run.pos
    let now := c.lanes.filterMap fun l => (c.g.thread l).map fun t =>
      ({ lane := l, mask := BitVec.ofNat 32 (srcNat c.g t 1 x.c), a := srcNat c.g t ka x.a, b := srcNat c.g t 1 x.b,
         issue := id } : Arrival)
    let as := c.g.arrivals c.run.addr pos ++ now
    let bad := as.filter fun y => absentTrap c.g as y
    if (drawn as bad 32).any fun y => y.issue == id then
      let out := (drawn as bad 32).filter fun y => y.issue != id
      let ls := lanesOf (c.run.set ||| maskOf (out.map (·.lane)))
      let own (l : Nat) : Nat := match as.find? (fun y => y.lane == l) with
        | some y => y.mask.toNat
        | none => match bad with
          | y :: _ => y.mask.toNat
          | [] => 0
      s.takeTrap c.pan c.slot { c.g with run := none } c.tm ls c.run.addr pos 8 own
        (fun l => c.lanes.contains l || out.any fun y => y.lane == l)
    else
      let dregs := match opc with
        | 0x60 | 0x61 | 0x68 | 0x69 | 0x6B => 1
        | _ => ka
      let g1 := c.record id (some .cl) x.d dregs .zero (c.lanes.map fun l => (l, {})) false none
      let doneMask (m : BitVec 32) : Bool := (lanesOf m).all fun l => as.any fun y => y.lane == l && y.mask == m
      let comp := as.filter fun y => doneMask y.mask
      let res := ((comp.map (·.mask)).dedup).flatMap fun m =>
        crossResults opc x.fn.toNat ((lanesOf m).filterMap fun l => (comp.find? fun y => y.lane == l).map fun y =>
          { lane := l, a := y.a, b := y.b })
      let parks := now.filter fun y => !doneMask y.mask
      let place (l : Nat) (t : Thread) : Thread := match parks.find? fun y => y.lane == l with
        | some y => { t with st := .parked, t := [],
                             park := some (.lanes c.run.addr pos y.mask (BitVec.ofNat 64 y.a) (BitVec.ofNat 64 y.b) id) }
        | none =>
          if comp.any fun y => y.lane == l && y.issue != id then
            t.released c.run.addr (pos + stdWords x) c.run.count c.run.after
          else t
      let raised (l : Nat) (t : Thread) : Thread := match res.lookup l with
        | some r => { t with flags := t.flags ||| BitVec.ofNat 5 r.2 }
        | none => t
      let g2 := { g1 with th := tmap g1.th fun l t => raised l (place l t) }
      let s1 := { s with nextId := id + 1 }.crossRespond c.gk c.pan ((s.pan c.pan).rc + 1) res comp
      (c.finish s1 g2 (stdWords x) (parks.map (·.lane))).resolveParks c.pan c.slot

/-- An instruction of row 0x60. -/
def execCross (opc ka : Nat) (x : Std) (s : State) : Host.Outcome State Fault Refusal :=
  match front opc x s with
  | .over_ s' => .next s'
  | .go s' c => .next (c.cross s' x opc ka)

def execVote (x : Std) (s : State) : Host.Outcome State Fault Refusal := execCross 0x60 1 x s
def execBallot (x : Std) (s : State) : Host.Outcome State Fault Refusal := execCross 0x61 1 x s
def execShfl (x : Std) (s : State) : Host.Outcome State Fault Refusal := execCross 0x62 (1 + x.fn.toNat) x s
def execShflup (x : Std) (s : State) : Host.Outcome State Fault Refusal := execCross 0x63 (1 + x.fn.toNat) x s
def execShfldn (x : Std) (s : State) : Host.Outcome State Fault Refusal := execCross 0x64 (1 + x.fn.toNat) x s
def execShflx (x : Std) (s : State) : Host.Outcome State Fault Refusal := execCross 0x65 (1 + x.fn.toNat) x s

/-- Registers of a REDX or SCANX value (R229). -/
def redxRegs (x : Std) : Nat := if 0x28 ≤ x.fn.toNat then 2 else 1

def execRedx (x : Std) (s : State) : Host.Outcome State Fault Refusal := execCross 0x66 (redxRegs x) x s
def execScanx (x : Std) (s : State) : Host.Outcome State Fault Refusal := execCross 0x67 (redxRegs x) x s
def execMatchLanes (x : Std) (s : State) : Host.Outcome State Fault Refusal := execCross 0x68 (1 + x.fn.toNat) x s
def execElect (x : Std) (s : State) : Host.Outcome State Fault Refusal := execCross 0x69 1 x s
def execGbcast (x : Std) (s : State) : Host.Outcome State Fault Refusal := execCross 0x6A (1 + x.fn.toNat) x s
def execConv (x : Std) (s : State) : Host.Outcome State Fault Refusal := execCross 0x6B 1 x s

end Sys2Proof.Machine
end

