-- ==== Sys2Proof/Machine/Sync.lean ====
section
/-! DEFINITION. Semaphores, transaction barriers, the team barrier and stage rings: rows 0x93 to 0x9E (R149, R247 to R253). -/

namespace Sys2Proof.Machine

/-- A source of an instruction that acts once, read in the lowest active thread (R243). -/
def Ctx.one (c : Ctx) (k : Nat) (src : Src) : Nat := c.at (fun g t => srcNat g t k src) (c.lanes.headD 0)

/-- A value that an instruction which acts once writes to every active thread (R243). -/
def Ctx.writeAll (c : Ctx) (s : State) (x : Std) (v : Nat) : State := c.write s x 1 (c.lanes.map fun l => (l, v))

/-! ## Semaphores, R247 and R248 -/

/-- The pan-absolute number of a semaphore of a team (R247). -/
def semOf (team n : Nat) : Nat := 8 * team + n % 8

/-- A semaphore's count. -/
def PanCore.sem (p : PanCore) (n : Nat) : Nat := tgetD p.sems n 0

/-- A semaphore gains k (SEMREL, R248). -/
def PanCore.semAdd (p : PanCore) (n k : Nat) : PanCore :=
  { p with sems := tputD 0 p.sems n (Nat.min (p.sem n + k) (2 ^ 31 - 1)) }

/-- The event queue of a pan has no room (R148). -/
def PanCore.evqFull (p : PanCore) : Bool := decide (256 ≤ p.evq.head - p.evq.tail)

/-- An event record posted (R147, R148). -/
def PanCore.postEvent (p : PanCore) (rec : List Byte) : PanCore :=
  let p1 := { p with evq := { p.evq with head := p.evq.head + 1, recs := p.evq.recs ++ [rec] } }
  if p.evq.semen then p1.semAdd p.evq.sem 1 else p1

/-- Records that end no command, held for room, are posted in order (R148). -/
def PanCore.postHeld (p : PanCore) (recs : List (List Byte)) : PanCore :=
  match recs with
  | [] => { p with held := [] }
  | r :: rest => if p.evqFull then { p with held := r :: rest } else (p.postEvent r).postHeld rest

/-- SEMINIT (R248). -/
def execSeminit (x : Std) (s : State) : Host.Outcome State Fault Refusal :=
  execFront 0x93 x s fun s c =>
    let n := semOf c.g.team (c.one 1 x.a)
    c.finish (s.modCore c.pan fun p => { p with sems := tputD 0 p.sems n (Nat.min (c.one 1 x.b) (2 ^ 31 - 1)) }) c.g
      (stdWords x) []

/-- SEMREL (R248): a release, which follows every earlier access of its threads (R116, R124). -/
def execSemrel (x : Std) (s : State) : Host.Outcome State Fault Refusal :=
  execFront 0x95 x s fun s c =>
    if s.busy c.gk c.lanes then c.wait s (stdWords x)
    else c.finish (s.modCore c.pan fun p => p.semAdd (semOf c.g.team (c.one 1 x.a)) (c.one 1 x.b % 256)) c.g (stdWords x) []

/-- The waiters of a semaphore with the group at the tail, where it does not wait yet (R248). -/
def PanCore.joinSem (p : PanCore) (n slot : Nat) : PanCore :=
  let q := tgetD p.semq n []
  if q.contains slot then p else { p with semq := tput p.semq n (q ++ [slot]) }

/-- SEMACQ (R248): it joins the waiters, and takes k once it heads them and the count covers k, an acquire at .team (R124). -/
def execSemacq (x : Std) (s : State) : Host.Outcome State Fault Refusal :=
  execFront 0x94 x s fun s c =>
    let n := semOf c.g.team (c.one 1 x.a)
    let k := c.one 1 x.b % 256
    if k = 0 then c.finish (s.acquireAt c.pan (quarterOf c.slot) 1) c.g (stdWords x) []
    else
      let s1 := s.modCore c.pan fun p => p.joinSem n c.slot
      let p1 := (s1.pan c.pan).core
      if (tgetD p1.semq n []).head? = some c.slot ∧ k ≤ p1.sem n then
        let took (p : PanCore) : PanCore :=
          { p with sems := tputD 0 p.sems n (p.sem n - k), semq := tputD [] p.semq n ((tgetD p.semq n []).drop 1) }
        c.finish ((s1.modCore c.pan took).acquireAt c.pan (quarterOf c.slot) 1) c.g (stdWords x) []
      else if c.torn s1 then
        c.exitAt (s1.modCore c.pan fun p => { p with semq := tmap p.semq fun _ l => l.filter (· != c.slot) }) (stdWords x)
          c.lanes
      else c.stall s1

/-! ## Transaction barriers, R249 and R250 -/

/-- SCOPE of a barrier instruction, as a memory control byte with an order (R242). -/
def tbCtl (x : Std) (ord : Nat) : Nat := x.fn.toNat / 16 * 16 + ord * 4

/-- A barrier instruction that is posted: a release at SCOPE, recorded by no counter (R249). -/
def execTbPost (opc : Nat) (x : Std) (s : State) (op : Nat → TbOp) : Host.Outcome State Fault Refusal :=
  execFront opc x s fun s c =>
    let va := c.one 2 x.a
    ({ c with lanes := c.lanes.take 1 } : Ctx).global s
      { need := .rw, bytes := 16, align := 16, op := .tb (op (c.one 1 x.b)), ctr := none, ctl := tbCtl x 2, words := stdWords x,
        rel := c.lanes }
      (fun _ => va) fun _ => (0, 0, 0)

/-- TBINIT (R249). -/
def execTbinit (x : Std) (s : State) : Host.Outcome State Fault Refusal := execTbPost 0x96 x s .init
/-- TBEXP: B is a .s32 number of bytes (R242, R249). -/
def execTbexp (x : Std) (s : State) : Host.Outcome State Fault Refusal := execTbPost 0x97 x s fun b => .expect (sval b 32)
/-- TBARR (R249). -/
def execTbarr (x : Std) (s : State) : Host.Outcome State Fault Refusal := execTbPost 0x98 x s .arrive

/-- A barrier test: it holds its group until the bed's answer returns (R250, R418). -/
def execTbTest (opc : Nat) (wait : Bool) (x : Std) (s : State) : Host.Outcome State Fault Refusal :=
  execFront opc x s fun s c =>
    let va := c.one 2 x.a
    let p := c.one 1 x.b % 2 ^ 16
    c.global s { need := .rw, bytes := 16, align := 16, op := .tb .test, ctr := none, dst := x.d, ctl := tbCtl x 0,
                 words := stdWords x, answer := true, wait := wait, one := true }
      (fun _ => va) fun _ => (p, 0, if wait then 1 else 0)

/-- TBTST (R250). -/
def execTbtst (x : Std) (s : State) : Host.Outcome State Fault Refusal := execTbTest 0x99 false x s
/-- TBWAIT (R250). -/
def execTbwait (x : Std) (s : State) : Host.Outcome State Fault Refusal := execTbTest 0x9A true x s

/-! ## The team barrier, R251 -/

/-- A thread that stands at BAR `id`: its role mask and place. -/
def Thread.atBar (t : Thread) (id : Nat) : Option (Nat × Nat × Nat) :=
  match t.park with
  | some (.bar i m a p) => if i = id then some (m, a, p) else none
  | _ => none

/-- The groups of a team, with their slots. -/
def PanCore.teamGroups (p : PanCore) (team : Nat) : Tbl Group := p.groups.filter fun e => e.2.team == team

/-- The arrivals at BAR `id` in a group: lane, mask and place. -/
def Group.barArrivals (g : Group) (id : Nat) : List (Nat × Nat × Nat × Nat) :=
  g.th.filterMap fun e => (e.2.atBar id).map fun r => (e.1, r)

/-- The ids at which threads of a group stand. -/
def Group.barIds (g : Group) : List Nat := [0, 1, 2, 3].filter fun id => !(g.barArrivals id).isEmpty

/-- A group has arrived at BAR `id`: each of its threads that has not exited stands there (R251). -/
def Group.atBar (g : Group) (id : Nat) : Bool := g.th.all fun e => e.2.st == .exited || (e.2.atBar id).isSome

/-- Arrivals that raise the absent-member trap: different masks at one id, or one group at two ids (R251). -/
def barBad (gs : Tbl Group) (id : Nat) : Bool :=
  let masks := gs.flatMap fun e => (e.2.barArrivals id).map fun a => a.2.1
  (match masks with
   | m :: r => r.any fun x => x != m
   | [] => false) ||
  gs.any fun e => e.2.barIds.contains id && decide (1 < e.2.barIds.length)

/-- Every participant of BAR `id` has arrived (R251). -/
def barDone (gs : Tbl Group) (id : Nat) : Bool :=
  match (gs.flatMap fun e => (e.2.barArrivals id).map fun a => a.2.1) with
  | [] => false
  | m :: _ => gs.all fun e => e.2.allExited || !(m == 0 || bitOf m e.2.role.code) || e.2.atBar id

/-- Threads released from BAR `id`, runnable at the instruction after it. -/
def Group.barRelease (g : Group) (id : Nat) : Group :=
  let g1 := g.modThreads ((g.barArrivals id).map (·.1)) fun _ t => { t with st := .runnable, park := none }
  { g1 with st := if g1.run.isSome || g1.st == .faultw || g1.choice.isSome then g1.st else g1.restState }

/-- The arrived threads of a group at BAR `id` take the absent-member trap, each at its own place with its own mask. -/
def State.barTrap (s : State) (p k id : Nat) : State :=
  match s.group p k with
  | none => s
  | some g0 =>
    ((g0.barArrivals id).map fun a => (a.2.2.1, a.2.2.2)).dedup.foldl (fun st pl =>
      match st.group p k with
      | none => st
      | some g => match st.team p g.team with
        | none => st
        | some tm =>
          let here := (g.barArrivals id).filter fun a => a.2.2 == pl
          st.takeTrap p k g tm (here.map (·.1)) pl.1 pl.2 8
            (fun l => match here.find? (fun a => a.1 == l) with
              | some a => a.2.1
              | none => 0) (fun _ => true)) s

/-- A group after the absent-member trap of its threads at BAR `id`, each at its own place with its own mask. -/
def Group.barTrapped (g : Group) (tm : Team) (id : Nat) : Group :=
  let as := g.barArrivals id
  let with_ (pl : Nat × Nat) : Nat := (maskOf ((as.filter fun a => a.2.2 == pl).map (·.1))).toNat
  let g1 := g.modThreads (as.map (·.1)) fun _ t => match t.atBar id with
    | some (m, a, pos) => t.trapEntry a pos 8 m (with_ (a, pos)) tm.trapva true
    | none => t
  { g1 with st := g1.restState }

/-- The arrived threads of the team's groups that JOIN has swapped out take the absent-member trap (R251, R326). -/
def State.barTrapOut (s : State) (tm : Team) (id : Nat) : State :=
  let dbl := (s.joinedOf tm).any fun j => (j.g.barArrivals id).any fun a => tm.trapva == 0 || match j.g.thread a.1 with
    | some t => t.mode
    | none => false
  if dbl then
    s.fatal tm.part tm.slot fun st => st.logError (errRecord 3 Config.noUnit.toNat 0 tm.part (asid tm.part tm.slot) 0 0 0 0)
  else
    { s with joined := s.joined.map fun j => if j.gk.team_ = gkeyOf tm 0 then { j with g := j.g.barTrapped tm id } else j }

/-- The threads of a pan's teams that stand at a barrier of a team: its groups with their slots, those that JOIN has swapped out among
them as slot 136 (R251, R326). -/
def State.barGroups (s : State) (p team : Nat) : Tbl Group :=
  match s.team p team with
  | none => []
  | some tm => (s.pan p).core.teamGroups team ++ (s.joinedOf tm).map fun j => (136, j.g)

/-- The arrived threads of BAR `id` go on, once every participant has arrived: the release and acquire at .team drop what the groups'
later reads could hit (R124, R251). -/
def State.barOpen (s : State) (p team id : Nat) : State :=
  match s.team p team with
  | none => s
  | some tm =>
    if barDone (s.barGroups p team) id then
      let qs := (((s.pan p).core.teamGroups team).filter fun e => e.2.barIds.contains id).map fun e => quarterOf e.1
      let s1 := s.modCore p fun c => { c with groups := tmap c.groups fun _ g => if g.team = team then g.barRelease id else g }
      let s2 := qs.dedup.foldl (fun st q => st.acquireAt p q 1) s1
      { s2 with joined := s2.joined.map fun j => if j.gk.team_ = gkeyOf tm 0 then { j with g := j.g.barRelease id } else j }
    else s

/-- The arrived threads of BAR `id` of a team take the absent-member trap (R251). -/
def State.barTraps (s : State) (p team id : Nat) : State :=
  match s.team p team with
  | none => s
  | some tm => (((s.pan p).core.teamGroups team).foldl (fun st e => st.barTrap p e.1 id) s).barTrapOut tm id

/-- The team's barriers after an arrival or an exit (R251): the ids whose arrivals disagree trap, and the others open where all have
arrived. -/
def State.barCheck (s : State) (p team : Nat) : State :=
  let bad := [0, 1, 2, 3].filter (barBad (s.barGroups p team))
  let s1 := bad.foldl (fun st id => st.barTraps p team id) s
  ([0, 1, 2, 3].filter fun id => !bad.contains id).foldl (fun st id => st.barOpen p team id) s1

/-- BAR (R251): the active threads arrive, after every earlier access of theirs (R124), and park, to go on at the instruction after it. -/
def execBar (x : Std) (s : State) : Host.Outcome State Fault Refusal :=
  execFront 0x9B x s fun s c =>
    if s.busy c.gk c.lanes then c.wait s (stdWords x) else
    let id := c.one 1 x.a % 4
    let mask := c.one 1 x.b % 16
    let pos := c.run.pos + stdWords x
    let g := c.g.modThreads c.lanes fun _ t =>
      { t with st := .parked, t := [], park := some (.bar id mask c.run.addr c.run.pos)
               addr := if pos = c.run.count then c.run.after else c.run.addr
               entry := if pos = c.run.count then none else some pos }
    (c.finish s g (stdWords x) c.lanes).barCheck c.pan c.g.team

/-! ## Stage rings, R149 and R252 -/

/-- The ring that an instruction names, with its number in the pan's ring table. -/
def Ctx.ring (c : Ctx) (s : State) (a : Nat) : Option (Nat × Ring) :=
  let n := 8 * c.g.team + a % 8
  (tget (s.pan c.pan).core.rings n).map fun r => (n, r)

/-- The state with a ring changed. -/
def Ctx.setRing (c : Ctx) (s : State) (n : Nat) (r : Ring) : State :=
  s.modCore c.pan fun p => { p with rings := tput p.rings n r }

/-- The slot that an index addresses, its state and phase, and the index's lap (R149). -/
def Ring.at (r : Ring) (k : Nat) : Nat × (RingSt × Nat) × Nat :=
  let n := r.slots.length
  (k % n, r.slots.getD (k % n) (.empty, 0), k / n % 2)

/-- The scratchpad offset of a slot (R252). -/
def Ring.offset (r : Ring) (slot : Nat) : Nat := r.base + slot * r.slotb

/-- The slot at PUT can be filled (R149). -/
def Ring.canPut (r : Ring) : Bool :=
  let (_, st, lap) := r.at r.put
  st == (.empty, lap)

/-- The slot at GET can be taken (R149). -/
def Ring.canGet (r : Ring) : Bool :=
  let (_, st, lap) := r.at r.get
  st == (.full, lap)

/-- SGPUT (R252): the slot at PUT becomes FULL, a release after every earlier access of its threads (R124). -/
def execSgput (x : Std) (s : State) : Host.Outcome State Fault Refusal :=
  execFront 0x9C x s fun s c =>
    match c.ring s (c.one 1 x.a) with
    | none => c.trapAll s 8 0 c.run.pos
    | some (n, r) =>
      if r.canPut && !s.busy c.gk c.lanes then
        let (k, st, _) := r.at r.put
        c.finish (c.setRing s n { r with slots := listSet r.slots k (.full, st.2), put := r.put + 1 }) c.g (stdWords x) []
      else c.wait s (stdWords x)

/-- SGPUT.wait (R252): the offset of the slot at PUT once it is empty. -/
def execSgputWait (x : Std) (s : State) : Host.Outcome State Fault Refusal :=
  execFront 0x9C x s fun s c =>
    match c.ring s (c.one 1 x.a) with
    | none => c.trapAll s 8 0 c.run.pos
    | some (_, r) => if r.canPut then c.writeAll s x (r.offset (r.at r.put).1) else c.wait s (stdWords x)

/-- SGGET (R252): the slot at GET becomes HELD, an acquire at .team, and its offset is written (R124). -/
def execSgget (x : Std) (s : State) : Host.Outcome State Fault Refusal :=
  execFront 0x9D x s fun s c =>
    match c.ring s (c.one 1 x.a) with
    | none => c.trapAll s 8 0 c.run.pos
    | some (n, r) =>
      if r.canGet then
        let (k, st, _) := r.at r.get
        c.writeAll ((c.setRing s n { r with slots := listSet r.slots k (.held, st.2), get := r.get + 1 }).acquireAt c.pan
          (quarterOf c.slot) 1) x (r.offset k)
      else c.wait s (stdWords x)

/-- SGGET.err (R252): the team's ring error bits, read and cleared. -/
def execSggetErr (x : Std) (s : State) : Host.Outcome State Fault Refusal :=
  execFront 0x9D x s fun s c =>
    let mine := (s.pan c.pan).core.rings.filter fun r => r.1 / 8 == c.g.team
    let bits := (mine.map fun r => r.2.err.toNat * 2 ^ (r.1 % 8)).sum
    let s1 := s.modCore c.pan fun p =>
      { p with rings := tmap p.rings fun n r => if n / 8 = c.g.team then { r with err := false } else r }
    c.writeAll s1 x bits

/-- SGREL (R149, R252), a release after every earlier access of its threads (R124): a HELD slot is released; any other offset sets the ring's error bit. -/
def execSgrel (x : Std) (s : State) : Host.Outcome State Fault Refusal :=
  execFront 0x9E x s fun s c =>
    match c.ring s (c.one 1 x.a) with
    | none => c.trapAll s 8 0 c.run.pos
    | some (n, r) =>
      if s.busy c.gk c.lanes then c.wait s (stdWords x) else
      let off := c.one 1 x.b
      let k := (off - r.base) / r.slotb
      if r.base ≤ off ∧ r.offset k = off ∧ k < r.slots.length ∧ (r.slots.getD k (.empty, 0)).1 = .held then
        c.writeAll (c.setRing s n { r with slots := listMod r.slots k fun e => (.empty, 1 - e.2) }) x 1
      else c.writeAll (c.setRing s n { r with err := true }) x 0

end Sys2Proof.Machine
end

