-- ==== Sys2Proof/Machine/Sched.lean ====
section
/-! DEFINITION. How a group comes to issue: the choice of a program counter, the fetch and check of a run, its header wait,
the active set, and the reorder point (R12 to R21, R37, R158 to R164, R170 to R172). -/

namespace Sys2Proof.Machine

/-! ## The choice of a program counter, R161 -/

/-- A thread's key as one number: run address, then entry with HDR below every position, then MODE (R161). -/
def Thread.key (t : Thread) : Nat :=
  (t.addr * 32 + (match t.entry with
    | none => 0
    | some p => p + 1)) * 2 + t.mode.toNat

/-- The runnable threads with their lanes. -/
def Group.runnable (g : Group) : List (Nat × Thread) := g.th.filter fun e => e.2.st == .runnable

/-- The least of a list of keys. -/
def leastKey (ks : List Nat) : Option Nat := ks.foldl (fun a k => match a with
  | none => some k
  | some b => some (Nat.min b k)) none

/-- ChoosePC of R161: the key chosen. -/
def chooseKey (ts : List (Nat × Thread)) : Option Nat :=
  let late := ts.filter fun e => e.2.pass == 16
  if late.isEmpty then
    let ks := ts.map fun e => e.2.key
    let count (k : Nat) : Nat := (ks.filter (· == k)).length
    let most := ks.foldl (fun a k => Nat.max a (count k)) 0
    leastKey (ks.filter fun k => count k == most)
  else leastKey (late.map fun e => e.2.key)

/-- The choice made: pass counts move, and the chosen set stands as the group's choice (R161). -/
def Group.choose (g : Group) : Group :=
  match chooseKey g.runnable with
  | none => g
  | some k =>
    let set := (g.runnable.filter fun e => e.2.key == k).map (·.1)
    let move (l : Nat) (t : Thread) : Thread :=
      if t.st != .runnable then t
      else if set.contains l then { t with pass := 0 } else { t with pass := Nat.min (t.pass + 1) 16 }
    let g1 := { g with th := tmap g.th move }
    match set.head?.bind g.thread with
    | some t => { g1 with choice := some { addr := t.addr, entry := t.entry, mode := t.mode, set := maskOf set } }
    | none => g1

/-! ## Checks of a run, R13, R15 to R17, R37 -/

/-- The class that an opcode is bound to; none where it is free (R16). -/
def boundClass (opc : Nat) : Option Nat :=
  if (0x70 ≤ opc ∧ opc ≤ 0x7E) ∨ (0x80 ≤ opc ∧ opc ≤ 0x83) ∨ (0x93 ≤ opc ∧ opc ≤ 0x9E) then some 3
  else if 0x90 ≤ opc ∧ opc ≤ 0x92 then some 2
  else if 0xA0 ≤ opc ∧ opc ≤ 0xA8 then some 1
  else if 0xB0 ≤ opc ∧ opc ≤ 0xB7 then some 4
  else if 0xC0 ≤ opc ∧ opc ≤ 0xC7 then some 5
  else if [0xD5, 0xD6, 0xD7, 0xD8, 0xDB, 0xDD, 0xDF].contains opc then some 6
  else none

/-- The long-form run-ending instructions (R17). -/
def endsRun (opc : Nat) : Bool := [0xD0, 0xD1, 0xD2, 0xD3, 0xD4, 0xD6, 0xD8, 0xD9, 0xDE, 0xDF].contains opc

/-- The instruction words of a run stand as R15 asks: the last one ends at word COUNT, each is in a class that R16 allows,
a long-form run-ending one stands last. -/
def bodyOk (cls : Nat) (ws : List Word) (fuel : Nat) : Bool :=
  match fuel with
  | 0 => ws.isEmpty
  | fuel + 1 =>
    match ws with
    | [] => true
    | w :: _ =>
      let opc := w.toNat % 256
      let n := wordCount w.toNat (ws.getD 1 0).toNat
      decide (n ≤ ws.length) && (match boundClass opc with
        | some k => k == cls
        | none => true) && (!endsRun opc || n == ws.length) && bodyOk cls (ws.drop n) fuel

/-- A trailer is well formed (R37). -/
def trailerOk (w budget : Nat) : Bool :=
  let v (k : Nat) : Bool := bitOf w (25 + k)
  let r (k : Nat) : Nat := bitsOf w (8 * k) 8
  bitsOf w 28 4 == 0xD && !bitOf w 24 && (v 0 || v 1 || v 2) &&
  [0, 1, 2].all fun k => if v k then decide (r k < budget) else r k == 0

/-- The header's fixed fields are legal (R13, R15). -/
def headerOk (h : Nat) : Bool :=
  bitsOf h 28 4 == 0xB && bitsOf h 24 4 == 0 && bitsOf h 5 2 == 0 && bitsOf h 7 3 != 7 &&
  decide (1 ≤ h % 32) && decide (h % 32 ≤ 24)

/-- A word that is a header, and says how long its run is (R12, R13). -/
def headerSized (h : Nat) : Bool := bitsOf h 28 4 == 0xB && decide (1 ≤ h % 32) && decide (h % 32 ≤ 24)

/-- Words of a run by its header: header, instruction words, and trailer (R12). -/
def runLength (h : Nat) : Nat := 1 + h % 32 + (bitOf h 11).toNat

/-- A fetched run passes the checks of R15. -/
def runOk (ws : List Word) (budget : Nat) : Bool :=
  match ws with
  | [] => false
  | h :: r =>
    let n := h.toNat % 32
    headerOk h.toNat && bodyOk (bitsOf h.toNat 7 3) (r.take n) 24 &&
    (!bitOf h.toNat 11 || trailerOk (r.getD n 0).toNat budget)

/-- The v-registers that a trailer names; a named half of a pair is matched with the write of either (R37, R38). -/
def trailerRegs (w : Nat) : List Nat := ([0, 1, 2].filter fun k => bitOf w (25 + k)).map fun k => bitsOf w (8 * k) 8

/-- The run that a set begins or re-enters (R13, R21). -/
def runIn (addr pos : Nat) (set : BitVec 32) (ws : List Word) : RunIn :=
  let h := (ws.headD 0).toNat
  let n := h % 32
  { addr := addr, cls := bitsOf h 7 3, yld := bitOf h 10,
    trl := if bitOf h 11 then some (trailerRegs (ws.getD (n + 1) 0).toNat) else none,
    words := (ws.drop 1).take n, pos := pos, set := set }

/-! ## Fetch, R159 and R160 -/

/-- A decoded run that a quarter keeps. -/
def Pan.decodedRun (n : Pan) (quarter a addr : Nat) : Option DecodedRun :=
  (tgetD n.decoded quarter []).find? fun d => d.asid == a && d.addr == addr

/-- A decoded run used: it is the most recent of the sixteen (R159). -/
def Pan.useDecoded (n : Pan) (quarter : Nat) (d : DecodedRun) : Pan :=
  let others := (tgetD n.decoded quarter []).filter fun e => !(e.asid == d.asid && e.addr == d.addr)
  { n with decoded := tput n.decoded quarter ((d :: others).take 16) }

/-- The bytes of a line as a fetch reads them: the quarter's L1 copy, else those at the home bed, which the L1 then holds; none where the
line is uncorrectable (R160, R389). -/
def State.fetchLine (s : State) (pan slot part entry line : Nat) : State × Option (List Byte) :=
  let n := s.pan pan
  let cx := cxOf entry
  match (n.l1Key (quarterOf slot) line).bind fun key => n.l1Find key part line cx with
  | some l => (s, some l.bytes)
  | none =>
    let s1 := (s.lineRequest pan).unitTouch 0 part (pteCodec entry) line cx (pteRet entry) true false
    if s1.badLine line then (s1, none)
    else (s1.l1Take pan slot part line cx true (pteRet entry), some (s1.viewRead cx line 128))

/-- The words of a run from its pieces, line by line; else the line that is uncorrectable. -/
def State.fetchPieces (s : State) (pan slot part : Nat) (ps : List (Piece × Nat)) : State × Except Nat (List Byte) :=
  match ps with
  | [] => (s, .ok [])
  | (p, e) :: r =>
    let pa := leafPa e p.va
    match s.fetchLine pan slot part e (lineOf pa) with
    | (s1, none) => (s1, .error (lineOf pa))
    | (s1, some bytes) => match s1.fetchPieces pan slot part r with
      | (s2, .ok rest) => (s2, .ok ((bytes.drop (pa - lineOf pa)).take p.len ++ rest))
      | (s2, .error l) => (s2, .error l)

/-- The pieces of a fetch of `n` bytes, at most four lines. -/
def fetchSpans (va n fuel : Nat) : List Piece :=
  match fuel with
  | 0 => []
  | fuel + 1 =>
    if n = 0 then []
    else
      let k := Nat.min n (128 - va % 128)
      { lane := 0, va := va, sh := 0, len := k } :: fetchSpans (va + k) (n - k) fuel

/-- Words from bytes (R4). -/
def toWords (bs : List Byte) (n : Nat) : List Word :=
  (List.range n).map fun k => BitVec.ofNat 32 (ofBytes ((bs.drop (4 * k)).take 4))

/-- What a fetch comes to: the words, or the state in which it waits or has faulted. -/
inductive Fetched where
  | words (s : State) (ws : List Word)
  | stop (s : State)

/-- `n` bytes fetched for the group of a context, after the checks of R54 for execution (R59), the hold for coded blocks
(R75) and the data check (R389). A fetch some line of which has to wait leaves the state before it, with what it waits for under
way (R86). -/
def Ctx.fetchBytes (c : Ctx) (s : State) (va n : Nat) : Fetched :=
  let ps := (fetchSpans va n 4).map fun p => { p with lane := c.lanes.headD 0 }
  match c.translate s .x {} (ps.map fun p => (p.lane, p.va)) with
  | (s1, none) => .stop s1
  | (s1, some leaves) =>
    let placed := ps.filterMap fun p => (leaves.lookup p.va).map fun e => (p, e)
    match c.blockCheck s1 placed with
    | .wait s2 => .stop s2
    | .faults fs => .stop (c.blockFault s1 fs)
    | .pass =>
      match s1.fetchPieces c.pan c.slot c.tm.part placed with
      | (s2, got) =>
        if !s2.wants.isEmpty then .stop (s1.orWait s2)
        else match got with
          | .ok bytes => .words s2 (toWords bytes (n / 4))
          | .error line => .stop (s2.dataFault c.tm line c.run.addr c.run.pos)

/-- The words of the run that a group has chosen: from the decoded runs of its quarter, else fetched, the header first and
then the whole, whatever else of the header breaks a rule (R15, R40, R159). A word without TAG, or with no legal COUNT, is fetched
alone (DEDUCED: log 91). -/
def Ctx.fetchRun (c : Ctx) (s : State) : Fetched :=
  let q := quarterOf c.slot
  let a := asid c.tm.part c.tm.slot
  match (s.pan c.pan).decodedRun q a c.run.addr with
  | some d => .words (s.modPan c.pan fun n => n.useDecoded q d) d.words
  | none =>
    if c.run.addr % 4 ≠ 0 then .words s []
    else match c.fetchBytes s c.run.addr 4 with
      | .stop s1 => .stop s1
      | .words s1 hw =>
        if headerSized (hw.headD 0).toNat then
          match c.fetchBytes s1 c.run.addr (4 * runLength (hw.headD 0).toNat) with
          | .stop s2 => .stop s2
          | .words s2 ws =>
            if runOk ws (c.tm.budget c.g.role) then
              .words (s2.modPan c.pan fun n => n.useDecoded q { asid := a, addr := c.run.addr, words := ws }) ws
            else .words s2 ws
        else .words s1 hw

/-! ## The beginning of a run, R14, R15, R20, R21, R163 -/

/-- Threads of a torn slot exit at a run boundary (R375). -/
def State.tornBoundary (s : State) (p k : Nat) (g : Group) : State :=
  let g1 := g.exitLanes (g.runnable.map (·.1))
  s.putGroup p k { g1 with choice := none, st := g1.restState }

/-- A group none of whose threads is runnable parks (R163). One whose threads wait at JOIN with children outstanding is
sealed and swapped out, and leaves its slot, once the journal has caught up and its queued matrix commands are done (R266, R326). -/
def State.parkGroup (s : State) (p k : Nat) (g : Group) (tm : Team) : State :=
  if g.children != 0 && (g.th.any fun e => e.2.park == some .join) && !(g.th.any fun e => e.2.park == some .joinEv) then
    if !(s.pan p).caughtUp || ((s.pan p).core.arrays.any fun e => e.2.any fun x => x.gk == gkeyOf tm g.num) then s
    else
    let s1 := s.modCore p fun c => c.vacate k g s.clock.cycles
    ({ s1 with joined := s1.joined ++ [{ gk := gkeyOf tm g.num, g := g.stopped }] } : State).synced p
  else s.setGroup p k { g with st := g.restState }

/-- The chosen set begins or re-enters its run (R14, R15, R20, R21). A pending group makes its choice and evaluates the header's
wait, and begins once it stands in the active set (R163). An illegal run is trapped with the t-registers at 0, since those of the
run before are dead; R330 names a position by a trapping instruction, and here there is none: %xpos is 0, or that of the re-entry,
and ACT is 1 in every lane of the set (DESIGN CHOICE: log 92). -/
def State.beginChosen (s : State) (p k : Nat) (g : Group) (tm : Team) (ch : Choice) : State :=
  let pos := ch.entry.getD 0
  let c : Ctx := { pan := p, slot := k, g := g, run := { addr := ch.addr, pos := pos, set := ch.set }, tm := tm,
                   lanes := lanesOf ch.set }
  match c.fetchRun (s.setGroup p k g) with
  | .stop s1 => s1
  | .words s1 ws =>
    let g := { g with walks := [], blocks := [] }
    let g1 := if ch.entry.isSome then g else g.modThreads (lanesOf ch.set) fun _ t => { t with t := [] }
    let h := (ws.headD 0).toNat
    let wait := (bitsOf h 12 8, bitsOf h 20 4)
    if !runOk ws (tm.budget g.role) then
      if g.active then
        s1.takeTrap p k { g1 with choice := none } tm (lanesOf ch.set) ch.addr pos 4 (fun _ => ch.addr) (fun _ => true)
      else s1.setGroup p k { g with choice := some ch }
    else if ch.entry.isNone && !g.ctr.atMost wait.1 wait.2 then
      s1.setGroup p k { g with st := .hwait, choice := some { ch with wait := some wait } }
    else if !g.active then
      s1.setGroup p k { g with st := .bound, choice := some { ch with wait := if ch.entry.isSome then none else some wait } }
    else
      s1.setGroup p k { g1 with st := .run, choice := none, run := some (runIn ch.addr pos ch.set ws) }

/-- RUN_BEGIN: a group that executes no run makes its choice, or keeps the one it has made, and begins its run once the header's
wait holds and it stands in the active set, behind none to which it has yielded (R14, R19, R161, R163). -/
def execRunBegin (pan slot : Nat) (s0 : State) : Host.Outcome State Fault Refusal :=
  let s := s0.hadTurn pan slot
  match s.group pan slot with
  | none => .next s
  | some g => match s.team pan g.team with
    | none => .next s
    | some tm =>
      if g.run.isSome || g.st == .faultw || g.hold.isSome || s.isBehind pan slot || (s.pan pan).off ||
          s.heldByTest pan slot || (s.pan pan).isSealing g.team || decide ((s.pan pan).drc < g.pwait) then .next s
      else if (s.asSlot tm.part tm.slot).torn then .next (s.tornBoundary pan slot g)
      else
        let g1 := if g.choice.isSome then g else g.choose
        match g1.choice with
        | none => .next (s.parkGroup pan slot g1 tm)
        | some ch => .next (s.beginChosen pan slot g1 tm ch)

/-! ## The active set, R162 and R164 -/

/-- Groups of a quarter that hold an active place. -/
def PanCore.activeOf (c : PanCore) (q : Nat) : Tbl Group := c.groups.filter fun e => quarterOf e.1 == q && e.2.active

/-- GROUP_EXCHANGE: a group of the active set that is not ready gives its place to the pending group that has been ready
longest; a free place is filled (R162, R164). -/
def execGroupExchange (pan slot : Nat) (s : State) : Host.Outcome State Fault Refusal :=
  let now := s.clock.cycles
  let q := quarterOf slot
  if (s.pan pan).off then .next s
  else if ((s.pan pan).core.activeOf q).length < 8 then .next (s.modCore pan fun c => c.fillPlace q now)
  else match s.group pan slot with
    | some g => if g.active && !g.ready then .next (s.modCore pan fun c => c.yieldSwap slot now) else .next s
    | none => .next s

/-- FORCED_EXCHANGE: a pending group has been ready for 2,048 cycles, 128 for class 3; the active group that has been active
longest gives it its place at its next run boundary (R164, R358). -/
def execForcedExchange (pan slot : Nat) (s : State) : Host.Outcome State Fault Refusal :=
  let now := s.clock.cycles
  let c := (s.pan pan).core
  let q := quarterOf slot
  match s.group pan slot, c.pendingReady q with
  | some g, some j =>
    let (since, bound) := match tget c.groups j with
      | some h => (h.readySince, if c.urgent h then 128 else 2048)
      | none => (now, 2048)
    if !(s.pan pan).off && g.active && g.run.isNone && decide (since + bound ≤ now) &&
        (c.activeOf q).all (fun e => decide (g.activeSince ≤ e.2.activeSince)) then
      .next (s.modCore pan fun c => c.yieldSwap slot now)
    else .next s
  | _, _ => .next s

/-! ## An issue turn, R18, R133, R158, R418 -/

/-- A quarter is stalled: a miss of it has found the miss table full, and no entry has come free since (R58). -/
def Pan.stalled (n : Pan) (quarter : Nat) : Bool := n.full.contains quarter && decide (64 ≤ n.misses.length)

/-- The group of an issue turn may issue: it stands in an active place, in a run, and holds for nothing; one whose
context is being sealed has stopped (R362). -/
def State.mayIssue (s : State) (p k : Nat) (g : Group) : Bool :=
  !s.heldByTest p k && !s.isBehind p k && !(s.pan p).isSealing g.team && g.active && g.run.isSome && g.st == .run &&
  g.hold.isNone && !g.watching && decide (g.pwait ≤ (s.pan p).drc) && !(s.pan p).off && !(s.pan p).stalled (quarterOf k)

/-- The instruction at which the actor's group stands, where it may issue: its meaning's constructor, or none where its
words are no legal instruction. -/
def State.atTurn (s : State) : Option (Option Instr) :=
  match s.group s.actor.1 s.actor.2 with
  | some g => if s.mayIssue s.actor.1 s.actor.2 g then g.run.map fun r => (decodeRunWord (r.words.drop r.pos)).1 else none
  | none => none

/-- The words at the actor's place are no legal instruction: the illegal-instruction trap (R39). -/
def State.illegal (s : State) : State :=
  match s.issuer with
  | some (g, r, tm) =>
    ({ pan := s.actor.1, slot := s.actor.2, g := g, run := r, tm := tm, lanes := lanesOf r.set } : Ctx).trapAll s 3 0 r.pos
  | none => s

/-! ## The reorder point, R170 to R172 -/

/-- The key with which a thread waits at REGROUP. -/
def Thread.regroupKey (t : Thread) : Option Nat :=
  match t.park with
  | some (.regroup k) => some k.toNat
  | _ => none

/-- The groups of a team with a role, ascending by team group number: slot and group. -/
def PanCore.roleGroups (p : PanCore) (team : Nat) (role : Nat) : List (Nat × Group) :=
  (p.groups.filter fun e => e.2.team == team && e.2.role.code == role).foldl (fun l e =>
    (l.filter fun x => decide (x.2.num < e.2.num)) ++ [e] ++ l.filter fun x => decide (e.2.num < x.2.num)) []

/-- A regroup may take place: every participant that has not exited has arrived, some have, and the groups' counters are
0 (R170). -/
def regroupReady (gs : List (Nat × Group)) : Bool :=
  (gs.all fun e => e.2.th.all (fun t => t.2.st == .exited || t.2.regroupKey.isSome) && e.2.ctr.list.all (· == 0) && e.2.run.isNone) &&
  gs.any fun e => e.2.th.any fun t => t.2.regroupKey.isSome

/-- The arrived threads of a lane in the order of R171: by key, then by old group number. -/
def regroupLane (gs : List (Nat × Group)) (l : Nat) : List Thread :=
  let arrived := gs.filterMap fun e => match e.2.thread l with
    | some t => t.regroupKey.map fun k => (k, t)
    | none => none
  (arrived.foldl (fun out e =>
    (out.filter fun x => decide (x.1 ≤ e.1)) ++ [e] ++ out.filter fun x => decide (e.1 < x.1)) []).map (·.2)

/-- A thread released from REGROUP: runnable at the run after it, with pass count 0 (R171). -/
def Thread.regrouped (t : Thread) : Thread := { t with st := .runnable, park := none, pass := 0 }

/-- The threads of the i-th group after a regroup: of each lane, the i-th arrived thread; none where there is no more
(R171). -/
def regroupThreads (gs : List (Nat × Group)) (i : Nat) : Tbl Thread :=
  (List.range 32).filterMap fun l => ((regroupLane gs l)[i]?).map fun t => (l, t.regrouped)

/-- REGROUP_COMPLETE (R170 to R172): threads move lane by lane into the groups of the role, and those groups left without a
thread exit. An L1 of their new quarter keeps no line that could be older than what a thread has seen (R113). -/
def execRegroupComplete (pan team role : Nat) (s : State) : Host.Outcome State Fault Refusal :=
  let gs := (s.pan pan).core.roleGroups team role
  let out := match s.team pan team with
    | some tm => (s.joinedOf tm).any fun j => j.g.role.code == role
    | none => true
  if regroupReady gs && !out && !(s.pan pan).off then
    .next (gs.zipIdx.foldl (fun st e =>
      let g := { e.1.2 with th := regroupThreads gs e.2, overtaken := [] }
      (st.acquireAt pan (quarterOf e.1.1) 1).putGroup pan e.1.1 { g with st := g.restState }) s)
  else .next s

end Sys2Proof.Machine
end

