-- ==== Sys2Proof/Machine/Control.lean ====
section
/-! DEFINITION. Rows 0xD0 to 0xDF and the short forms: branches, calls, waits, launches, traps and special registers
(R316 to R335, R169). -/

namespace Sys2Proof.Machine

/-! ## Branches and calls, R318 and R319 -/

/-- A thread that goes on at a run address, before the header (R161). -/
def Thread.goTo (t : Thread) (addr : Nat) : Thread := { t with addr := addr, entry := none }

/-- An instruction after which its active threads stand where `f` puts them and the others fall through (R17, R318). -/
def Ctx.leaveBy (c : Ctx) (s : State) (n : Nat) (f : Nat → Thread → Thread) : State :=
  c.finish s (c.g.modThreads c.lanes f) n c.lanes

/-- The target of BRA and CALL in a thread (R318). -/
def Ctx.nearTarget (c : Ctx) (x : Std) (t : Thread) : Nat := wrap (c.run.addr + 4 * sval (srcNat c.g t 1 x.a) 32) 64

/-- The target of BRX and CALLX in a thread (R318). -/
def Ctx.farTarget (c : Ctx) (x : Std) (t : Thread) : Nat := srcNat c.g t 2 x.a

/-- BRA (R318). -/
def execBra (x : Std) (s : State) : Host.Outcome State Fault Refusal :=
  execFront 0xD0 x s fun s c => c.leaveBy s (stdWords x) fun _ t => t.goTo (c.nearTarget x t)

/-- BRX (R318). -/
def execBrx (x : Std) (s : State) : Host.Outcome State Fault Refusal :=
  execFront 0xD1 x s fun s c => c.leaveBy s (stdWords x) fun _ t => t.goTo (c.farTarget x t)

/-- The call-depth trap (R319): every thread of the set enters, each with its own %cdepth. -/
def Ctx.depthTrap (c : Ctx) (s : State) : State :=
  s.takeTrap c.pan c.slot { c.g with run := none } c.tm (lanesOf c.run.set) c.run.addr c.run.pos 10
    (c.at fun _ t => t.stack.length) (fun l => c.lanes.contains l)

/-- A call: the fall-through address pushed, then the branch (R319). -/
def Ctx.call (c : Ctx) (s : State) (x : Std) (target : Thread → Nat) : State :=
  if c.lanes.any fun l => c.at (fun _ t => t.stack.length) l == 16 then c.depthTrap s
  else c.leaveBy s (stdWords x) fun _ t => { t.goTo (target t) with stack := c.run.after :: t.stack }

/-- CALL (R319). -/
def execCall (x : Std) (s : State) : Host.Outcome State Fault Refusal :=
  execFront 0xD2 x s fun s c => c.call s x (c.nearTarget x)

/-- CALLX (R319). -/
def execCallx (x : Std) (s : State) : Host.Outcome State Fault Refusal :=
  execFront 0xD3 x s fun s c => c.call s x (c.farTarget x)

/-- RET (R319). -/
def execRet (x : Std) (s : State) : Host.Outcome State Fault Refusal :=
  execFront 0xD4 x s fun s c =>
    if c.lanes.any fun l => c.at (fun _ t => t.stack.length) l == 0 then c.depthTrap s
    else c.leaveBy s (stdWords x) fun _ t => { t.goTo (t.stack.headD 0) with stack := t.stack.drop 1 }

/-! ## Short forms, R320 to R322 -/

/-- A short form executes for every thread that reaches it (R22). -/
def execShort (s : State) (f : State → Ctx → State) : Host.Outcome State Fault Refusal :=
  match s.issuer with
  | none => .next s
  | some (g, r, tm) =>
    .next (f s { pan := s.actor.1, slot := s.actor.2, g := g, run := r, tm := tm, lanes := lanesOf r.set })

/-- NOP. -/
def execNop (s : State) : Host.Outcome State Fault Refusal := execShort s fun s c => c.finish s c.g 1 []

/-- WAIT (R322). -/
def execWait (n : BitVec 6) (sel : Byte) (s : State) : Host.Outcome State Fault Refusal :=
  execShort s fun s c => if c.g.ctr.atMost sel.toNat n.toNat then c.finish s c.g 1 [] else c.wait s 1

/-- A thread that goes on after the word at `pos` of a run: at the next position, or before the fall-through run. -/
def RunIn.next (r : RunIn) (pos : Nat) (t : Thread) : Thread :=
  if pos = r.count then { t with addr := r.after, entry := none } else { t with addr := r.addr, entry := some pos }

/-- YIELD (R322): the run ends for its threads, which stand at the next position, and the group places itself last. Their
t-registers stay as they are, since a later choice re-enters the run (DESIGN CHOICE: log 93). -/
def execYield (s : State) : Host.Outcome State Fault Refusal :=
  execShort s fun s c =>
    ({ c with run := { c.run with yld := true } } : Ctx).finish s
      (c.g.modThreads c.lanes fun _ t => c.run.next (c.run.pos + 1) t) 1 c.lanes

/-- What the exit of threads brings about in their group and team (R227, R251). -/
def State.afterExit (s : State) (p k team : Nat) : State := (s.resolveParks p k).barCheck p team

/-- EXIT (R321). -/
def execExit (s : State) : Host.Outcome State Fault Refusal :=
  execShort s fun s c => (c.exitAt s 1 c.lanes).afterExit c.pan c.slot c.g.team

/-- The target of a short branch (R320). -/
def Ctx.shortTarget (c : Ctx) (off : Int) : Nat := wrap (c.run.addr + 4 * off) 64

/-- BRS (R320). -/
def execBrs (off : BitVec 24) (s : State) : Host.Outcome State Fault Refusal :=
  execShort s fun s c => c.leaveBy s 1 fun _ t => t.goTo (c.shortTarget off.toInt)

/-- BRP (R320): the threads whose predicate reads true after NEG branch. It waits while the predicate is empty (R28). -/
def execBrp (code : BitVec 6) (neg : Bool) (off : BitVec 17) (s : State) : Host.Outcome State Fault Refusal :=
  execShort s fun s c =>
    if 39 ≤ code.toNat then c.trapAll s 3 0 c.run.pos
    else if c.lanes.any fun l => c.at (fun _ t => (t.predEmpty code.toNat).toNat) l == 1 then c.stall s
    else
      let taken := c.lanes.filter fun l => c.at (fun _ t => (t.pred code.toNat != neg).toNat) l == 1
      c.finish s (c.g.modThreads taken fun _ t => t.goTo (c.shortTarget off.toInt)) 1 taken

/-- MOVI (R320): a v-register that an earlier producer has left empty receives the write once it is full (R168); one still
in flight from an earlier run is an unlisted dependence (R38). -/
def execMovi (imm : BitVec 16) (d : Byte) (s : State) : Host.Outcome State Fault Refusal :=
  execShort s fun s c =>
    let touched := c.g.overtaken.any fun e => c.lanes.contains e.1 && e.2 == d.toNat
    let s1 := if touched then { s with freeCtr := s.freeCtr + 1 } else s
    if c.tm.budget c.g.role ≤ d.toNat then c.trapAll s 3 0 c.run.pos
    else if touched && Config.stillInFlight s.freeCtr then c.trapAll s1 6 d.toNat c.run.pos
    else if c.lanes.any fun l => c.at (fun g t => (dstEmpty g t 1 (.v d)).toNat) l == 1 then c.stall s1
    else
      let c' : Ctx := { c with run := { c.run with wrote := c.run.wrote ++ c.lanes.map fun l => (l, d.toNat, 1) } }
      c'.finish s1 ((c.g.retireTouched (c.lanes.map fun l => (l, d.toNat))).put (.v d) 1 (c.lanes.map fun l => (l, (imm.signExtend 32).toNat))) 1 []

/-- BKPT: cause 2, with CODE in %xinfo and the position after it (R330, R333). -/
def execBkpt (code : Byte) (s : State) : Host.Outcome State Fault Refusal :=
  execShort s fun s c => c.trapAll s 2 code.toNat (c.run.pos + 1)

/-! ## Waiting for time, R323 -/

/-- Station time has reached the time of every active thread (R323). -/
def Ctx.reached (c : Ctx) (s : State) (x : Std) : Bool :=
  c.lanes.all fun l => decide (timeNs (c.at (fun g t => srcNat g t 2 x.a) l) ≤ timeNs s.clock.time)

/-- TWAIT (R323). -/
def execTwait (x : Std) (s : State) : Host.Outcome State Fault Refusal :=
  execFront 0xDC x s fun s c => if c.reached s x then c.finish s c.g (stdWords x) [] else c.wait s (stdWords x)

/-- TWAIT_EXPIRY: the TWAIT at which a group stands completes once station time has reached its time (R323). -/
def execTwaitExpiry (pan slot : Nat) (s : State) : Host.Outcome State Fault Refusal :=
  let s1 := { s with actor := (pan, slot) }
  match s1.atTurn with
  | some (some (.twait x)) => execTwait x s1
  | _ => .next s

/-! ## Launching and joining, R324 to R329 -/

/-- An issue of EV with its destination: the state's next number, and the group (R34). -/
def Ctx.event (c : Ctx) (s : State) (d : Dst) : Group :=
  c.record s.nextId (some .ev) d 1 .zero (c.lanes.map fun l => (l, {})) true none

/-- LAUNCH (R324). -/
def execLaunch (x : Std) (s : State) : Host.Outcome State Fault Refusal :=
  execFront 0xD5 x s fun s c =>
    let off := c.one 1 x.a
    if c.counterFull .ev then c.stall s
    else if off % 16 ≠ 0 ∨ !c.tm.holds off 32 then s.scratchFault c.tm c.run.addr c.run.pos
    else
      let f (o n : Nat) : Nat := mnat (s.pan c.pan).core.scratch (c.tm.base + off + o) n
      let r : LaunchReq :=
        { gk := c.gk, pan := c.pan, slot := c.slot, asSlot := c.tm.slot, issue := s.nextId, lanes := c.lanes, desc := f 0 8,
          param := f 8 8, teams := f 16 4, tag := f 20 4, ok := f 24 8 == 0, rc := (s.pan c.pan).rc + 1 }
      c.finish { s with nextId := s.nextId + 1, launches := s.launches ++ [r] } (c.event s x.d) (stdWords x) []

/-- JOIN (R326): the active threads wait for EV, and then, with children outstanding, for them; with neither they go on, an acquire at
.dev. The others go on without waiting. -/
def execJoin (x : Std) (s : State) : Host.Outcome State Fault Refusal :=
  execFront 0xD6 x s fun s c =>
    if c.g.ctr.ev = 0 ∧ c.g.children = 0 then c.finish (s.acquireAt c.pan (quarterOf c.slot) 2) c.g (stdWords x) []
    else c.leaveBy s (stdWords x) fun _ t =>
      { t.goTo c.run.after with st := .parked, park := some (if c.g.ctr.ev = 0 then .join else .joinEv) }

/-- POST (R327). -/
def execPost (x : Std) (s : State) : Host.Outcome State Fault Refusal :=
  execFront 0xD7 x s fun s c =>
    if c.counterFull .ev then c.stall s
    else
      let r : PostReq :=
        { gk := c.gk, pan := c.pan, issue := s.nextId, lanes := c.lanes, word := c.one 1 x.b % 8,
          val := BitVec.ofNat 32 (c.one 1 x.a), rc := (s.pan c.pan).rc + 1 }
      c.finish { s with nextId := s.nextId + 1, posts := s.posts ++ [r] } (c.event s .none) (stdWords x) []

/-- RECX (R328): one record per active thread, in ascending lane order. -/
def execRecx (x : Std) (s : State) : Host.Outcome State Fault Refusal :=
  execFront 0xDD x s fun s c =>
    if c.counterFull .ev then c.stall s
    else
      let n := x.fn.toNat / 8 + 1
      let first := match x.b with
        | .v k => k.toNat
        | _ => 0
      let rs := c.lanes.filterMap fun l => (c.g.thread l).map fun t =>
        ({ gk := c.gk, pan := c.pan, issue := s.nextId, lane := l, node := srcNat c.g t 1 x.a,
           words := (List.range n).map fun k => t.rv (first + k), rc := (s.pan c.pan).rc + 1 } : RecReq)
      c.finish { s with nextId := s.nextId + 1, recs := s.recs ++ rs } (c.event s x.d) (stdWords x) []

/-- REGROUP (R170, R329): the active threads arrive and park, to go on at the run after it. -/
def execRegroup (x : Std) (s : State) : Host.Outcome State Fault Refusal :=
  execFront 0xD8 x s fun s c =>
    c.leaveBy s (stdWords x) fun _ t =>
      { t.goTo c.run.after with st := .parked, park := some (.regroup (BitVec.ofNat 32 (srcNat c.g t 1 x.a))) }

/-- Every thread of every group of a team exits (R335); those groups' runs, choices and holds end. -/
def PanCore.haltTeam (p : PanCore) (team : Nat) : PanCore :=
  { p with
    groups := tmap p.groups fun _ g => if g.team = team then g.exitAll else g
    semq := tmap p.semq fun _ l => l.filter fun k => match tget p.groups k with
      | some g => g.team != team
      | none => true }

/-- HALT (R335). -/
def execHalt (x : Std) (s : State) : Host.Outcome State Fault Refusal :=
  execFront 0xDF x s fun s c =>
    let s1 := { s with joined := s.joined.filter fun j => j.gk.team_ != c.gk.team_ }
    (s1.modCore c.pan fun p => p.haltTeam c.g.team).settlePan c.pan

/-! ## Traps, R330, R332, R333 -/

/-- TRAP: cause 1 for the active threads, with A in %xinfo; the others fall through (R330, R333). -/
def execTrap (x : Std) (s : State) : Host.Outcome State Fault Refusal :=
  execFront 0xD9 x s fun s c =>
    let s1 := s.takeTrap c.pan c.slot (c.g.advance c.run (stdWords x) c.lanes) c.tm c.lanes c.run.addr c.run.count 1
      (c.at fun g t => srcNat g t 1 x.a) (fun _ => true)
    if c.run.yld then s1.yielded c.pan c.slot else s1

/-- The positions at which instructions of a run begin (R332). -/
def starts (ws : List Word) (pos fuel : Nat) : List Nat :=
  match fuel with
  | 0 => []
  | fuel + 1 =>
    match ws with
    | [] => []
    | w :: _ =>
      let n := wordCount w.toNat (ws.getD 1 0).toNat
      pos :: starts (ws.drop n) (pos + n) fuel

/-- A run may be returned to at a position: it passes R15, and the position is that of an instruction or COUNT (R332). -/
def returnOk (ws : List Word) (budget pos : Nat) : Bool :=
  let n := (ws.headD 0).toNat % 32
  runOk ws budget && (pos == n || (starts ((ws.drop 1).take n) 0 24).contains pos)

/-- The runs at the addresses fetched, in ascending lane order. -/
def Ctx.fetchAll (c : Ctx) (s : State) (addrs : List Nat) : Except State (State × List (Nat × List Word)) :=
  match addrs with
  | [] => .ok (s, [])
  | a :: r =>
    match ({ c with run := { c.run with addr := a, pos := 0 } } : Ctx).fetchRun s with
    | .stop s1 => .error s1
    | .words s1 ws => match c.fetchAll s1 r with
      | .error s2 => .error s2
      | .ok (s2, rest) => .ok (s2, (a, ws) :: rest)

/-- ERET (R332). -/
def execEret (x : Std) (s : State) : Host.Outcome State Fault Refusal :=
  execFront 0xDE x s fun s c =>
    if c.lanes.any fun l => c.at (fun _ t => t.mode.toNat) l == 0 then c.trapAll s 3 0 c.run.pos
    else match c.fetchAll s ((c.lanes.map fun l => c.at (fun _ t => t.xpc.toNat) l).dedup) with
      | .error s1 => s1
      | .ok (s1, runs) =>
        let words (t : Thread) : List Word := (runs.lookup t.xpc.toNat).getD []
        let bad := c.lanes.find? fun l =>
          c.at (fun g t => (returnOk (words t) (c.tm.budget g.role) t.xpos.toNat).toNat) l == 0
        match bad with
        | some l => c.trapAll s1 4 (c.at (fun _ t => t.xpc.toNat) l) c.run.pos
        | none => c.leaveBy s1 (stdWords x) fun _ t =>
            let h := ((words t).headD 0).toNat
            t.trapReturn (h % 32) ((t.xpc.toNat + 4 * runLength h) % 2 ^ 64)

/-! ## Special registers, R169, R331, R334 -/

/-- A device-register word of the event queue (R148). -/
def EvQueue.read (q : EvQueue) (fn : Nat) : Nat :=
  match fn with
  | 0x18 => q.semen.toNat * 64 + q.sem
  | 0x19 => q.head % 2 ^ 32
  | 0x1A => q.tail % 2 ^ 32
  | _ => match q.recs with
    | r :: _ => ofBytes ((r.drop (4 * (fn - 0x20))).take 4)
    | [] => 0

/-- The eight counters as %ctr holds them (R169). -/
def Counters.word (c : Counters) : Nat := c.ld + c.st * 2 ^ 6 + c.cp * 2 ^ 12 + c.mx * 2 ^ 18 + c.gt * 2 ^ 24 +
  c.cl * 2 ^ 30 + c.gr * 2 ^ 36 + c.ev * 2 ^ 42

/-- The value of a special register in a thread (R169, R331, R334). -/
def Ctx.special (c : Ctx) (s : State) (fn l : Nat) (t : Thread) : Nat :=
  match fn with
  | 0x00 => l
  | 0x01 => c.g.num
  | 0x02 => c.tm.num
  | 0x03 => c.tm.grid
  | 0x04 => c.pan
  | 0x05 => quarterOf c.slot
  | 0x06 => c.g.role.code
  | 0x08 => s.clock.time
  | 0x09 => c.g.dline.toNat
  | 0x0A => c.g.rung
  | 0x0B => wrap (s.pan c.pan).pw.bal 32
  | 0x0D => t.rng.toNat
  | 0x0E => t.flags.toNat
  | 0x0F => c.g.ctr.word
  | 0x10 => t.xpc.toNat
  | 0x11 => t.xpos.toNat
  | 0x12 => t.xcause.toNat
  | 0x13 => t.xinfo.toNat
  | 0x14 => t.xlanes.toNat
  | 0x15 => t.stack.length
  | 0x18 | 0x19 | 0x1A | 0x20 | 0x21 | 0x22 | 0x23 | 0x24 | 0x25 | 0x26 | 0x27 => (s.pan c.pan).core.evq.read fn
  | 0x28 => (s.part c.tm.part).dstat
  | _ => 0

/-- Registers of a special register's value. -/
def specialRegs (fn : Nat) : Nat := match srWide fn with
  | some true => 2
  | _ => 1

/-- SRD (R334). -/
def execSrd (x : Std) (s : State) : Host.Outcome State Fault Refusal :=
  execFront 0xDA x s fun s c =>
    c.write s x (specialRegs x.fn.toNat) (c.lanes.filterMap fun l => (c.g.thread l).map fun t => (l, c.special s x.fn.toNat l t))

/-- The seed step of %rngseed (R169). -/
def seedRng (seed l : Nat) : DWord := BitVec.ofNat 64 (seed ^^^ (l * 0x9E3779B97F4A7C15 % 2 ^ 64))

/-- A thread after an SWR to a register that it holds. -/
def Thread.setSpecial (t : Thread) (fn l v : Nat) : Thread :=
  match fn with
  | 0x0C => { t with rng := seedRng v l }
  | 0x0D => { t with rng := BitVec.ofNat 64 v }
  | 0x0E => { t with flags := BitVec.ofNat 5 v }
  | 0x10 => { t with xpc := BitVec.ofNat 64 v }
  | 0x11 => { t with xpos := BitVec.ofNat 32 (v % 32) }
  | _ => t

/-- EVQ_TAIL written (R148): a value beyond HEAD is ignored; the records passed over are consumed. -/
def EvQueue.setTail (q : EvQueue) (v : Nat) : EvQueue :=
  let d := (v + 2 ^ 32 - q.tail % 2 ^ 32) % 2 ^ 32
  if d ≤ q.head - q.tail then { q with tail := q.tail + d, recs := q.recs.drop d } else q

/-- A pan-controller register written (R148). -/
def EvQueue.write (q : EvQueue) (fn v : Nat) : EvQueue :=
  match fn with
  | 0x18 => { q with semen := bitOf v 6, sem := v % 64 }
  | 0x1A => q.setTail v
  | _ => q

/-- SWR (R334). One to SAL_DSTAT leaves the pan only once its record is durable (R129). -/
def execSwr (x : Std) (s : State) : Host.Outcome State Fault Refusal :=
  execFront 0xDB x s fun s c =>
    let fn := x.fn.toNat
    let v := c.at fun g t => srcNat g t (specialRegs fn) x.a
    let top := v (c.lanes.getLastD 0)
    if fn = salDstatFn then
      c.finish { s with dstatClears := s.dstatClears ++ [(c.pan, c.tm.part, top, (s.pan c.pan).rc + 1)] } c.g (stdWords x) []
    else if fn = 0x18 ∨ fn = 0x1A then
      c.finish (s.modCore c.pan fun p => ({ p with evq := p.evq.write fn top } : PanCore).postHeld p.held) c.g (stdWords x) []
    else c.finish s (c.g.modThreads c.lanes fun l t => t.setSpecial fn l (v l)) (stdWords x) []

/-- EVQ_TAIL_WRITE (R148). -/
def execEvqTailWrite (pan : Nat) (value : Word) (s : State) : Host.Outcome State Fault Refusal :=
  if (s.pan pan).off then .next s
  else .next (s.modCore pan fun p => ({ p with evq := p.evq.setTail value.toNat } : PanCore).postHeld p.held)

end Sys2Proof.Machine
end

