-- ==== Sys2Proof/Machine/Time.lean ====
section
/-! DEFINITION. Station time (R353 to R356). -/

namespace Sys2Proof.Machine

/-- Station time, in units of 2^-16 ns. -/
def Clock.fine (c : Clock) : Nat := (c.sec * 10 ^ 9 + c.ns) * 2 ^ 16 + c.frac

/-- Station time set, in units of 2^-16 ns (R353). -/
def Clock.set (c : Clock) (x : Nat) : Clock :=
  { c with sec := x / 2 ^ 16 / 10 ^ 9 % 2 ^ 48, ns := x / 2 ^ 16 % 10 ^ 9, frac := x % 2 ^ 16 }

/-- Station time and the arithmetic clock after some nanoseconds of the local oscillator and some cycles: of an offset that is still
owed, at most a thousandth of the time that passes is removed (R356). -/
def Clock.add (c : Clock) (ns cycles : Nat) : Clock :=
  let most : Int := ((ns * 2 ^ 16 / 1000 : Nat) : Int)
  let d := max (-most) (min most c.owed)
  { c.set (((c.fine + ns * 2 ^ 16 : Nat) : Int) + d).toNat with owed := c.owed - d, cycles := c.cycles + cycles }

/-- Time passes (log 2). -/
def State.advance (s : State) (ns cycles : Nat) : State := { s with clock := s.clock.add ns cycles }

end Sys2Proof.Machine
end

