-- ==== Sys2Proof/Machine/Journal.lean ====
section
/-! DEFINITION. The journal of a pan: the words of its state, the records of an event, and events in retirement order, each with the
pan's state before it (R376 to R380, log 9). -/

namespace Sys2Proof.Machine

/-! ## The words of a pan's state, R376 (log 114) -/

/-- A number as 32-bit words of an image, from word `k` on. -/
def wordsAt (k n x : Nat) : List (Nat × Word) := (List.range n).map fun i => (k + i, BitVec.ofNat 32 (x / 2 ^ (32 * i)))

/-- Bytes as words of an image, from word `k` on. -/
def bytesAt (k : Nat) (bs : List Byte) : List (Nat × Word) := wordsAt k ((bs.length + 3) / 4) (ofBytes bs)

/-- Registers as words of an image, from word `k` on. -/
def regsAtWord (k : Nat) (t : Tbl Word) : List (Nat × Word) := t.map fun e => (k + e.1, e.2)

/-- What a parked thread waits for, as numbers. -/
def Park.nums : Park → List Nat
  | .lanes addr pos mask a b issue => [1, addr, pos, mask.toNat, a.toNat, b.toNat, issue]
  | .regroup key => [2, key.toNat]
  | .bar id mask addr pos => [3, id, mask, addr, pos]
  | .joinEv => [4]
  | .join => [5]

/-- The control word of a thread: its state, MODE, pass count and entry. -/
def Thread.control (t : Thread) : Nat :=
  (match t.st with
    | .runnable => 0
    | .parked => 1
    | .exited => 2) + t.mode.toNat * 4 + t.pass * 8 + (match t.entry with
    | none => 0
    | some p => p + 1) * 256 + (match t.relFence with
    | none => 0
    | some x => x + 1) * 2 ^ 16

/-- The words of a thread. -/
def Thread.words (t : Thread) : List (Nat × Word) :=
  regsAtWord 0 t.v ++ regsAtWord 256 t.t ++ regsAtWord 264 t.tsave ++ wordsAt 272 1 t.p.toNat ++ wordsAt 273 1 t.pe.toNat ++
  wordsAt 274 8 t.ve.toNat ++ wordsAt 282 1 t.flags.toNat ++ wordsAt 283 2 t.rng.toNat ++ wordsAt 285 2 t.addr ++
  wordsAt 287 1 t.control ++ wordsAt 288 2 t.xpc.toNat ++ [(290, t.xpos), (291, t.xcause)] ++ wordsAt 292 2 t.xinfo.toNat ++
  [(294, t.xlanes)] ++ (match t.park with
    | none => []
    | some x => x.nums.zipIdx.flatMap fun e => wordsAt (296 + 2 * e.2) 2 e.1) ++
  (t.stack.zipIdx.flatMap fun e => wordsAt (312 + 2 * e.2) 2 e.1) ++
  t.seen.zipIdx.flatMap fun e => wordsAt (1024 + 6 * e.2) 2 e.1.1 ++
    wordsAt (1026 + 6 * e.2) 4 (e.1.2.scope + e.1.2.pan * 2 ^ 32 + e.1.2.team * 2 ^ 64 + e.1.2.slot * 2 ^ 96)

/-- The position word of a group, as two words of run address and one of position: the header of a begun run has been accepted
(R377, R381). -/
def Group.position (g : Group) : List (Nat × Word) :=
  match g.run with
  | some r => wordsAt 0 2 r.addr ++ wordsAt 2 1 (2 ^ 31 + r.pos) ++ wordsAt 3 1 r.set.toNat
  | none => match g.choice with
    | some ch => wordsAt 0 2 ch.addr ++ wordsAt 2 1 (ch.entry.getD 0) ++ wordsAt 3 1 ch.set.toNat
    | none => wordsAt 0 4 0

/-- The control word of a group: its role, bank, place and state. -/
def Group.control (g : Group) : Nat :=
  g.num + g.role.code * 256 + g.bank * 2 ^ 10 + g.active.toNat * 2 ^ 16 + (match g.st with
    | .bound => 0
    | .run => 1
    | .hwait => 2
    | .park => 3
    | .faultw => 4) * 2 ^ 17 + g.team * 2 ^ 20

/-- The words of a group slot: its position word first. -/
def Group.words (g : Group) : List (Nat × Word) :=
  g.position ++ wordsAt 4 1 g.control ++ wordsAt 5 1 g.children ++ (g.ctr.list.zipIdx.flatMap fun e => wordsAt (8 + e.2) 1 e.1) ++
  wordsAt 16 2 g.ge.toNat ++ wordsAt 18 2 g.dline.toNat ++ wordsAt 20 1 g.rung ++ wordsAt 21 1 g.mx.status ++ wordsAt 22 1 g.mx.failed ++
  wordsAt 23 1 g.mx.seq ++ wordsAt 24 1 g.mx.mode64.toNat ++ regsAtWord 64 g.g ++
  (g.th.flatMap fun e => e.2.words.map fun w => (2 ^ 16 + 2 ^ 12 * e.1 + w.1, w.2)) ++
  (g.mx.cells.flatMap fun e => wordsAt (2 ^ 18 + 2 * e.1) 2 e.2) ++
  (g.mx.bufs.flatMap fun e => bytesAt (2 ^ 19 + 2 ^ 12 * e.1) e.2.data ++ bytesAt (2 ^ 19 + 2 ^ 12 * e.1 + 2 ^ 11) e.2.auxb) ++
  g.barr.zipIdx.flatMap fun e => wordsAt (2 ^ 20 + 2 ^ 12 * e.2) 1 e.1.bbuf ++ bytesAt (2 ^ 20 + 2 ^ 12 * e.2 + 1) e.1.b.data

/-- The words of commands in engine queues, each with its issue and its descriptor. -/
def commandWords (k : Nat) (xs : List (Nat × Nat)) : List (Nat × Word) :=
  xs.zipIdx.flatMap fun e => wordsAt (k + 32 * e.2) 2 e.1.1 ++ wordsAt (k + 32 * e.2 + 2) 24 e.1.2

/-- The words of a pan that belong to no group slot: semaphores, event queue, stage rings, commands, and scratchpad. -/
def PanCore.panWords (c : PanCore) : List (Nat × Word) :=
  (c.sems.flatMap fun e => wordsAt e.1 1 e.2) ++ wordsAt 64 1 (c.evq.sem + c.evq.semen.toNat * 64) ++ wordsAt 65 1 c.evq.head ++
  wordsAt 66 1 c.evq.tail ++ (c.evq.recs.zipIdx.flatMap fun e => bytesAt (128 + 8 * ((c.evq.tail + e.2) % 256)) e.1) ++
  (c.held.zipIdx.flatMap fun e => bytesAt (2304 + 8 * e.2) e.1) ++
  (c.rings.flatMap fun e => wordsAt (4096 + 64 * e.1) 4 (e.2.base + e.2.slotb * 2 ^ 32 + e.2.put * 2 ^ 64 + e.2.get * 2 ^ 96) ++
    wordsAt (4100 + 64 * e.1) 1 e.2.err.toNat ++ e.2.slots.zipIdx.flatMap fun x =>
      wordsAt (4101 + 64 * e.1 + x.2) 1 (x.1.2 * 4 + match x.1.1 with
        | .empty => 0
        | .full => 1
        | .held => 2)) ++
  commandWords (2 ^ 14) ((c.asm.flatMap (·.slices)).map fun x => (x.issue, x.desc)) ++
  commandWords (2 ^ 15) (c.squeue.flatten.map fun x => (x.issue, x.desc)) ++
  commandWords (2 ^ 16) (c.sready.map fun x => (x.issue, x.desc)) ++
  commandWords (2 ^ 17) (c.sluices.map fun e => (e.2.slice.issue, e.2.slice.desc)) ++
  commandWords (2 ^ 18) (c.arrays.flatMap fun e => e.2.map fun x => (x.issue, x.desc)) ++
  commandWords (2 ^ 19) (c.rqueue.map fun x => (x.issue, x.desc)) ++
  commandWords (2 ^ 20) (c.gfx.map fun x => (x.issue, x.a + x.b * 2 ^ 64)) ++
  ((c.scratch.map fun e => e.1 / 4).dedup.flatMap fun k => wordsAt (2 ^ 21 + k) 1 (mnat c.scratch (4 * k) 4))

/-! ## The records of an event, R377 and R378 -/

/-- The words that differ between two states of one part of an image, with OLD and NEW. -/
def wordDiff (before after : List (Nat × Word)) : List (Nat × Word × Word) :=
  let old (k : Nat) : Word := (before.lookup k).getD 0
  let new (k : Nat) : Word := (after.lookup k).getD 0
  ((before ++ after).map (·.1)).dedup.filterMap fun k => if old k = new k then none else some (k, old k, new k)

/-- The words of group slot `k` of a pan. -/
def PanCore.slotWords (c : PanCore) (k : Nat) : List (Nat × Word) := match tget c.groups k with
  | some g => g.words
  | none => []

/-- What an event changes: group slot or 255, word, OLD and NEW. A group slot that it changes has its position word among them (R377). -/
def PanCore.changes (before after : PanCore) : List (Nat × Nat × Word × Word) :=
  let slots := ((before.groups ++ after.groups).map (·.1)).dedup.filter fun k => tget before.groups k != tget after.groups k
  (slots.flatMap fun k =>
    let old := before.slotWords k
    let new := after.slotWords k
    let d := wordDiff old new
    (k, 2, (old.lookup 2).getD 0, (new.lookup 2).getD 0) :: (d.filter fun e => e.1 != 2).map fun e => (k, e.1, e.2.1, e.2.2)) ++
  (wordDiff before.panWords after.panWords).map fun e => (255, e.1, e.2.1, e.2.2)

/-- Events that an event's records make: one, or more where it would need more than 65,535 records (R378). -/
def eventParts (n : Nat) : Nat := Nat.max 1 ((n + 65534) / 65535)

/-- The records of an event from count `rc` on, which is split at a word boundary where it would need more than 65,535 (R378). -/
def eventRecords (rc : Nat) (ws : List (Nat × Nat × Word × Word)) : List JRec :=
  ws.zipIdx.map fun e =>
    { gs := e.1.1, word := e.1.2.1, rc := rc + e.2 / 65535, nrec := Nat.min 65535 (ws.length - e.2 / 65535 * 65535),
      idx := e.2 % 65535, old := e.1.2.2.1, new := e.1.2.2.2 }

/-- The record that ends the seal of a context (R378). -/
def sealRecord (rc team : Nat) : JRec := { kind := 1, gs := 255, rc := rc, new := BitVec.ofNat 32 (team % 8) }

/-- Bytes 0 to 27 of a journal record; a SEAL record has SWA 0 (R378). -/
def JRec.body (r : JRec) : List Byte :=
  bytesOf (r.kind * 2 ^ 28 + if r.kind = 1 then 0 else (Config.imageWord r.gs r.word).toNat) 4 ++ bytesOf r.rc 6 ++ bytesOf r.nrec 2 ++
  bytesOf r.idx 2 ++ bytesOf r.gs 1 ++ bytesOf 0 1 ++ bytesOf r.old.toNat 4 ++ bytesOf r.new.toNat 4 ++ bytesOf 0 4

/-- The 32 bytes of a journal record (R378). -/
def JRec.bytes (r : JRec) : List Byte := r.body ++ bytesOf (crc32c r.body) 4

/-- The journal of a pan with records more: a ring of 32,768 (R376). -/
def Pan.record (n : Pan) (rs : List JRec) : Pan :=
  { n with jring := (n.jring ++ rs).drop ((n.jring ++ rs).length - 32768) }

/-! ## Events -/

/-- The teams of a pan of which a group has moved are marked so, those that have left are forgotten, and the pan is not idle
(R362, R370). -/
def Pan.watched (before after : Pan) (now : Nat) : Pan :=
  let moved (k : Nat) : Bool :=
    after.core.groups.filter (fun e => e.2.team == k) != before.core.groups.filter (fun e => e.2.team == k)
  { after with
    pw := { after.pw with idle := now }
    pre := after.core.teams.map fun e =>
      let x := tgetD after.pre e.1 {}
      (e.1, if moved e.1 then { x with work := now } else x) }

/-- A pan after a step in which groups have moved: a pending group that was not ready, or not pending, and is now has been so since
now (R164); and a slot that no group holds stands behind none (R19). -/
def Pan.readied (before after : Pan) (now : Nat) : Pan :=
  let was (k : Nat) : Bool := match tget before.core.groups k with
    | some g => !g.active && g.ready
    | none => false
  { after with
    core := { after.core with groups := tmap after.core.groups fun k g =>
      if !g.active && g.ready && !was k then { g with readySince := now } else g }
    behind := after.behind.filter fun e => (tget after.core.groups e.1).isSome }

/-- A pan after a step: a step that changed its journalled state is one event more, with its records, and with the state before it kept
until they are durable (R377 to R379); a step that leaves the state durable makes none (log 9). The parts of a split event are undone
together. -/
def Pan.journalled (before after : Pan) (now cycles : Nat) : Pan :=
  if after.off ∨ after.core = before.core then { after with sync := false }
  else
    let n := before.watched (before.readied { after with sync := false } cycles) now
    if after.sync then n
    else
      let ws := before.core.changes n.core
      let k := eventParts ws.length
      { n.record (eventRecords (n.rc + 1) ws) with rc := n.rc + k, undo := n.undo ++ List.replicate k before.core }

/-- The events of one step, pan by pan. -/
def State.journal (before after : State) : State :=
  { after with pans := tmap after.pans fun p n => (before.pan p).journalled n after.clock.nowNs after.clock.cycles }

end Sys2Proof.Machine
end

