-- ==== Sys2Proof/Machine/Flags.lean ====
section
/-! DEFINITION. The five sticky flags of a thread: raising and clearing them (R167, R184, R225). -/

namespace Sys2Proof.Machine

/-- A thread with flags raised, given as %flags numbers them; they are sticky (R167). -/
def Thread.raise (t : Thread) (fl : Nat) : Thread := { t with flags := t.flags ||| BitVec.ofNat 5 fl }

/-- A thread with each flag cleared whose %flags bit is 1 in a mask (R225). -/
def Thread.clearFlags (t : Thread) (mask : Nat) : Thread := { t with flags := t.flags &&& ~~~ BitVec.ofNat 5 mask }

/-- Flags raised in each listed lane (R184, R210). -/
def Group.raise (g : Group) (fl : List (Nat × Nat)) : Group :=
  { g with th := tmap g.th fun l t => match fl.lookup l with
      | some f => t.raise f
      | none => t }

end Sys2Proof.Machine
end

