-- ==== Sys2Proof/Machine/FloatOps.lean ====
section
/-! DEFINITION. Rows 0x40 to 0x5F: floating-point and conversion instructions (R208 to R225). -/

namespace Sys2Proof.Machine

/-- PREC, RND and SGC of a float form (R31). -/
def precOf (x : Std) : Nat := x.fn.toNat / 16
def rndOf (x : Std) : Nat := x.fn.toNat / 2 % 8
def sgc25 (x : Std) : Bool := x.emp.getLsbD 2
def sgc26 (x : Std) : Bool := x.fn.getLsbD 0
def sgcOf (x : Std) : Nat := (sgc26 x).toNat * 2 + (sgc25 x).toNat

/-- The element format of PREC (R209). -/
def precFmt (prec : Nat) : Fmt := if prec = 0 then f32 else if prec = 1 then f64 else if prec = 2 then f16 else bf16

/-- Elements and registers of an operand under PREC (R209). -/
def precN (prec : Nat) : Nat := if 2 ≤ prec then 2 else 1
def precRegs (prec : Nat) : Nat := if prec = 1 then 2 else 1

/-- Element `k` of a float operand. An 8-bit immediate is converted to the element format; a literal supplies packed
elements directly and is converted from binary32 in a .f64 slot (R26, R209). -/
def floatElem (prec : Nat) (g : Group) (t : Thread) (src : Src) (k : Nat) : Nat :=
  let m := precFmt prec
  match src with
  | .imm i => (roundF m (ofInt i.toInt) 0).code
  | .lit w => if prec = 1 then (roundF f64 (decodeF f32 w.toNat) 0).code else elem w.toNat m.w k
  | _ => elem (srcNat g t (precRegs prec) src) m.w k

/-- Results of the active lanes with the flags each raised, written and raised; the run goes on (R210). -/
def Ctx.writeF (c : Ctx) (s : State) (x : Std) (k : Nat) (vals : List (Nat × FRes)) : State :=
  let g := c.g.raise (vals.map fun e => (e.1, e.2.flags))
  let c' : Ctx := { c with g := g }
  c'.write s x k (vals.map fun e => (e.1, e.2.code))

/-- The results of a function of the thread over the active lanes. -/
def Ctx.perLaneF (c : Ctx) (f : Nat → Thread → FRes) : List (Nat × FRes) :=
  c.lanes.filterMap fun l => (c.g.thread l).map fun t => (l, f l t)

/-- Elements' results as one register value, with the OR of their flags (R209). -/
def buildF (w n : Nat) (f : Nat → FRes) : FRes :=
  { code := build w n fun k => (f k).code, flags := (List.range n).foldl (fun a k => a ||| (f k).flags) 0 }

/-- A float instruction that acts on each element: `f` is given the format and the codes of A, B and C. -/
def execFloat (opc : Nat) (x : Std) (s : State) (f : Fmt → Nat → Nat → Nat → FRes) : Host.Outcome State Fault Refusal :=
  let prec := precOf x
  let m := precFmt prec
  match front opc x s with
  | .over_ s' => .next s'
  | .go s' c => .next (c.writeF s' x (precRegs prec) (c.perLaneF fun _ t =>
      buildF m.w (precN prec) fun k =>
        f m (floatElem prec c.g t x.a k) (floatElem prec c.g t x.b k) (floatElem prec c.g t x.c k)))

/-! ## R213, R214 -/

def execFadd (x : Std) (s : State) : Host.Outcome State Fault Refusal :=
  execFloat 0x40 x s fun m a b _ => addF m (signCtl m a (sgc25 x)) (signCtl m b (sgc26 x)) (rndOf x)

def execFsub (x : Std) (s : State) : Host.Outcome State Fault Refusal :=
  execFloat 0x41 x s fun m a b _ => addF m (signCtl m a (sgc25 x)) (signCtl m b (!sgc26 x)) (rndOf x)

def execFmul (x : Std) (s : State) : Host.Outcome State Fault Refusal :=
  execFloat 0x42 x s fun m a b _ => mulF m (signCtl m a (sgc25 x)) (signCtl m b (sgc26 x)) (rndOf x)

def execFfma (x : Std) (s : State) : Host.Outcome State Fault Refusal :=
  execFloat 0x43 x s fun m a b c => fmaF m (signCtl m a (sgc25 x)) b (signCtl m c (sgc26 x)) (rndOf x)

def execFdiv (x : Std) (s : State) : Host.Outcome State Fault Refusal :=
  execFloat 0x50 x s fun m a b _ => divF m (signCtl m a (sgc25 x)) (signCtl m b (sgc26 x)) (rndOf x)

/-- HFMA2's B element for element `k` of A (R214). -/
def hfmaB (sgc k : Nat) : Nat :=
  if sgc = 0 then k else if sgc = 1 then 0 else if sgc = 2 then 1 else 1 - k

def execHfma2 (x : Std) (s : State) : Host.Outcome State Fault Refusal :=
  match front 0x5A x s with
  | .over_ s' => .next s'
  | .go s' c =>
    let m := precFmt (precOf x)
    let e (t : Thread) (src : Src) (k : Nat) : Nat := floatElem (precOf x) c.g t src k
    .next (c.writeF s' x 1 (c.perLaneF fun _ t => buildF 16 2 fun k =>
      fmaF m (e t x.a k) (e t x.b (hfmaB (sgcOf x) k)) (e t x.c k) (rndOf x)))

/-- FDOTP2 (R214): both products and the .f32 addend summed exactly, rounded once. -/
def fdotp2 (m : Fmt) (a0 a1 b0 b1 c : Nat) (negP negC : Bool) (rnd : Nat) : FRes :=
  let prod (a b : Nat) : FVal × Nat :=
    let p := mulExact (decodeF m a) (decodeF m b)
    (if negP then p.1.negate else p.1, p.2)
  let p0 := prod a0 b0
  let p1 := prod a1 b1
  let w := decodeF f32 (signCtl f32 c negC)
  let xs := [w, p0.1, p1.1]
  let q := sumExact xs rnd
  let opp := if xs.contains (.inf false) && xs.contains (.inf true) then fv else 0
  finishF f32 (q.1, q.2 ||| p0.2 ||| p1.2 ||| opp) rnd

def execFdotp2 (x : Std) (s : State) : Host.Outcome State Fault Refusal :=
  match front 0x59 x s with
  | .over_ s' => .next s'
  | .go s' c =>
    let m := precFmt (precOf x)
    let e (t : Thread) (src : Src) (k : Nat) : Nat := floatElem (precOf x) c.g t src k
    .next (c.writeF s' x 1 (c.perLaneF fun _ t =>
      fdotp2 m (e t x.a 0) (e t x.a 1) (e t x.b 0) (e t x.b 1) (floatElem 0 c.g t x.c 0) (sgc25 x) (sgc26 x) (rndOf x)))

/-! ## R215 to R217 -/

/-- FMIN, FMAX, FMINM and FMAXM with SGC *abs* (R215). -/
def execMinMax (opc : Nat) (x : Std) (s : State) (less num : Bool) : Host.Outcome State Fault Refusal :=
  execFloat opc x s fun m a b _ => minMaxF m (absCtl m a (sgc25 x)) (absCtl m b (sgc26 x)) less num

def execFmin (x : Std) (s : State) : Host.Outcome State Fault Refusal := execMinMax 0x44 x s true true

def execFmax (x : Std) (s : State) : Host.Outcome State Fault Refusal := execMinMax 0x45 x s false true

def execFminm (x : Std) (s : State) : Host.Outcome State Fault Refusal := execMinMax 0x46 x s true false

def execFmaxm (x : Std) (s : State) : Host.Outcome State Fault Refusal := execMinMax 0x47 x s false false

def execFcps (x : Std) (s : State) : Host.Outcome State Fault Refusal :=
  execFloat 0x4E x s fun m a b _ =>
    let sa := bitOf a (m.w - 1)
    let sb := bitOf b (m.w - 1)
    let sign := if sgcOf x = 0 then sb else if sgcOf x = 1 then !sb else sa != sb
    { code := a % 2 ^ (m.w - 1) + signBit m sign }

/-- FCMP's condition and flags (R217). -/
def fcmpF (m : Fmt) (a b cond : Nat) : FRes :=
  let x := decodeF m a
  let y := decodeF m b
  let nan := x.isNan || y.isNan
  let sig := x.isSig || y.isSig
  let holds : Bool := match cond with
    | 0 => !nan && x.feq y
    | 1 => !nan && x.lt y
    | 2 => !nan && !y.lt x
    | _ => nan
  let raises := if cond = 1 ∨ cond = 2 then nan else sig
  { code := holds.toNat, flags := if raises then fv else 0 }

def execFcmp (x : Std) (s : State) : Host.Outcome State Fault Refusal :=
  match front 0x48 x s with
  | .over_ s' => .next s'
  | .go s' c => .next (c.writeF s' x 1 (c.perLaneF fun _ t =>
      fcmpF (precFmt (precOf x)) (floatElem (precOf x) c.g t x.a 0) (floatElem (precOf x) c.g t x.b 0) (sgcOf x)))

/-- The class bit of a code (R217). -/
def classBit (m : Fmt) (code : Nat) : Nat :=
  match decodeF m code with
  | .nan g => if g then 0 else 1
  | .inf neg => if neg then 2 else 9
  | .fin neg n _ =>
    let sub := bitsOf code m.f (m.w - 1 - m.f) == 0
    if n = 0 then (if neg then 5 else 6)
    else if sub then (if neg then 4 else 7) else if neg then 3 else 8

def execFclass (x : Std) (s : State) : Host.Outcome State Fault Refusal :=
  execPerLane 0x49 x 1 s fun g t =>
    let m := precFmt (precOf x)
    build 16 (precN (precOf x)) fun k => 2 ^ classBit m (floatElem (precOf x) g t x.a k)

def execFclassPredicate (x : Std) (s : State) : Host.Outcome State Fault Refusal :=
  execPerLane 0x49 x 1 s fun g t =>
    (bitOf (srcNat g t 1 x.b % 1024) (classBit (precFmt (precOf x)) (floatElem (precOf x) g t x.a 0))).toNat

/-! ## R218 -/

/-- The result of a NaN operand: the canonical NaN, and fv when it is signalling (R218, R219). -/
def nanRes (m : Fmt) (sig : Bool) : FRes := { code := canonNan m, flags := if sig then fv else 0 }

def frndF (m : Fmt) (a rnd : Nat) : FRes :=
  match decodeF m a with
  | .nan g => nanRes m g
  | .inf neg => { code := infCode m neg }
  | .fin neg n d => { code := (roundF m (.fin neg (toIntegral neg n d rnd) 1) 0).code }

def execFrnd (x : Std) (s : State) : Host.Outcome State Fault Refusal :=
  execFloat 0x4A x s fun m a _ _ => frndF m a (rndOf x)

def ffrcF (m : Fmt) (a : Nat) : FRes :=
  match decodeF m a with
  | .nan g => nanRes m g
  | .inf _ => { code := canonNan m, flags := fv }
  | .fin neg n d => { code := (roundF m (.fin neg (n % d) d) 0).code }

def execFfrc (x : Std) (s : State) : Host.Outcome State Fault Refusal :=
  execFloat 0x4B x s fun m a _ _ => ffrcF m a

/-- FSCL (R218). A scale beyond ±4400 rounds as ±4400 does in every format. -/
def fsclF (m : Fmt) (a : Nat) (n rnd : Int) : FRes :=
  match decodeF m a with
  | .nan g => nanRes m g
  | .inf neg => { code := infCode m neg }
  | .fin neg v d =>
    let e : Int := if n < -4400 then -4400 else if 4400 < n then 4400 else n
    roundF m (if 0 ≤ e then .fin neg (v * 2 ^ e.toNat) d else .fin neg v (d * 2 ^ (-e).toNat)) rnd.toNat

def execFscl (x : Std) (s : State) : Host.Outcome State Fault Refusal :=
  match front 0x4C x s with
  | .over_ s' => .next s'
  | .go s' c =>
    let m := precFmt (precOf x)
    .next (c.writeF s' x (precRegs (precOf x)) (c.perLaneF fun _ t =>
      buildF m.w (precN (precOf x)) fun k =>
        fsclF m (floatElem (precOf x) c.g t x.a k) (sval (srcNat c.g t 1 x.b) 32) (rndOf x)))

def fexptF (m : Fmt) (a : Nat) : FRes :=
  match decodeF m a with
  | .nan g => nanRes m g
  | .inf _ => { code := infCode m false }
  | .fin _ n d => if n = 0 then { code := infCode m true, flags := fz }
                  else { code := (roundF m (ofInt (log2q n d)) 0).code }

def execFexpt (x : Std) (s : State) : Host.Outcome State Fault Refusal :=
  execFloat 0x4D x s fun m a _ _ => fexptF m a

/-! ## R219 -/

/-- The value of one of the eight functions with the special cases of R219. -/
def specialF (m : Fmt) (a : Nat) (onInf onZero : Bool → FRes) (onFin : Bool → Nat → Nat → FRes) : FRes :=
  match decodeF m a with
  | .nan g => nanRes m g
  | .inf neg => onInf neg
  | .fin neg n d => if n = 0 then onZero neg else onFin neg n d

/-- An invalid operation's result. -/
def invalidF (m : Fmt) : FRes := { code := canonNan m, flags := fv }

def fsqrtF (m : Fmt) (a rnd : Nat) : FRes :=
  specialF m a (fun neg => if neg then invalidF m else { code := infCode m false }) (fun neg => { code := signBit m neg })
    fun neg n d => if neg then invalidF m else roundF m (sqrtQ n d) rnd

def frcpF (m : Fmt) (a rnd : Nat) : FRes :=
  specialF m a (fun neg => { code := signBit m neg }) (fun neg => { code := infCode m neg, flags := fz })
    fun neg n d => roundF m (.fin neg d n) rnd

def frsqF (m : Fmt) (a rnd : Nat) : FRes :=
  specialF m a (fun neg => if neg then invalidF m else { code := 0 }) (fun neg => { code := infCode m neg, flags := fz })
    fun neg n d => if neg then invalidF m else roundF m (sqrtQ d n) rnd

def fex2F (m : Fmt) (a : Nat) : FRes :=
  specialF m a (fun neg => if neg then { code := 0 } else { code := infCode m false })
    (fun _ => roundF m (.fin false 1 1) 0) fun neg n d => ex2F m neg n d

def flg2F (m : Fmt) (a : Nat) : FRes :=
  specialF m a (fun neg => if neg then invalidF m else { code := infCode m false })
    (fun _ => { code := infCode m true, flags := fz }) fun neg n d => if neg then invalidF m else lg2F m n d

def fsinF (m : Fmt) (a : Nat) : FRes :=
  specialF m a (fun _ => invalidF m) (fun neg => { code := signBit m neg }) fun neg n d => sinPiF m neg n d neg

/-- cos(π·x) is sin(π·(|x| + 1/2)); an exact zero is +0 (R219). -/
def fcosF (m : Fmt) (a : Nat) : FRes :=
  specialF m a (fun _ => invalidF m) (fun _ => roundF m (.fin false 1 1) 0)
    fun _ n d => sinPiF m false (2 * n + d) (2 * d) false

def ftanhF (m : Fmt) (a : Nat) : FRes :=
  specialF m a (fun neg => roundF m (.fin neg 1 1) 0) (fun neg => { code := signBit m neg })
    fun neg n d => let q := tanhF m n d; { q with code := signBit m neg + q.code }

def execFsqrt (x : Std) (s : State) : Host.Outcome State Fault Refusal :=
  execFloat 0x51 x s fun m a _ _ => fsqrtF m a (rndOf x)

def execFrcp (x : Std) (s : State) : Host.Outcome State Fault Refusal :=
  execFloat 0x52 x s fun m a _ _ => frcpF m a (rndOf x)

def execFrsq (x : Std) (s : State) : Host.Outcome State Fault Refusal :=
  execFloat 0x53 x s fun m a _ _ => frsqF m a (rndOf x)

def execFex2 (x : Std) (s : State) : Host.Outcome State Fault Refusal := execFloat 0x54 x s fun m a _ _ => fex2F m a

def execFlg2 (x : Std) (s : State) : Host.Outcome State Fault Refusal := execFloat 0x55 x s fun m a _ _ => flg2F m a

def execFsin (x : Std) (s : State) : Host.Outcome State Fault Refusal := execFloat 0x56 x s fun m a _ _ => fsinF m a

def execFcos (x : Std) (s : State) : Host.Outcome State Fault Refusal := execFloat 0x57 x s fun m a _ _ => fcosF m a

def execFtanh (x : Std) (s : State) : Host.Outcome State Fault Refusal := execFloat 0x58 x s fun m a _ _ => ftanhF m a

/-! ## CVTF, R220 to R222 -/

/-- The fields of CVTF's control word (R220). -/
structure CvtCtl where
  src : Nat
  dst : Nat
  sat : Bool
  sel : Nat
  sidx : Nat
  didx : Nat

def cvtCtl (x : Std) : CvtCtl :=
  let k := (x.c.constBits).getD 0
  let xi := k / 128 % 2
  { src := k % 8, dst := k / 8 % 8, sat := bitOf k 6, sel := cvtSel x,
    sidx := cvtfIdx (k % 8) (precOf x) xi, didx := cvtfIdx (k / 8 % 8) (sgcOf x) xi }

/-- The format of a CVTF code other than .q4 (R220). -/
def cvtFmt (code : Nat) : Fmt :=
  match code with
  | 0 => f32
  | 1 => f64
  | 2 => f16
  | 3 => bf16
  | 4 => e4m3
  | _ => e5m2

/-- Element width of a CVTF code (R220). -/
def cvtWidth (code : Nat) : Nat := if code = 6 then 4 else (cvtFmt code).w

/-- The scale byte that a lane's block takes (R222). -/
def scaleByte (g : Group) (x : Std) (l sel : Nat) : Nat :=
  match g.thread (scaleLane l sel) with
  | some t => elem (srcNat g t 1 x.b) 8 (sel % 4)
  | none => 0

/-- One element converted (R221). -/
def cvtElem (k : CvtCtl) (e scale rnd draw : Nat) : FRes :=
  let v := if k.src = 6 then q4Decode scale e else decodeF (cvtFmt k.src) e
  let sig := if v.isSig then fv else 0
  let r : FRes :=
    if k.dst = 6 then
      if scale % 64 = 63 then { code := 0 }
      else q4Round scale v rnd k.sat draw
    else roundF (cvtFmt k.dst) v rnd k.sat draw
  { code := r.code, flags := r.flags ||| sig }

/-- RngDraw of R183: the next state of the generator, whose upper half is the draw. -/
def rngStep (r : DWord) : DWord := r * 6364136223846793005 + 1442695040888963407

def execCvtf (x : Std) (s : State) : Host.Outcome State Fault Refusal :=
  match front 0x5B x s with
  | .over_ s' => .next s'
  | .go s' c =>
    let k := cvtCtl x
    let q4 := k.src == 6 || k.dst == 6
    let absent := c.lanes.find? fun l => q4 && !c.run.set.getLsbD (scaleLane l k.sel)
    match absent with
    | some l => .next (c.trapAll s' 8 (2 ^ scaleLane l k.sel) c.run.pos)
    | none =>
      let stoch := rndOf x == 5
      let vals := c.perLaneF fun l t =>
        let e := elem (srcNat c.g t (if k.src = 1 then 2 else 1) x.a) (cvtWidth k.src) k.sidx
        let draw := (rngStep t.rng).toNat / 2 ^ 32
        let r := cvtElem k e (scaleByte c.g x l k.sel) (rndOf x) draw
        let w := cvtWidth k.dst
        if 32 ≤ w then r
        else
          let old := dstNat c.g t 1 x.d
          { r with code := old - elem old w k.didx * 2 ^ (w * k.didx) + r.code * 2 ^ (w * k.didx) }
      let g := if stoch then c.g.modThreads c.lanes fun _ t => { t with rng := rngStep t.rng } else c.g
      let c' : Ctx := { c with g := g }
      .next (c'.writeF s' x (if k.dst = 1 then 2 else 1) vals)

/-! ## Integers, R223 and R224 -/

/-- CVTFI (R223): the nearest end of the range with fv where the value lies outside it, 0 with fv for a NaN. -/
def cvtfiF (m : Fmt) (a rnd : Nat) (signed : Bool) (w : Nat) : FRes :=
  let lo : Int := if signed then -(2 ^ (w - 1) : Int) else 0
  let hi : Int := if signed then 2 ^ (w - 1) - 1 else 2 ^ w - 1
  match decodeF m a with
  | .nan _ => { code := 0, flags := fv }
  | .inf neg => { code := wrap (if neg then lo else hi) w, flags := fv }
  | .fin neg n d =>
    let i : Int := let q := toIntegral neg n d rnd; if neg then -(q : Int) else q
    if i < lo then { code := wrap lo w, flags := fv }
    else if hi < i then { code := wrap hi w, flags := fv }
    else { code := wrap i w, flags := if n % d = 0 then 0 else fx }

def execCvtfi (x : Std) (s : State) : Host.Outcome State Fault Refusal :=
  match front 0x5C x s with
  | .over_ s' => .next s'
  | .go s' c =>
    let w := if sgc26 x then 64 else 32
    .next (c.writeF s' x (w / 32) (c.perLaneF fun _ t =>
      cvtfiF (precFmt (precOf x)) (floatElem (precOf x) c.g t x.a 0) (rndOf x) (sgc25 x) w))

def execCvtif (x : Std) (s : State) : Host.Outcome State Fault Refusal :=
  match front 0x5D x s with
  | .over_ s' => .next s'
  | .go s' c =>
    let w := if sgc26 x then 64 else 32
    .next (c.writeF s' x (precRegs (precOf x)) (c.perLaneF fun _ t =>
      roundF (precFmt (precOf x)) (ofInt (val (srcNat c.g t (w / 32) x.a) w (sgc25 x).toNat)) (rndOf x)))

/-! ## R225 -/

def execFlgrd (x : Std) (s : State) : Host.Outcome State Fault Refusal :=
  execPerLane 0x5E x 1 s fun _ t => t.flags.toNat

def execFlgclr (x : Std) (s : State) : Host.Outcome State Fault Refusal :=
  match front 0x5F x s with
  | .over_ s' => .next s'
  | .go s' c =>
    let g := c.g.modThreads c.lanes fun _ t => t.clearFlags (srcNat c.g t 1 x.a)
    .next (c.finish s' g (stdWords x) [])

end Sys2Proof.Machine
end

