-- ==== Sys2Proof/Machine/Energy.lean ====
section
/-! DEFINITION. The energy account of a pan: costs and admission (R246, R364 to R368). -/

namespace Sys2Proof.Machine

/-- The chain that a team holds: its stream and global number (R305, R307). -/
def State.chainOf (s : State) (k : GKey) : Option (Nat × Nat × Chain) :=
  s.streams.findSome? fun e => (e.2.chains.find? fun c => c.2.st == .claimed && c.2.team == k.team_).map fun c => (e.1, c.1, c.2)

/-- A team holds a chain. -/
def State.holdsChain (s : State) (k : GKey) : Bool := (s.chainOf k).isSome

/-- A pan holds a chain: one has been admitted to it that has not ended (R360, R367). -/
def State.panChain (s : State) (pan : Nat) : Bool :=
  s.streams.any fun e => e.2.chains.any fun c => c.2.pan == pan && c.2.st != .ended && c.2.st != .refused

/-- The cost of a command of a class (R365, R368), in nJ. -/
def engineCost (ec units : Nat) : Nat := (Config.ecCmd ec).toNat + (units * (Config.ecUnit ec).toNat + 255) / 256

/-- Admit of R365; none where the command waits. -/
def Power.affords (w : Power) (dl : Bool) (cls res cost : Nat) : Option Power :=
  if dl then
    let g := Nat.min w.grant cost
    let c := Nat.min (cost - g) 65536
    if w.bal - c < -8192 then none
    else some { w with grant := w.grant - g, bal := w.bal - c, carry := w.carry + (cost - g - c) }
  else
    let c := Nat.min cost 65536
    let need := Nat.min (c + (if cls = 0 then res else 0)) 65536
    if w.bal < need then none else some { w with bal := w.bal - c, carry := w.carry + (cost - c) }

/-- A command admitted at a pan (R365); none where it waits. -/
def State.affords (s : State) (pan part : Nat) (dl : Bool) (cls ec units : Nat) : Option State :=
  ((s.pan pan).pw.affords dl cls (s.part part).res (engineCost ec units)).map fun w => s.modPan pan fun n => { n with pw := w }

/-- Energy given back, up to the cap (R290, R365). -/
def Power.credit (w : Power) (nj : Nat) : Power := { w with bal := if w.bal < 65536 then min (w.bal + nj) 65536 else w.bal }

end Sys2Proof.Machine
end

