-- ==== Sys2Proof/Machine/Notices.lean ====
section
/-! DEFINITION. SLT packets that the device sends of its own: notices and read data (R392, R393). -/

namespace Sys2Proof.Machine

/-- A connection of a virtual function. -/
def State.conn (s : State) (vf conn : Nat) : SltConn := tgetD s.slt (vf * 64 + conn) {}

/-- The state with a connection changed. -/
def State.modConn (s : State) (vf conn : Nat) (f : SltConn → SltConn) : State :=
  { s with slt := tput s.slt (vf * 64 + conn) (f (s.conn vf conn)) }

/-- What the device sends leaves it. -/
def State.emit (s : State) (w : Wire) : State := { s with wire := s.wire ++ [w] }

/-- Free receive space in units of 64 bytes: all 256 KiB, since a packet is applied as it is received (R393). -/
def freeCredit : Nat := 4096

/-- A packet sent on a connection, to be resent until it is acknowledged (R393). -/
def State.sltSend (s : State) (vf conn : Nat) (x : SltOut) : State :=
  let c := s.conn vf conn
  (s.modConn vf conn fun c => { c with tx := (c.tx + 1) % 2 ^ 32, sent := c.sent ++ [{ seq := c.tx, x := x, last := s.clock.nowNs }] }).emit
    (.slt vf conn c.tx c.rx freeCredit x)

/-- A host notice, on connection 0 of a virtual function (R393). -/
def State.notify (s : State) (vf : Nat) (n : Notice) : State := s.sltSend vf 0 (.notice n)

end Sys2Proof.Machine
end

