-- ==== Sys2Proof/Machine/Links.lean ====
section
/-! DEFINITION. The links of the side ports and the aperture table (R83, R395, R396). -/

namespace Sys2Proof.Machine

/-- The link of a side port. -/
def State.link (s : State) (port : Nat) : SideLink := tgetD s.links port {}

/-- The state with a link changed. -/
def State.modLink (s : State) (port : Nat) (f : SideLink → SideLink) : State :=
  { s with links := tput s.links port (f (s.link port)) }

/-! ## Going down, R395 -/

/-- A link that goes down. -/
def SideLink.drop (l : SideLink) : SideLink :=
  { l with up := false, peer := 0, peerDict := 0, rx := 0, tx := 0, replay := [], reqs := [] }

/-- The window address of a part that a peer was to answer. -/
def RemoteMove.va (m : RemoteMove) : Nat :=
  match m.read, m.m.src with
  | true, .glob va => va
  | _, _ => m.m.dst

/-- The parts of a slice that peers are to answer, while it copies or after (R396). -/
def SliceRun.waiting (r : SliceRun) : List RemoteMove :=
  match r.st with
  | .ready => r.asked
  | .remote ms _ => ms
  | _ => []

/-- The bytes that a slice has written. -/
def SliceRun.written (r : SliceRun) : Nat :=
  match r.st with
  | .remote _ bytes => bytes
  | _ => r.done

/-- Slices with a part that the peer of a port was to answer end with status DATA (R395, R396). The number of a request names its
port. -/
def PanCore.failRemote (c : PanCore) (port : Nat) : PanCore :=
  { c with sluices := tmap c.sluices fun _ (r : SliceRun) =>
      match r.waiting.find? fun m => m.id % 16 == port with
      | some m => { r with st := .ended 5 m.va r.written }
      | none => r }

/-- A side port's link goes down: requests in flight on it complete with a remote-access error (R395). -/
def State.dropLink (s : State) (port : Nat) : State :=
  { s.modLink port SideLink.drop with pans := tmap s.pans fun _ n => { n with core := n.core.failRemote port } }

/-- The link goes down after 8 sendings of a frame, or with its signal: its port is tested, and the test's end posts the KIND 4
record (R387, R395). -/
def State.loseLink (s : State) (port : Nat) : State :=
  let r : ErrReport := { unit := .sidePort, inst := port, sub := 0, corrected := false, part := tgetD s.sideOwn port 0, pa := 0 }
  let d := s.dropLink port
  { d with tests := d.tests ++ [.unit r] }

/-! ## The dictionary code, R83 -/

/-- How many bytes, at most `n`, of `bs` repeat what stands a distance back. -/
def matchLength (hist : List Byte) (dist : Nat) (bs : List Byte) (n : Nat) : Nat :=
  match n, bs with
  | 0, _ => 0
  | _, [] => 0
  | n + 1, b :: r => if hist.getD (hist.length - dist) 0 == b then matchLength (hist ++ [b]) dist r n + 1 else 0

/-- The longest match of at least 4 bytes, at the least distance: its distance and length (log 38). -/
def bestMatch (hist bs : List Byte) : Nat × Nat :=
  ((List.range 4096).map (· + 1)).foldl (fun (b : Nat × Nat) d =>
    let n := matchLength hist d bs 131
    if b.2 < n then (d, n) else b) (0, 3)

/-- A literal run as tokens (R83). -/
def literalRun (bs : List Byte) : List Byte := if bs.isEmpty then [] else BitVec.ofNat 8 (bs.length - 1) :: bs

/-- The tokens of some bytes after a history, `lit` being the literals not yet written. -/
def codeTokens (hist lit bs : List Byte) (fuel : Nat) : List Byte :=
  match fuel, bs with
  | 0, _ => literalRun lit
  | _, [] => literalRun lit
  | fuel + 1, b :: r =>
    let (d, n) := bestMatch hist bs
    if d ≠ 0 then
      literalRun lit ++ BitVec.ofNat 8 (128 + n - 4) :: bytesOf d 2 ++ codeTokens (hist ++ bs.take n) [] (bs.drop n) fuel
    else if lit.length = 127 then literalRun (lit ++ [b]) ++ codeTokens (hist ++ [b]) [] r fuel
    else codeTokens (hist ++ [b]) (lit ++ [b]) r fuel

/-- The coded payload of some bytes, where it is shorter than they are (R83). -/
def codePayload (dict : List Byte) (ident : Nat) (bs : List Byte) : Option (List Byte) :=
  let coded := bytesOf ident 2 ++ bytesOf bs.length 2 ++ codeTokens dict [] bs bs.length
  if coded.length < bs.length then some coded else none

/-- The two ends have loaded the same dictionary: this one has loaded one, and the peer has told its identifier (R83, log 38). -/
def SideLink.sameDict (l : SideLink) : Bool := l.dictOn && l.dictId == l.peerDict

/-- The 4 KiB of this end's dictionary. -/
def SideLink.dictBytes (l : SideLink) : List Byte := mread l.dict 0 4096

/-! ## Sending, R395 -/

/-- The data that a frame carries. -/
def frameData : SideBody → List Byte
  | .request _ r => match r.op with
    | .write d => d
    | _ => []
  | .answer _ d _ => d
  | _ => []

/-- A replay buffer trimmed to 1 MiB of frames, the oldest dropped first. -/
def trimReplay (l : List (Nat × SideBody × Nat × Bool)) : List (Nat × SideBody × Nat × Bool) :=
  (l.reverse.foldl (fun (a : List (Nat × SideBody × Nat × Bool) × Nat) e =>
    let n := a.2 + 64 + (frameData e.2.1).length
    if n ≤ 2 ^ 20 then (e :: a.1, n) else (a.1, 2 ^ 20)) ([], 0)).1

/-- The coded payload of a frame, where it carries lines of CODEC 3 pages, both ends have the dictionary, and that is shorter (R83). -/
def SideLink.coded (l : SideLink) (dictable : Bool) (b : SideBody) : Option (List Byte) :=
  if dictable && l.sameDict then codePayload l.dictBytes l.dictId (frameData b) else none

/-- A frame sent on a link that is up (R83, R395). -/
def State.sideSend (s : State) (port : Nat) (dictable : Bool) (b : SideBody) : State :=
  let l := s.link port
  (s.modLink port fun l => { l with tx := l.tx + 1, replay := trimReplay (l.replay ++ [(l.tx, b, 1, dictable)]) }).emit
    (.side port l.tx (l.coded dictable b) b)

/-! ## Apertures, R396 -/

/-- The aperture-table entry of a window address: its port, the entry, and the offset within it. -/
def State.aperture (s : State) (pa : Nat) : Nat × Aperture × Nat :=
  let port := windowOf pa - 2
  let o := (pa - endpointBase) % 0x1000000
  (port, tgetD s.apertures (64 * port + bitsOf o 18 6) {}, bitsOf o 0 18)

/-- What an aperture access asks of the peer: plain reads and writes, and the exact adds of words (R396). -/
def Aperture.requests (a : Aperture) (o len : Nat) (data : Option (List Byte)) : List RemoteReq :=
  let mk (va : Nat) (op : RemoteOp) : RemoteReq :=
    { slot := a.rslot, va := BitVec.ofNat 64 va, op := op, scope := 3, acq := false, rel := false }
  match data with
  | none => [mk (a.base + o) (.read len)]
  | some bs =>
    if a.op = 0 then [mk (a.base + o) (.write bs)]
    else (List.range (len / 4)).map fun k =>
      mk (a.base + 128 * (o / 4 + k)) (.eadd (a.op == 2) (BitVec.ofNat 32 (ofBytes ((bs.drop (4 * k)).take 4))))

end Sys2Proof.Machine
end

