-- ==== Sys2Proof/Machine/Sluice.lean ====
section
/-! DEFINITION. Sluices: CPY, CPYT, CPYG, admission, the pre-pass, the copy and its completion (R140 to R148, R245,
rows 0x90 to 0x92). -/

namespace Sys2Proof.Machine

/-! ## Descriptors, R142 to R145 -/

/-- A COMP field is well formed (R145). -/
def compOk (c : Nat) : Bool :=
  match bitsOf c 62 2 with
  | 0 => c == 0
  | 1 => bitsOf c 56 4 == 0 && bitsOf c 16 40 == 0 && bitsOf c 6 2 == 0 && bitsOf c 8 8 != 0 && decide (bitsOf c 0 6 < 8)
  | 2 => bitsOf c 56 3 == 0 && bitsOf c 0 4 == 0
  | _ => bitsOf c 56 4 == 0 && bitsOf c 32 24 == 0

/-- COMP of a slice. -/
def Slice.comp (x : Slice) : Nat := bitsOf x.desc (if x.op = 0 then 192 else if x.op = 1 then 448 else 320) 64

/-- The retention hint of a slice. -/
def Slice.ret (x : Slice) : Nat := bitsOf x.desc (if x.op = 0 then 160 else if x.op = 1 then 344 else 304) 2

/-- A CPY descriptor breaches its layout (R142). -/
def cpyBad (d size : Nat) : Bool :=
  let dir := bitsOf d 166 2
  let len := bitsOf d 128 32
  let side (scr : Bool) (a : Nat) : Bool := scr && (decide (2 ^ 32 ≤ a) || decide (size < a % 2 ^ 32 + len))
  bitsOf d 162 4 != 0 || bitsOf d 172 4 != 0 || bitsOf d 180 4 != 0 || bitsOf d 184 8 != 0 || decide (16777216 < len) ||
  side (dir == 1 || dir == 3) (bitsOf d 0 64) || side (dir == 0 || dir == 3) (bitsOf d 64 64)

/-- The scratchpad offset of a tile element (R143). -/
def tileOff (d i j : Nat) : Nat :=
  let e := 2 ^ bitsOf d 342 2
  let soff := bitsOf d 288 32
  let pitch := bitsOf d 320 16
  let b := j * e
  match bitsOf d 340 2 with
  | 0 => soff + i * pitch + b
  | 1 => soff + j * pitch + i * e
  | _ => soff + i * pitch + ((b / 16) ^^^ (i % 8)) * 16 + b % 16

/-- The elements of a tile, rows first. -/
def tileElems (d : Nat) : List (Nat × Nat) :=
  (List.range (bitsOf d 256 16)).flatMap fun i => (List.range (bitsOf d 272 16)).map fun j => (i, j)

/-- A CPYT descriptor breaches its layout (R143). -/
def cpytBad (d size : Nat) : Bool :=
  let rows := bitsOf d 256 16
  let cols := bitsOf d 272 16
  let lay := bitsOf d 340 2
  let pitch := bitsOf d 320 16
  rows == 0 || decide (256 < rows) || cols == 0 || decide (256 < cols) || lay == 3 || bitsOf d 338 2 == 3 ||
  bitOf d 337 || pitch % (if lay = 2 then 128 else 16) != 0 || bitsOf d 346 6 != 0 || bitsOf d 416 32 != 0 ||
  (bitsOf d 338 2 == 2 && (bitsOf d 64 32 == 0 || bitsOf d 96 32 == 0)) ||
  (tileElems d).any fun p => decide (size < tileOff d p.1 p.2 + 2 ^ bitsOf d 342 2)

/-- A CPYG descriptor breaches its layout (R144). -/
def cpygBad (d size : Nat) : Bool :=
  let count := bitsOf d 224 32
  let esz := bitsOf d 288 16
  count == 0 || decide (65536 < count) || esz % 4 != 0 || esz == 0 || decide (4096 < esz) || bitsOf d 306 5 != 0 ||
  bitsOf d 312 8 != 0 || decide (size < bitsOf d 192 32 + count * (if bitOf d 311 then 8 else 4)) ||
  decide (size < bitsOf d 256 32 + count * esz)

/-- A descriptor that makes its command BADDESC (R141, R145). -/
def Slice.breach (x : Slice) : Bool :=
  !compOk x.comp || (if x.op = 0 then cpyBad x.desc x.size else if x.op = 1 then cpytBad x.desc x.size else cpygBad x.desc x.size)

/-! ## Issue, R140 to R142, R245 -/

/-- The slice of an issue, its descriptor read from scratchpad (R245). -/
def Ctx.slice (c : Ctx) (s : State) (op off n : Nat) : Slice :=
  let x : Slice :=
    { gk := c.gk, slot := c.slot, team := c.g.team, part := c.tm.part, asSlot := c.tm.slot, cls := c.tm.cls,
      issue := s.nextId, lanes := c.lanes, addr := c.run.addr, pos := c.run.pos, rc := (s.pan c.pan).rc + 1, op := op,
      desc := mnat (s.pan c.pan).core.scratch (c.tm.base + off) n, base := c.tm.base, size := c.tm.size }
  { x with bad := x.breach }

/-- The group after an issue of CP (R245). -/
def Ctx.copying (c : Ctx) (s : State) : Group :=
  c.record s.nextId (some .cp) .none 1 .zero (c.lanes.map fun l => (l, {})) false none

/-- A sluice instruction: its descriptor's address is checked, and `f` places its slice, where there is room (R141, R245). -/
def execSluiceOp (opc op n : Nat) (x : Std) (s : State) (f : PanCore → Slice → Option PanCore) :
    Host.Outcome State Fault Refusal :=
  execFront opc x s fun s c =>
    let off := c.one 1 x.a
    if c.counterFull .cp then c.stall s
    else if off % 16 ≠ 0 ∨ !c.tm.holds off n then s.scratchFault c.tm c.run.addr c.run.pos
    else match f (s.pan c.pan).core (c.slice s op off n) with
      | none => c.wait s (stdWords x)
      | some p => c.finish ({ s with nextId := s.nextId + 1 }.modCore c.pan fun _ => p) (c.copying s) (stdWords x) []

/-- A command joins the command queue, where it has room (R140). -/
def PanCore.queueCopy (p : PanCore) (ss : List Slice) : Option PanCore :=
  if 32 ≤ p.squeue.length then none else some { p with squeue := p.squeue ++ [ss] }

/-- Slices in ascending group number (R140). -/
def insertSlice (l : List Slice) (x : Slice) : List Slice :=
  match l with
  | [] => [x]
  | h :: r => if x.gk.num < h.gk.num then x :: h :: r else h :: insertSlice r x

/-- The slices of a full entry as one command; where their counts differ every one is a mismatch (R142). -/
def assembled (ss : List Slice) : List Slice :=
  let n (x : Slice) : Nat := bitsOf x.desc 168 4
  let bad := ss.any fun x => n x != (ss.head?.map n).getD 0
  (ss.foldl insertSlice []).map fun x => { x with mismatch := bad }

/-- A slice joins its entry of the assembly table, opening one where none is open and the table has room, and the full entry becomes one
command (R142). -/
def PanCore.assemble (p : PanCore) (x : Slice) : Option PanCore :=
  let slot := bitsOf x.desc 176 4
  let here (e : AsmEntry) : Bool := e.team == x.team && e.slot == slot && e.away.isNone
  let (count, have_) := match p.asm.find? here with
    | some e => (e.count, e.slices)
    | none => (bitsOf x.desc 168 4 + 1, [])
  if have_.isEmpty && decide (16 ≤ p.asm.length) then none
  else if have_.length + 1 = count then
    ({ p with asm := p.asm.filter fun e => !here e } : PanCore).queueCopy (assembled (have_ ++ [x]))
  else if !have_.isEmpty then
    some { p with asm := p.asm.map fun e => if here e then { e with slices := e.slices ++ [x] } else e }
  else some { p with asm := p.asm ++ [{ team := x.team, slot := slot, count := count, slices := [x] }] }

/-- CPY (R142, R245). -/
def execCpy (x : Std) (s : State) : Host.Outcome State Fault Refusal :=
  execSluiceOp 0x90 0 32 x s fun p d => p.assemble d

/-- CPYT (R143, R245). -/
def execCpyt (x : Std) (s : State) : Host.Outcome State Fault Refusal :=
  execSluiceOp 0x91 1 64 x s fun p d => p.queueCopy [d]

/-- CPYG (R144, R245). -/
def execCpyg (x : Std) (s : State) : Host.Outcome State Fault Refusal :=
  execSluiceOp 0x92 2 48 x s fun p d => p.queueCopy [d]

/-! ## The moves of a copy -/

/-- Parts of a copy of `len` bytes, none of which crosses a line on either global side. -/
def copyParts (srcG dstG : Bool) (src dst len fuel : Nat) : List Move :=
  match fuel with
  | 0 => []
  | fuel + 1 =>
    if len = 0 then []
    else
      let room (g : Bool) (a : Nat) : Nat := if g then 128 - a % 128 else 128
      let n := Nat.min len (Nat.min (room srcG src) (room dstG dst))
      { src := if srcG then .glob src else .scratch src, toGlobal := dstG, dst := dst, len := n } ::
        copyParts srcG dstG (src + n) (dst + n) (len - n) fuel

/-- The moves of CPY (R142). -/
def cpyMoves (d : Nat) : List Move :=
  let dir := bitsOf d 166 2
  let srcG := dir == 0 || dir == 2
  let dstG := dir == 1 || dir == 2
  let len := bitsOf d 128 32
  copyParts srcG dstG (bitsOf d 0 64) (bitsOf d 64 64) len len

/-- A signed index bounded to a range. -/
def clampTo (x : Int) (n : Nat) : Nat := (max 0 (min x ((n : Int) - 1))).toNat

/-- The virtual address of a tensor element (R143). -/
def tensorVa (d r c : Nat) : Nat := (bitsOf d 0 64 + r * bitsOf d 128 64 + c * 2 ^ bitsOf d 342 2) % 2 ^ 64

/-- The moves of one tile element (R143). -/
def tileMove (d : Nat) (p : Nat × Nat) : List Move :=
  let e := 2 ^ bitsOf d 342 2
  let rows := bitsOf d 64 32
  let cols := bitsOf d 96 32
  let gr := sval (bitsOf d 192 32) 32 + p.1
  let gc := sval (bitsOf d 224 32) 32 + p.2
  let inside := decide (0 ≤ gr) && decide (gr < rows) && decide (0 ≤ gc) && decide (gc < cols)
  let off := tileOff d p.1 p.2
  let va := tensorVa d (clampTo gr rows) (clampTo gc cols)
  if bitOf d 336 then (if inside then copyParts false true off va e e else [])
  else if inside || bitsOf d 338 2 == 2 then copyParts true false va off e e
  else [{ src := .bytes (bytesOf (if bitsOf d 338 2 = 1 then bitsOf d 352 64 else 0) e), toGlobal := false, dst := off, len := e }]

/-- The indices of CPYG (R144). -/
def gatherIdx (scratch : Memory) (base d : Nat) : List Nat :=
  let w := if bitOf d 311 then 8 else 4
  (List.range (bitsOf d 224 32)).map fun k => mnat scratch (base + bitsOf d 192 32 + k * w) w

/-- The moves of one gathered element (R144). -/
def gatherMove (d k x : Nat) : List Move :=
  let esz := bitsOf d 288 16
  let dst := bitsOf d 256 32 + k * esz
  if x < bitsOf d 128 64 then copyParts true false ((bitsOf d 0 64 + x * bitsOf d 64 64) % 2 ^ 64) dst esz esz
  else [{ src := .bytes (List.replicate esz 0), toGlobal := false, dst := dst, len := esz }]

/-- The moves of a slice and its out-of-range indices, the index list read now (R144). -/
def Slice.moves (x : Slice) (scratch : Memory) : List Move × Nat :=
  if x.bad ∨ x.mismatch then ([], 0)
  else match x.op with
    | 0 => (cpyMoves x.desc, 0)
    | 1 => ((tileElems x.desc).flatMap (tileMove x.desc), 0)
    | _ =>
      let idx := gatherIdx scratch x.base x.desc
      (idx.zipIdx.flatMap fun e => gatherMove x.desc e.2 e.1, (idx.filter fun i => decide (bitsOf x.desc 128 64 ≤ i)).length)

/-! ## Admission, R246, R365 -/

/-- Units of 128 bytes that a slice writes, padding included (R246). -/
def Slice.units (x : Slice) (scratch : Memory) : Nat := (((x.moves scratch).1.map (·.len)).sum + 127) / 128

/-- The admission of the command at the head of the sluice queue (R140, R365). -/
def State.admitSluice (s : State) (pan : Nat) : State :=
  let core := (s.pan pan).core
  match core.squeue with
  | [] => s
  | cmd :: rest => match cmd with
    | [] => s.modCore pan fun p => { p with squeue := rest }
    | x :: _ =>
      let dl := (cmd :: rest).any fun c => c.any fun y => s.holdsChain y.gk
      let units := (cmd.map fun y => y.units core.scratch).sum
      match s.affords pan x.part dl x.cls 0 units with
      | none => s
      | some s1 => s1.modCore pan fun p => { p with squeue := rest, sready := p.sready ++ cmd }

/-! ## The pre-pass, R146 -/

/-- Pages that a slice's moves and completion need, each once, in the order met: page number and rights. -/
def slicePages (ms : List Move) (comp : Nat) : List (Nat × Need) :=
  let srcs := ms.filterMap fun m => match m.src with
    | .glob va => some (va / 4096, Need.r)
    | _ => none
  let dsts := ms.filterMap fun m => if m.toGlobal then some (m.dst / 4096, Need.w) else none
  let bar := if bitsOf comp 62 2 = 2 ∧ compOk comp then [(comp % 2 ^ 56 / 4096, Need.rw)] else []
  (srcs ++ dsts ++ bar).dedup

/-- A physical address that a copy may not reach: a front port's window, and for its barrier any window (R234, R396). -/
def copyOut (need : Need) (pa : Nat) : Bool := isEndpoint pa && (need == .rw || decide (windowOf pa < 2))

/-- The leaves of the pages, and the faults met. -/
def State.engineLeaves (s : State) (pan part slot : Nat) (ps : List (Nat × Need)) :
    State × List (Nat × Nat) × List XFault :=
  match ps with
  | [] => (s, [], [])
  | (vpn, need) :: r =>
    let (s1, res) := s.engineReach pan part slot (vpn * 4096) need (copyOut need)
    let (s2, ls, fs) := s1.engineLeaves pan part slot r
    match res with
    | .ok e => (s2, (vpn, e) :: ls, fs)
    | .error f => (s2, ls, f :: fs)

/-- The physical address of a translated virtual one, and its leaf. -/
def leafAt (leaves : List (Nat × Nat)) (va : Nat) : Option (Nat × Nat) :=
  (leaves.lookup (va / 4096)).map fun e => (leafPa e va, e)

/-- Coded source blocks of the moves: slot address, codec and virtual address, each once. -/
def sourceBlocks (leaves : List (Nat × Nat)) (ms : List Move) : List (Nat × Nat × Nat) :=
  ms.foldl (fun bs m => match m.src with
    | .glob va => match leafAt leaves va with
      | some (pa, e) => if cxOf e && !(bs.any fun b => b.1 == blockOf pa) then bs ++ [(blockOf pa, pteCodec e, va)] else bs
      | none => bs
    | _ => bs) []

/-- What the verification of the source blocks comes to. -/
inductive Verified where
  | all
  | busy
  | failed (pa cause va : Nat)

/-- The fill of every coded source block that is not there is verified (R73, R146). -/
def State.verifyBlocks (s : State) (part : Nat) (bs : List (Nat × Nat × Nat)) : State × Verified :=
  match bs with
  | [] => (s, .all)
  | (pa, codec, va) :: r =>
    if (blockLines pa).all fun l => s.lineHeld part l then s.verifyBlocks part r
    else if s.blockBusy pa then (s, .busy)
    else match s.fillBlock part codec pa [] with
      | (s1, some cause) => (s1, .failed pa cause va)
      | (s1, none) => s1.verifyBlocks part r

/-- The window address of a move's source or destination, where it is one. -/
def windowAt (leaves : List (Nat × Nat)) (va : Nat) : Option Nat :=
  match leafAt leaves va with
  | some (pa, _) => if isEndpoint pa then some pa else none
  | none => none

/-- The window address that a move reads. -/
def Move.readsWindow (m : Move) (leaves : List (Nat × Nat)) : Option Nat :=
  match m.src with
  | .glob va => windowAt leaves va
  | _ => none

/-- The window address that a move writes. -/
def Move.writesWindow (m : Move) (leaves : List (Nat × Nat)) : Option Nat :=
  if m.toGlobal then windowAt leaves m.dst else none

/-- A window access that its aperture-table entry does not carry (R396): a disabled entry, OP 11, a read under EADD, or, under EADD,
bytes that are no whole words (log 39). -/
def State.apertureBad (s : State) (pa len : Nat) (read : Bool) : Bool :=
  let (_, a, o) := s.aperture pa
  !a.en || a.op == 3 || (a.op != 0 && (read || o % 4 != 0 || len % 4 != 0))

/-- A slice that may not make its aperture accesses (R396). -/
def State.slicesWindow (s : State) (x : Slice) (ms : List Move) (leaves : List (Nat × Nat)) : Bool :=
  let dir := bitsOf x.desc 166 2
  let mayBe := x.op == 0 && (dir == 1 || dir == 2)
  ms.any fun m =>
    (match m.readsWindow leaves with
      | some pa => !mayBe || s.apertureBad pa m.len true
      | none => false) ||
    match m.writesWindow leaves with
      | some pa => !mayBe || s.apertureBad pa m.len false
      | none => false

/-- A slice's translation fault record (R63, R146): ACC 4, at the command's place. -/
def Slice.fault (x : Slice) (pan : Nat) (f : XFault) : List Byte :=
  let q := quarterOf x.slot
  xfRecord { f with lane := x.lanes.headD 0 } 4 (asid x.part x.asSlot) pan (if q = 4 then 0 else q)
    (Config.groupId x.gk.team x.gk.num).toNat x.addr x.pos false

/-- The pre-pass of a slice in a sluice (R146), over the moves that it has still to make; in a torn slot it completes with XLATE
(R375). -/
def State.prepass (s : State) (pan k : Nat) (r : SliceRun) : State :=
  let x := r.slice
  let ms := r.moves
  let put (st : State) (y : SliceSt) (leaves : List (Nat × Nat)) : State :=
    st.modCore pan fun p => { p with sluices := tput p.sluices k { r with st := y, leaves := leaves, since := s.nextId } }
  let (s1, leaves, fs) := s.engineLeaves pan x.part x.asSlot (slicePages ms x.comp)
  if (s.asSlot x.part x.asSlot).torn then put s (.ended 3 0 0) []
  else match fs.find? fun f => f.kind != 0 with
  | some f => put (s1.fatal x.part x.asSlot fun st => st.postXfr x.part (x.fault pan f)) (.ended 3 f.va 0) leaves
  | none =>
    if !fs.isEmpty then put (fs.foldl (fun st f => st.postXfr x.part (x.fault pan f)) s1) .page leaves
    else if x.mismatch then put s1 (.ended 2 0 0) leaves
    else if x.bad || s1.slicesWindow x ms leaves then put s1 (.ended 1 0 0) leaves
    else match s1.verifyBlocks x.part (sourceBlocks leaves ms) with
      | (s2, .all) => put s2 .ready leaves
      | (s2, .busy) => put s2 .fresh leaves
      | (s2, .failed pa cause va) =>
        let (kind, port) := portOf pa
        put (s2.postXpr x.part (portRecord 1 cause kind port (asid x.part x.asSlot) 0 0 pa va x.addr x.pos)) (.block va) leaves

/-- A slice as a sluice starts it: its moves are fixed, the index list of CPYG read once (R144). -/
def Slice.start (x : Slice) (scratch : Memory) : SliceRun :=
  let (ms, oob) := x.moves scratch
  { slice := x, moves := ms, oob := oob }

/-- Every access of the issuing threads that precedes a command has been accepted, and their held updates applied; the journal covers the
command and every other event of the pan (R125, R129, log 9). -/
def State.engineMayStart (s : State) (pan issue rc : Nat) (gk : GKey) (lanes : List Nat) : Bool :=
  decide (rc ≤ (s.pan pan).drc) && (s.pan pan).caughtUp && !(s.pan pan).off &&
  !(s.fabric.any fun q => q.gk == gk && decide (q.issue < issue) && q.accs.any fun a => lanes.contains a.lane) &&
  !(s.beds.any fun b => b.2.held.any fun e => e.gk == gk && decide (e.issue < issue) && lanes.contains e.lane)

/-- A sluice of a pan that is neither fenced nor tested (R387). -/
def State.sluiceWorks (s : State) (pan k : Nat) : Bool :=
  decide (k < 4) && !bitOf (s.pan pan).fen.nsl k && !s.testing .sluice pan (· == k)

/-- SLUICE_START: a free sluice takes the oldest admitted slice and runs its pre-pass; one whose slice is to run its pre-pass
again does so (R140, R146). -/
def execSluiceStart (pan sluice : Nat) (s : State) : Host.Outcome State Fault Refusal :=
  let core := (s.pan pan).core
  match tget core.sluices sluice with
  | some r => .next (if r.st = .fresh ∧ !(s.pan pan).off then s.orWait (s.prepass pan sluice r) else s)
  | none => match core.sready with
    | [] => .next s
    | x :: rest =>
      if s.sluiceWorks pan sluice ∧ s.engineMayStart pan x.issue x.rc x.gk x.lanes then
        .next (s.orWait (((s.modCore pan fun p => { p with sready := rest }).prepass pan sluice (x.start core.scratch)).synced pan))
      else .next s

/-! ## The copy, R145 and R146 (log 11) -/

/-- The hint of an engine's access: that of its command, else the leaf's (R55). -/
def hintOr (hint entry : Nat) : Nat := if hint = 0 then pteRet entry else hint

/-- Bytes of one line that an engine of a pan reads at its home bed (R86, R105). -/
def State.engineRead (s : State) (pan part pa entry hint n : Nat) : State × Got :=
  (s.lineRequest pan).unitRead part (pteCodec entry) pa (cxOf entry) (hintOr hint entry) n

/-- A global write of an engine of a pan: at its home bed, and its line invalidated in the pan's L1s (R105, R138). -/
def State.engineWrite (s : State) (pan part pa entry hint : Nat) (bs : List Byte) : State :=
  ((s.lineRequest pan).unitWrite part (pteCodec entry) pa (cxOf entry) (hintOr hint entry) bs).modPan pan fun n =>
    n.l1Invalidate (lineOf pa)

/-- What keeps a slice from a move: the virtual address of the line, or the scratchpad offset, that failed (R146), or that of a block whose fill failed, with its
slot address and cause. -/
inductive MoveStop where
  | data (va : Nat)
  | block (pa cause va : Nat)

/-- The bytes of one move. -/
def State.moveSource (s : State) (pan : Nat) (r : SliceRun) (m : Move) : State × Except MoveStop (List Byte) :=
  match m.src with
  | .bytes bs => (s, .ok bs)
  | .scratch off => match (s.pan pan).spoiltIn (r.slice.base + off) m.len with
    | some a => (s, .error (.data (a - r.slice.base)))
    | none => (s, .ok (mread (s.pan pan).core.scratch (r.slice.base + off) m.len))
  | .glob va => match leafAt r.leaves va with
    | none => (s, .ok (List.replicate m.len 0))
    | some (pa, e) => match s.engineRead pan r.slice.part pa e r.slice.ret m.len with
      | (s1, .bytes bs) => (s1, .ok bs)
      | (s1, .bad) => (s1, .error (.data (va / 128 * 128)))
      | (s1, .block c) => (s1, .error (.block (blockOf pa) c va))

/-- Requests to a peer for a window access, one for each of what the aperture makes of it; none where the link is down. The number
of a request names its port (R395, R396). -/
def State.askPeer (s : State) (pa : Nat) (m : Move) (data : Option (List Byte)) (codable : Bool) : Option (State × List RemoteMove) :=
  let (port, a, o) := s.aperture pa
  if !(s.link port).up then none
  else
    let rs := a.requests o m.len data
    let n := m.len / rs.length
    some (rs.zipIdx.foldl (fun (x : State × List RemoteMove) e =>
      let id := x.1.nextId * 16 + port
      ((({ x.1 with nextId := x.1.nextId + 1 } : State).sideSend port codable (.request id e.1)),
       x.2 ++ [{ id := id, m := { m with dst := m.dst + n * e.2, len := n }, read := data.isNone }])) (s, []))

/-- The source of a move is a line of a CODEC 3 page. -/
def Move.codable (m : Move) (leaves : List (Nat × Nat)) : Bool :=
  match m.src with
  | .glob va => match leafAt leaves va with
    | some (_, e) => pteCodec e == 3
    | none => false
  | _ => false

/-- The bytes of a move put where they belong. -/
def State.movePut (s : State) (pan : Nat) (r : SliceRun) (m : Move) (bs : List Byte) : State :=
  if m.toGlobal then
    match leafAt r.leaves m.dst with
    | some (pa, e) => s.engineWrite pan r.slice.part pa e r.slice.ret bs
    | none => s
  else s.modCore pan fun p => { p with scratch := mwrite p.scratch (r.slice.base + m.dst) bs }

/-- What one move comes to: how many bytes it has written, and what a peer is to answer; or what stopped it. -/
def State.copyMove (s : State) (pan : Nat) (r : SliceRun) (m : Move) : State × Except MoveStop (Nat × List RemoteMove) :=
  match m.readsWindow r.leaves with
  | some pa => match s.askPeer pa m none false with
    | some (s1, ms) => (s1, .ok (0, ms))
    | none => (s, .error (.data (match m.src with
      | .glob va => va
      | _ => 0)))
  | none => match s.moveSource pan r m with
    | (s1, .error x) => (s1, .error x)
    | (s1, .ok bs) => match m.writesWindow r.leaves with
      | some pa => match s1.askPeer pa m (some bs) (m.codable r.leaves) with
        | some (s2, ms) => (s2, .ok (0, ms))
        | none => (s1, .error (.data m.dst))
      | none => (s1.movePut pan r m bs, .ok (m.len, []))

/-! ## Completion, R145 and R147 -/

/-- An event record (R147). -/
def eventRecord (src status op unit team group tag bytes oob errva pc pos : Nat) : List Byte :=
  bytesOf (src * 2 ^ 28 + status * 2 ^ 24 + op * 2 ^ 20 + unit * 2 ^ 18 + team * 2 ^ 15 + group * 2 ^ 7) 4 ++ bytesOf tag 4 ++
  bytesOf bytes 4 ++ bytesOf oob 4 ++ bytesOf errva 8 ++ bytesOf pc 4 ++ bytesOf (bitsOf pc 32 24 * 32 + pos) 4

/-- A barrier operation of an engine at its home bed, a release at a scope (R103, R127, R145). -/
def State.engineBarrier (s : State) (pan part va : Nat) (leaves : List (Nat × Nat)) (op : TbOp) (note : Note) : State :=
  match leafAt leaves va with
  | none => s
  | some (pa, e) =>
    let line := lineOf pa
    let s1 := ((s.lineRequest pan).closeConflict line).unitTouch 0 part (pteCodec e) line (cxOf e) 0 true true
    let n := if pteDl e && note.scope == 3 then { note with scope := 2 } else note
    (((s1.takeTag (homeBed line) part).1.barrierOp part (pteCodec e) pa (cxOf e) op (some n)).1).modPan pan fun x =>
      x.l1Invalidate line

/-- A semaphore of a command's team gains k: where the team stands, or in its context, as a response in its receipts would leave it
(R131, R145, R382). -/
def State.semSignal (s : State) (pan : Nat) (x : Slice) (n k : Nat) : State :=
  let key := x.gk.team_
  let here (p : PanCore) : Option Nat := (p.teams.find? fun t => gkeyOf t.2 0 == key).map (·.1)
  match here (s.pan pan).core with
  | some t => s.modCore pan fun p => p.semAdd (semOf t n) k
  | none => match s.pans.findSome? fun e => (here e.2.core).map fun t => (e.1, t) with
    | some (p, t) => s.modCore p fun c => c.semAdd (semOf t n) k
    | none =>
      let add (y : Context) : Context :=
        if gkeyOf y.tm 0 = key then { y with sems := tputD 0 y.sems n (Nat.min (tgetD y.sems n 0 + k) (2 ^ 31 - 1)) } else y
      { s with contexts := s.contexts.map add }

/-- The completion that a well-formed COMP names (R145). -/
def State.performComp (s : State) (pan : Nat) (x : Slice) (leaves : List (Nat × Nat)) (bytes : Nat) : State :=
  let c := x.comp
  if !compOk c then s
  else match bitsOf c 62 2 with
    | 1 => s.semSignal pan x (bitsOf c 0 6) (bitsOf c 8 8)
    | 2 =>
      let note : Note := { scope := Nat.max 1 (bitsOf c 60 2), pan := pan, team := x.team, slot := x.slot }
      let s1 := s.engineBarrier pan x.part (c % 2 ^ 56) leaves (.deliver bytes) note
      if bitOf c 59 then s1.engineBarrier pan x.part (c % 2 ^ 56) leaves (.arrive 1) note else s1
    | _ => s

/-- A slice's end: CP falls, its completion takes effect, and its record is posted. It is held while the event queue is full
and it needs a record (R145, R148). -/
def State.endSlice (s : State) (pan k : Nat) (r : SliceRun) (status errva bytes : Nat) : State :=
  let x := r.slice
  let rec_ := status != 0 || bitsOf x.comp 62 2 == 3
  if rec_ && (s.pan pan).core.evqFull then
    s.modCore pan fun p => { p with sluices := tput p.sluices k { r with st := .ended status errva bytes } }
  else
    let s1 := (s.modCore pan fun p => { p with sluices := tdel p.sluices k }).deliver
      { gk := x.gk, pan := pan, issue := x.issue, load := false, vals := x.lanes.map fun l => { lane := l }, rc := x.rc }
    let s2 := s1.performComp pan x r.leaves bytes
    if rec_ then
      let tag := if compOk x.comp && bitsOf x.comp 62 2 == 3 then x.comp % 2 ^ 32 else 0
      s2.modCore pan fun p =>
        p.postEvent (eventRecord 0 status x.op k x.team x.slot tag bytes r.oob errva x.addr x.pos)
    else s2

/-- The next move of a slice in a sluice is made (R109, R146); a block whose fill fails now makes the slice wait for XPR_RETRY as one that
failed in the pre-pass (R74, R146). -/
def State.copyStep (s : State) (pan k : Nat) (r : SliceRun) (m : Move) (rest : List Move) : State :=
  let put (st : State) (y : SliceRun) : State := st.modCore pan fun p => { p with sluices := tput p.sluices k y }
  match s.copyMove pan r m with
  | (s1, .ok (n, xs)) => put s1 { r with moves := rest, done := r.done + n, asked := r.asked ++ xs }
  | (s1, .error (.data va)) => s1.endSlice pan k r 5 va r.done
  | (s1, .error (.block pa cause va)) =>
    let (kind, port) := portOf pa
    let x := r.slice
    put (s1.postXpr x.part (portRecord 1 cause kind port (asid x.part x.asSlot) 0 0 pa va x.addr x.pos)) { r with st := .block va }

/-- SLICE_COMPLETE: the slice in a sluice makes its moves, one at each of these events, each one a request for the lines that it reaches,
and, once all are made and its peers have answered, ends; or, held for its record, ends (R105, R145, R146, R396, log 11). -/
def execSliceComplete (pan sluice : Nat) (s : State) : Host.Outcome State Fault Refusal :=
  match tget (s.pan pan).core.sluices sluice with
  | none => .next s
  | some r =>
    if (s.pan pan).off || !(s.pan pan).caughtUp then .next s
    else
      let go (s1 : State) : Host.Outcome State Fault Refusal := .next (s.orWait (s1.synced pan))
      match r.st with
      | .ready => match r.moves with
        | m :: rest => go (s.copyStep pan sluice r m rest)
        | [] =>
          if r.asked.isEmpty then go (s.endSlice pan sluice r 0 0 r.done)
          else go (s.modCore pan fun p =>
            { p with sluices := tput p.sluices sluice { r with st := .remote r.asked r.done, asked := [] } })
      | .remote [] bytes => go (s.endSlice pan sluice r 0 0 bytes)
      | .ended status errva bytes => go (s.endSlice pan sluice r status errva bytes)
      | _ => .next s

/-! ## Slices that are cut off, R146 -/

/-- A copy from global to global memory, which touches no scratchpad and runs on without its team's context (log 34). -/
def Slice.roams (x : Slice) : Bool := x.op == 0 && bitsOf x.desc 166 2 == 2

/-- The record of a slice that a forced teardown of its context cuts off (R146, R147). -/
def Slice.cancelRecord (x : Slice) (unit bytes oob : Nat) : List Byte :=
  eventRecord 0 6 x.op unit x.team x.slot (if compOk x.comp && bitsOf x.comp 62 2 == 3 then x.comp % 2 ^ 32 else 0) bytes oob 0 x.addr x.pos

/-- Records posted, or held until there is room (R148). -/
def PanCore.postAll (c : PanCore) (es : List (List Byte)) : PanCore :=
  if es.isEmpty then c else { c with held := c.held ++ es }.postHeld (c.held ++ es)

/-- A pan without the slices of groups for which `mine` holds: each is cut off, and posts its record (R146). -/
def PanCore.cutSlices (c : PanCore) (mine : GKey → Bool) : PanCore :=
  let inSluice := c.sluices.filter fun e => mine e.2.slice.gk
  let waiting := (c.asm.flatMap (·.slices) ++ c.squeue.flatten ++ c.sready).filter fun x => mine x.gk
  ({ c with
    asm := c.asm.filter fun e => !e.slices.any fun x => mine x.gk
    squeue := c.squeue.filter fun cmd => !cmd.any fun x => mine x.gk
    sready := c.sready.filter fun x => !mine x.gk
    sluices := c.sluices.filter fun e => !mine e.2.slice.gk } : PanCore).postAll
    (inSluice.map (fun e => e.2.slice.cancelRecord e.1 e.2.done e.2.oob) ++ waiting.map fun x => x.cancelRecord 0 0 0)

/-- Every slice of a team is cut off, on whichever pan it stands; what a pan so loses is lost for good (R146). -/
def State.cutSlices (s : State) (mine : GKey → Bool) : State :=
  let cut (n : Pan) : Pan :=
    let c := n.core.cutSlices mine
    if c = n.core then n else { n with core := c, undo := [], drc := n.rc, sync := true }
  { s with pans := tmap s.pans fun _ n => cut n }

/-! ## XPR_RETRY with FAIL, R77, R146 -/

/-- Slices of a slot that wait on a block fault complete with BLOCK, and so do its rake commands (R146, R284, R288). -/
def PanCore.failSlices (p : PanCore) (part slot : Nat) : PanCore :=
  let ss := tmap p.sluices fun _ (r : SliceRun) =>
    match r.st with
    | .block va => if r.slice.part == part && r.slice.asSlot == slot then { r with st := .ended 4 va 0 } else r
    | _ => r
  { p with sluices := ss, rqueue := p.rqueue.map fun (c : RkCmd) =>
      if c.part == part && c.asSlot == slot && c.wait == 1 then { c with wait := 2 } else c,
           gfx := p.gfx.map fun (c : GfxCmd) =>
      if c.part == part && c.asSlot == slot && c.wait == 1 then { c with wait := 2 } else c }

/-- XPR_RETRY_FAIL: the groups of a slot that wait on a block fault take a fatal block fault instead, its record being the
one they posted; its slices that wait so complete with BLOCK (R77, R146). -/
def execXprRetryFail (part slot : Nat) (s : State) : Host.Outcome State Fault Refusal :=
  let s1 := { s with pans := tmap s.pans fun _ n => { n with core := n.core.failSlices part slot } }
  .next (if s.blockWaiter part slot then s1.fatal part slot id else s1)

end Sys2Proof.Machine
end

