-- ==== Sys2Proof/Machine/Matrix.lean ====
section
/-! DEFINITION. Matrix arrays: the parameter block, B buffers and the MLDB crossbar, products and accumulation, completion
(R185, R186, R254 to R266, rows 0xA0 to 0xA8). -/

namespace Sys2Proof.Machine

/-! ## Formats and the parameter block, R254 and R255 -/

/-- Element bits of a format code. -/
def mxBits (f : Nat) : Nat := [16, 16, 8, 8, 4, 32, 64].getD f 0

/-- K_T of a format code. -/
def mxKt (f : Nat) : Nat := [64, 64, 128, 128, 256, 32, 32].getD f 0

/-- N_T of a format code. -/
def mxNt (f : Nat) : Nat := if f = 6 then 32 else 64

/-- The number format of a code other than .q4. -/
def mxFmt (f : Nat) : Fmt := [bf16, f16, e4m3, e5m2, f32, f32, f64].getD f f32

/-- The accumulator format of a bank. -/
def bankFmt (mode64 : Bool) : Fmt := if mode64 then f64 else f32

def MxCmd.aoff (c : MxCmd) : Nat := bitsOf c.desc 0 32
def MxCmd.apitch (c : MxCmd) : Nat := bitsOf c.desc 32 16
def MxCmd.afmt (c : MxCmd) : Nat := bitsOf c.desc 48 4
def MxCmd.bfmt (c : MxCmd) : Nat := bitsOf c.desc 52 4
def MxCmd.sat (c : MxCmd) : Bool := bitOf c.desc 56
def MxCmd.rnd (c : MxCmd) : Nat := bitsOf c.desc 57 3
def MxCmd.bbuf (c : MxCmd) : Nat := bitsOf c.desc 61 1
def MxCmd.evq (c : MxCmd) : Bool := bitOf c.desc 62
def MxCmd.zi (c : MxCmd) : Bool := bitOf c.desc 63
def MxCmd.m (c : MxCmd) : Nat := bitsOf c.desc 64 16
def MxCmd.k (c : MxCmd) : Nat := bitsOf c.desc 80 16
def MxCmd.asoff (c : MxCmd) : Nat := bitsOf c.desc 96 32
def MxCmd.n (c : MxCmd) : Nat := bitsOf c.desc 128 16
def MxCmd.row (c : MxCmd) : Nat := bitsOf c.desc 144 8
def MxCmd.tag (c : MxCmd) : Nat := bitsOf c.desc 160 32
def MxCmd.permoff (c : MxCmd) : Nat := bitsOf c.desc 192 32

/-- MMA or MMAS. -/
def MxCmd.mul (c : MxCmd) : Bool := c.opc == 0xA0 || c.opc == 0xA1

/-- MMAS. -/
def MxCmd.sparse (c : MxCmd) : Bool := c.opc == 0xA1

/-- A command with a parameter block, which writes a record (R256). -/
def MxCmd.recorded (c : MxCmd) : Bool := c.mul || c.opc == 0xA2 || c.opc == 0xA3 || c.opc == 0xA4 || c.opc == 0xA6

/-- Rows and bytes per row of the operand or destination at AOFF. -/
def MxCmd.tile (c : MxCmd) : Nat × Nat :=
  let w := mxBits c.afmt
  match c.opc with
  | 0xA2 => (c.n, (c.m * w + 7) / 8)
  | 0xA3 | 0xA4 => (c.k, (c.n * w + 7) / 8)
  | 0xA6 => (c.m, (c.n * w + 7) / 8)
  | _ => (c.m, (c.k * w + 7) / 8)

/-- Fields that MMA and MMAS give a meaning, and those of which they ask 0 (R255). -/
def MxCmd.mulOk (c : MxCmd) : Bool :=
  let f := c.afmt
  let pair := f == c.bfmt || ((f == 2 || f == 3) && (c.bfmt == 2 || c.bfmt == 3))
  pair && decide (f ≤ 6) && !(c.sparse && (f == 1 || f == 5 || f == 6)) &&
  decide (1 ≤ c.k) && decide (c.k ≤ (if c.sparse then 2 else 1) * mxKt f) && (f == 4 || c.asoff == 0) &&
  c.rnd == 0 && !c.sat && c.row == 0 && c.permoff == 0 &&
  (f != 4 || decide (c.asoff + c.m * ((c.k + 31) / 32) ≤ c.size))

/-- Fields of MTRN, MPRM and MRED (R255). -/
def MxCmd.constOk (c : MxCmd) : Bool :=
  decide (c.afmt ≤ 6) && c.afmt != 4 && c.bfmt == 0 && c.bbuf == 0 && c.rnd == 0 && !c.sat && c.asoff == 0 &&
  (if c.opc = 0xA2 then c.k == 0 else decide (1 ≤ c.k) && decide (c.k ≤ 64)) &&
  (if c.opc = 0xA4 then decide (c.row ≤ 63) else c.row == 0) &&
  (if c.opc = 0xA3 then decide (c.permoff + 64 ≤ c.size) else c.permoff == 0)

/-- Fields of MSTC (R255). -/
def MxCmd.storeOk (c : MxCmd) : Bool :=
  decide (c.afmt ≤ 6) && c.afmt != 4 && c.bfmt == 0 && c.bbuf == 0 && decide (c.rnd ≤ 4) && c.k == 0 && c.asoff == 0 &&
  c.row == 0 && c.permoff == 0

/-- The checks that a block's bytes alone decide (R255, R264). -/
def MxCmd.blockOk (c : MxCmd) : Bool :=
  if !c.recorded then true
  else
    let (rows, bytes) := c.tile
    !bitOf c.desc 60 && bitsOf c.desc 152 8 == 0 && bitsOf c.desc 224 160 == 0 &&
    (!c.mul || (decide (16 ≤ c.apitch) && c.apitch % 16 == 0)) && decide (1 ≤ c.m) && decide (c.m ≤ 64) && decide (1 ≤ c.n) &&
    decide (c.n ≤ mxNt c.afmt) &&
    (if c.mul then c.mulOk else if c.opc = 0xA6 then c.storeOk else c.constOk) &&
    decide (c.aoff + (rows - 1) * c.apitch + bytes ≤ c.size)

/-- The AUX that a command needs in each quarter of its buffer (R258). -/
def MxCmd.auxNeed (c : MxCmd) : Nat :=
  if !c.mul then 0
  else if c.sparse then (if c.afmt = 0 then 2 else if c.afmt = 4 then 10 else 4)
  else if c.afmt = 4 then 1 else 0

/-- A quarter of a bank's buffer. -/
def MxBank.quarter (b : MxBank) (bbuf q : Nat) : BQuarter := tgetD b.bufs (4 * bbuf + q) {}

/-- The checks made at the queue head: the mode of R255 and the AUX of R258 (R264). -/
def MxCmd.headOk (c : MxCmd) (b : MxBank) : Bool :=
  let mode := if c.opc = 0xA6 then (if b.mode64 then c.afmt == 6 || c.afmt == 5 else c.afmt != 6)
              else c.zi || b.mode64 == (c.afmt == 6)
  !c.recorded || (mode && [0, 1, 2, 3].all fun q => decide (c.auxNeed ≤ (b.quarter c.bbuf q).aux))

/-! ## Issue, R254 and R257 -/

/-- A matrix command of an issue. -/
def Ctx.matrix (c : Ctx) (s : State) (opc fn desc off : Nat) : MxCmd :=
  { gk := c.gk, slot := c.slot, team := c.g.team, part := c.tm.part, cls := c.tm.cls, issue := s.nextId, lanes := c.lanes,
    addr := c.run.addr, pos := c.run.pos, rc := (s.pan c.pan).rc + 1, opc := opc, fn := fn, desc := desc, off := off,
    base := c.tm.base, size := c.tm.size }

/-- A command enters the queue of the group's array; the issue waits while that is full (R254). -/
def Ctx.enqueue (c : Ctx) (s : State) (x : Std) (cmd : MxCmd) : State :=
  let q := quarterOf c.slot
  let l := tgetD (s.pan c.pan).core.arrays q []
  if c.counterFull .mx then c.stall s
  else if 8 ≤ l.length then c.wait s (stdWords x)
  else
    let g := c.record s.nextId (some .mx) x.d 1 .zero (c.lanes.map fun i => (i, {})) false none
    c.finish ({ s with nextId := s.nextId + 1 }.modCore c.pan fun p => { p with arrays := tput p.arrays q (l ++ [cmd]) }) g
      (stdWords x) []

/-- A matrix command with a parameter block (R255). -/
def execMatrixBlock (opc : Nat) (x : Std) (s : State) : Host.Outcome State Fault Refusal :=
  execFront opc x s fun s c =>
    let off := c.one 1 x.a
    if off % 64 ≠ 0 ∨ !c.tm.holds off 64 then s.scratchFault c.tm c.run.addr c.run.pos
    else c.enqueue s x (c.matrix s opc 0 (mnat (s.pan c.pan).core.scratch (c.tm.base + off) 48) off)

/-- MMA (R255, R259). -/
def execMma (x : Std) (s : State) : Host.Outcome State Fault Refusal := execMatrixBlock 0xA0 x s

/-- MMAS (R255, R259, R260). -/
def execMmas (x : Std) (s : State) : Host.Outcome State Fault Refusal := execMatrixBlock 0xA1 x s

/-- MTRN (R255, R261). -/
def execMtrn (x : Std) (s : State) : Host.Outcome State Fault Refusal := execMatrixBlock 0xA2 x s

/-- MPRM (R255, R261). -/
def execMprm (x : Std) (s : State) : Host.Outcome State Fault Refusal := execMatrixBlock 0xA3 x s

/-- MRED (R255, R261). -/
def execMred (x : Std) (s : State) : Host.Outcome State Fault Refusal := execMatrixBlock 0xA4 x s

/-- MSTC (R255, R262). -/
def execMstc (x : Std) (s : State) : Host.Outcome State Fault Refusal := execMatrixBlock 0xA6 x s

/-- MZERO (R254, R263): MODE is FN bit 5. -/
def execMzero (x : Std) (s : State) : Host.Outcome State Fault Refusal :=
  execFront 0xA7 x s fun s c => c.enqueue s x (c.matrix s 0xA7 x.fn.toNat 0 0)

/-- MQRY (R254, R263). -/
def execMqry (x : Std) (s : State) : Host.Outcome State Fault Refusal :=
  execFront 0xA8 x s fun s c => c.enqueue s x (c.matrix s 0xA8 x.fn.toNat 0 0)

/-- A register of a lane, whatever its thread's state; a lane without a thread reads 0 (R257). -/
def Group.laneReg (g : Group) (l n : Nat) : Word := match g.thread l with
  | some t => t.rv n
  | none => 0

/-- The bytes of `k` registers from `n` in all 32 lanes: byte o by RegByte (R257). -/
def Group.regBytes (g : Group) (n k : Nat) : List Byte :=
  (List.range k).flatMap fun j => (List.range 32).flatMap fun l => bytesOf (g.laneReg l (n + j)).toNat 4

/-- Some of `k` registers from `n` is empty in some lane. -/
def Group.regsEmpty (g : Group) (n k : Nat) : Bool := g.th.any fun e => e.2.ve &&& spanMask 256 n k != 0

/-- MLDB (R257): the group's quarter becomes an arrival; with two outstanding it waits. -/
def execMldb (x : Std) (s : State) : Host.Outcome State Fault Refusal :=
  execFront 0xA5 x s fun s c =>
    let aux := bitsOf x.fn.toNat 1 4
    if c.counterFull .mx then c.stall s
    else if c.g.regsEmpty (vregOf x.a) 16 || c.g.regsEmpty (vregOf x.b) aux || decide (2 ≤ c.g.barr.length) then
      c.wait s (stdWords x)
    else
      let a : BArrival :=
        { bbuf := bitsOf x.fn.toNat 5 1, issue := s.nextId, lanes := c.lanes, rc := (s.pan c.pan).rc + 1,
          b := { data := c.g.regBytes (vregOf x.a) 16, aux := aux, auxb := c.g.regBytes (vregOf x.b) aux } }
      let g := c.record s.nextId (some .mx) .none 1 .zero (c.lanes.map fun i => (i, {})) false none
      c.finish { s with nextId := s.nextId + 1 } { g with barr := g.barr ++ [a] } (stdWords x) []

/-! ## The broadcast, R257 -/

/-- The groups of a set of a team that have not exited: slot and group. -/
def PanCore.setGroups (p : PanCore) (team set : Nat) : List (Nat × Group) :=
  p.groups.filter fun e => e.2.team == team && e.2.role == .matrix && e.2.num / 4 == set

/-- The oldest arrival of a group for a buffer. -/
def Group.arrival (g : Group) (bbuf : Nat) : Option BArrival := g.barr.find? fun a => a.bbuf == bbuf

/-- A command of the group that reads the buffer stands in its array's queue, issued before an arrival. -/
def PanCore.bufferInUse (p : PanCore) (k bbuf issue : Nat) : Bool :=
  (tgetD p.arrays (quarterOf k) []).any fun c => c.slot == k && c.mul && c.bbuf == bbuf && decide (c.issue < issue)

/-- The broadcast of a set's quarters may take place: every group of it that has not exited holds an arrival, and no earlier
command reads the buffer. -/
def PanCore.mayBroadcast (p : PanCore) (team set bbuf : Nat) : Bool :=
  let gs := p.setGroups team set
  !gs.isEmpty && gs.all fun e => match e.2.arrival bbuf with
    | some a => !p.bufferInUse e.1 bbuf a.issue
    | none => false

/-- A group of the set after the broadcast: every quarter stands in its buffer, that of an exited group as +0 with AUX 0. -/
def Group.broadcast (g : Group) (bbuf : Nat) (qs : List (Nat × BQuarter)) : Group :=
  let bufs := (List.range 4).foldl (fun b q => tput b (4 * bbuf + q) ((qs.lookup q).getD {})) g.mx.bufs
  { g with mx := { g.mx with bufs := bufs }, barr := match g.arrival bbuf with
      | some a => g.barr.erase a
      | none => g.barr }

/-- The instructions of the arrivals that a broadcast takes have retired: their records, and every other event of the pan, are durable
(R129, log 9). -/
def Pan.arrivalsDurable (n : Pan) (gs : List (Nat × Group)) (bbuf : Nat) : Bool :=
  n.caughtUp && gs.all fun e => match e.2.arrival bbuf with
    | some a => decide (a.rc ≤ n.drc)
    | none => true

/-- MLDB_BROADCAST: the oldest arrivals of a set for a buffer are written into the banks of its groups, charged, and MX
falls in each, once the MLDBs have retired (R129, R246, R257). -/
def execMldbBroadcast (pan team set : Nat) (bbuf : Bool) (s : State) : Host.Outcome State Fault Refusal :=
  let core := (s.pan pan).core
  let gs := core.setGroups team set
  match tget core.teams team with
  | none => .next s
  | some tm =>
    if (s.joinedOf tm).any (fun j => j.g.role == .matrix && j.g.num / 4 == set) ∨ (s.pan pan).off ∨
        !core.mayBroadcast team set bbuf.toNat ∨ !(s.pan pan).arrivalsDurable gs bbuf.toNat then .next s
    else match s.affords pan tm.part (s.holdsChain (gkeyOf tm 0)) tm.cls 6 gs.length with
      | none => .next s
      | some s1 =>
        let qs := gs.filterMap fun e => (e.2.arrival bbuf.toNat).map fun a => (e.2.num % 4, a.b)
        let s2 := gs.foldl (fun st e => st.setGroup pan e.1 (e.2.broadcast bbuf.toNat qs)) s1
        .next ((gs.foldl (fun st e => match e.2.arrival bbuf.toNat with
          | some a => st.deliver { gk := gkeyOf tm e.2.num, pan := pan, issue := a.issue, load := false,
                                   vals := a.lanes.map fun l => { lane := l }, rc := a.rc }
          | none => st) s2).synced pan)

/-! ## Operands, R258 -/

/-- Element `e` of a byte list with elements of `w` bits; a 4-bit element is a nibble. -/
def elemAt (bs : List Byte) (w e : Nat) : Nat :=
  if w = 4 then bitsOf (bs.getD (e / 2) 0).toNat (4 * (e % 2)) 4 else ofBytes ((bs.drop (e * (w / 8))).take (w / 8))

/-- The value of a code in a format, with its block's scale byte where that is .q4. -/
def mxVal (f code scale : Nat) : FVal := if f = 4 then q4Decode scale code else decodeF (mxFmt f) code

/-- Element (m, k) of the tile at AOFF as a code. -/
def MxCmd.tileCode (c : MxCmd) (scratch : Memory) (m k : Nat) : Nat :=
  let a := c.base + c.aoff + m * c.apitch
  if c.afmt = 4 then bitsOf (mget scratch (a + k / 2)).toNat (4 * (k % 2)) 4
  else mnat scratch (a + k * (mxBits c.afmt / 8)) (mxBits c.afmt / 8)

/-- The value of A at (m, k). -/
def MxCmd.aVal (c : MxCmd) (scratch : Memory) (m k : Nat) : FVal :=
  let scale := (mget scratch (c.base + c.asoff + m * ((c.k + 31) / 32) + k / 32)).toNat
  mxVal c.afmt (c.tileCode scratch m k) scale

/-- The scale byte of B's block `b` in column `n`. -/
def MxCmd.bScale (c : MxCmd) (bank : MxBank) (b n : Nat) : Nat :=
  if c.sparse then ((bank.quarter c.bbuf (b / 4)).auxb.getD (4 * mxKt c.bfmt + n * 4 + b % 4) 0).toNat
  else ((bank.quarter c.bbuf (b / 2)).auxb.getD (n * 2 + b % 2) 0).toNat

/-- The value of B at stored position `p`, logical position `k`, column `n`. -/
def MxCmd.bVal (c : MxCmd) (bank : MxBank) (p k n : Nat) : FVal :=
  let kq := mxKt c.bfmt / 4
  let code := elemAt (bank.quarter c.bbuf (p / kq)).data (mxBits c.bfmt) (p % kq * mxNt c.bfmt + n)
  mxVal c.bfmt code (if c.bfmt = 4 then c.bScale bank (k / 32) n else 0)

/-- The metadata nibble of a logical group and column. -/
def MxCmd.nibble (c : MxCmd) (bank : MxBank) (g n : Nat) : Nat :=
  let h := mxKt c.bfmt / 8
  elemAt (bank.quarter c.bbuf (g / h)).auxb 4 (g % h * mxNt c.bfmt + n)

/-- Logical positions of a K-group that are present in a column, with the stored position that each reads; and whether a
nibble that feeds the K-group is illegal (R258, R260). -/
def MxCmd.positions (c : MxCmd) (bank : MxBank) (g n : Nat) : List (Nat × Nat) × Bool :=
  let ks := (List.range 32).filterMap fun i => if 32 * g + i < c.k then some (32 * g + i) else none
  if !c.sparse then (ks.map fun k => (k, k), false)
  else
    let nib (k : Nat) : Nat := c.nibble bank (k / 4) n
    (ks.filterMap fun k =>
        if k % 4 = nib k % 4 then some (k, k / 4 * 2)
        else if k % 4 = nib k / 4 then some (k, k / 4 * 2 + 1) else none,
      ks.any fun k => decide (nib k / 4 ≤ nib k % 4))

/-! ## Sums, R185 and R186 -/

/-- GroupSum of R185 over the products of a K-group, with the flags of R186. -/
def groupSum (ps : List (FVal × FVal)) : FVal × Nat :=
  if ps.isEmpty then (.fin false 0 1, 0)
  else
    let prods := ps.map fun p => mulExact p.1 p.2
    let (v, fl) := sumExact (prods.map (·.1)) 0
    (v, prods.foldl (fun a p => a ||| p.2) fl)

/-- The sum of one K-group added to an accumulator, with one rounding (R185). -/
def addGroup (f : Fmt) (acc : Nat × Nat) (s : FVal × Nat) : Nat × Nat :=
  let r := finishF f (sumExact [decodeF f acc.1, s.1] 0) 0
  (r.code, acc.2 ||| r.flags ||| s.2)

/-- Bit 5 of a record: illegal metadata met (R256). -/
def mdill : Nat := 32

/-- One output element of MMA or MMAS from its initial code: its code and the record's bits (R259, R260). -/
def MxCmd.mulCell (c : MxCmd) (scratch : Memory) (bank : MxBank) (f : Fmt) (init m n : Nat) : Nat × Nat :=
  (List.range ((c.k + 31) / 32)).foldl (fun acc g =>
    let (ps, ill) := c.positions bank g n
    addGroup f acc (if ill then (.nan false, mdill + fv)
      else groupSum (ps.map fun p => (c.aVal scratch m p.1, c.bVal bank p.2 p.1 n)))) (init, 0)

/-- The value 1. -/
def fone : FVal := .fin false 1 1

/-- The row that an index byte of MPRM names (R261). -/
def MxCmd.permRow (c : MxCmd) (scratch : Memory) (m : Nat) : Nat := (mget scratch (c.base + c.permoff + m)).toNat

/-- The products of the K-groups of MTRN, MPRM or MRED at a cell (R261). -/
def MxCmd.constGroups (c : MxCmd) (scratch : Memory) (m n : Nat) : List (List (FVal × FVal)) :=
  let x (r k : Nat) : FVal × FVal := (fone, mxVal c.afmt (c.tileCode scratch r k) 0)
  match c.opc with
  | 0xA2 => [[x n m]]
  | 0xA3 =>
    let i := c.permRow scratch m
    [if i < c.k then [x i n] else []]
  | _ => (List.range ((c.k + 31) / 32)).map fun g =>
      (List.range 32).filterMap fun i => if 32 * g + i < c.k then some (x (32 * g + i) n) else none

/-- The cells that an accumulating command updates: row and column. -/
def MxCmd.cells (c : MxCmd) : List (Nat × Nat) :=
  (if c.opc = 0xA4 then [c.row] else List.range c.m).flatMap fun m => (List.range c.n).map fun n => (m, n)

/-- A cell of a bank. -/
def MxBank.cell (b : MxBank) (m n : Nat) : Nat := tgetD b.cells (64 * m + n) 0

/-- A bank taken into the mode of a ZI command (R259): cells of the other mode hold free values, but in a bank that is all
+0. -/
def MxBank.toMode (b : MxBank) (m64 : Bool) (free : Nat) : MxBank :=
  if b.mode64 = m64 ∨ b.cells.isEmpty then { b with mode64 := m64 }
  else
    let cols := if m64 then 32 else 64
    let w := if m64 then 64 else 32
    let all := (List.range 64).flatMap fun m => (List.range cols).map fun n => 64 * m + n
    { b with mode64 := m64, cells := all.foldl (fun t k => tputD 0 t k (Config.recoded free k % 2 ^ w)) [] }

/-- An accumulating command performed on a bank: the bank and the record's bits (R259, R261). -/
def MxCmd.accumulate (c : MxCmd) (scratch : Memory) (b : MxBank) (free : Nat) : MxBank × Nat :=
  let b0 := if c.zi then b.toMode (c.afmt == 6) free else b
  let f := bankFmt b0.mode64
  c.cells.foldl (fun (acc : MxBank × Nat) p =>
    let init := if c.zi then 0 else b.cell p.1 p.2
    let (code, bits) := if c.mul then c.mulCell scratch b f init p.1 p.2
      else (c.constGroups scratch p.1 p.2).foldl (fun a ps => addGroup f a (groupSum ps)) (init, 0)
    ({ acc.1 with cells := tputD 0 acc.1.cells (64 * p.1 + p.2) code }, acc.2 ||| bits)) (b0, 0)

/-- MSTC performed: the scratchpad, the bank, the record's bits and the bytes written (R262). -/
def MxCmd.storeTile (c : MxCmd) (scratch : Memory) (b : MxBank) : Memory × MxBank × Nat × Nat :=
  let w := mxBits c.afmt / 8
  let cells := (List.range c.m).flatMap fun m => (List.range c.n).map fun n => (m, n)
  let (sc, bits) := cells.foldl (fun (acc : Memory × Nat) p =>
    let r := roundF (mxFmt c.afmt) (decodeF (bankFmt b.mode64) (b.cell p.1 p.2)) c.rnd c.sat
    (mwrite acc.1 (c.base + c.aoff + p.1 * c.apitch + p.2 * w) (bytesOf r.code w), acc.2 ||| r.flags)) (scratch, 0)
  (sc, if c.zi then { b with cells := [] } else b, bits, c.m * c.n * w)

/-! ## Admission and completion, R246, R256, R263, R264 -/

/-- Class and units of a command's cost: a row of MPRM whose index is K or above forms no product (R246, R261, R368). -/
def MxCmd.price (c : MxCmd) (b : MxBank) (scratch : Memory) : Nat × Nat :=
  let cls := if c.afmt ≤ 1 then 1 else if c.afmt ≤ 3 then 2 else if c.afmt = 4 then 3 else if c.afmt = 5 then 4 else 5
  let per (n : Nat) : Nat := (n + 4095) / 4096
  match c.opc with
  | 0xA0 => (cls, per (c.m * c.n * c.k))
  | 0xA1 => (cls, per (c.m * ((List.range c.n).map fun n =>
      ((List.range ((c.k + 31) / 32)).map fun g => (c.positions b g n).1.length).sum).sum))
  | 0xA2 => (cls, per (c.m * c.n))
  | 0xA3 => (cls, per (((List.range c.m).filter fun m => decide (c.permRow scratch m < c.k)).length * c.n))
  | 0xA4 => (cls, per (c.n * c.k))
  | 0xA6 => (7, (c.m * c.n * (mxBits c.afmt / 8) + 127) / 128)
  | _ => (8, 1)

/-- A command waits at the queue head for a broadcast of its buffer (R257). -/
def MxCmd.awaits (c : MxCmd) (g : Group) : Bool :=
  c.mul && c.blockOk && g.barr.any fun a => a.bbuf == c.bbuf && decide (a.issue < c.issue)

/-- The admission of the command at the head of an array's queue (R246, R365); one that fails its checks, and MQRY, is not
admitted. -/
def State.admitArray (s : State) (pan quarter : Nat) : State :=
  match tgetD (s.pan pan).core.arrays quarter [] with
  | [] => s
  | c :: rest => match s.group pan c.slot with
    | none => s
    | some g =>
      if c.admitted || c.opc == 0xA8 || c.awaits g || !(c.blockOk && c.headOk g.mx) then s
      else
        let dl := (c :: rest).any fun y => s.holdsChain y.gk
        let (ec, units) := c.price g.mx (s.pan pan).core.scratch
        match s.affords pan c.part dl c.cls ec units with
        | none => s
        | some s1 => s1.modCore pan fun p => { p with arrays := tput p.arrays quarter ({ c with admitted := true } :: rest) }

/-- The bytes of the team's allocation that a command reads: offset and length of each row (R258, R261). -/
def MxCmd.reads (c : MxCmd) : List (Nat × Nat) :=
  if c.opc = 0xA6 then []
  else
    let (rows, bytes) := c.tile
    ((List.range rows).map fun r => (c.aoff + r * c.apitch, bytes)) ++
    (if c.mul && c.afmt == 4 then [(c.asoff, c.m * ((c.k + 31) / 32))] else []) ++
    (if c.opc = 0xA3 then [(c.permoff, 64)] else [])

/-- A quarter of B that a command reads holds an uncorrectable datum (R264). -/
def MxCmd.badB (c : MxCmd) (b : MxBank) : Bool :=
  c.mul && [0, 1, 2, 3].any fun q => (b.quarter c.bbuf q).bad

/-- The uncorrectable datum that a command reads: its scratchpad offset, or 0 where it stands in a B buffer (R256, R264). -/
def MxCmd.dataError (c : MxCmd) (n : Pan) (b : MxBank) : Option Nat :=
  match c.reads.findSome? fun r => n.spoiltIn (c.base + r.1) r.2 with
  | some a => some (a - c.base)
  | none => if c.badB b then some 0 else none

/-- A completion record (R256). -/
def mxRecord (status bits seq : Nat) : List Byte := bytesOf (status * 2 ^ 28 + bits) 4 ++ bytesOf (seq % 2 ^ 32) 4 ++ bytesOf 0 8

/-- The OP of a matrix command's event record (R256). -/
def MxCmd.op (c : MxCmd) : Nat := c.opc - 0xA0

/-- A command leaves its array's queue, and MX falls; MQRY's value is written to every active thread (R243, R263). -/
def State.endMatrix (s : State) (pan quarter : Nat) (c : MxCmd) (val : Nat) : State :=
  (s.modCore pan fun p => { p with arrays := tput p.arrays quarter ((tgetD p.arrays quarter []).drop 1) }).deliver
    { gk := c.gk, pan := pan, issue := c.issue, load := false, vals := c.lanes.map fun l => { lane := l, val := val }, rc := c.rc }

/-- What a command with a record does: the scratchpad, the bank, the record's bits and the bytes written (R259 to R262). -/
def MxCmd.perform (c : MxCmd) (scratch : Memory) (b : MxBank) (free : Nat) : Memory × MxBank × Nat × Nat :=
  if c.opc = 0xA6 then c.storeTile scratch b
  else
    let (b1, bits) := c.accumulate scratch b free
    (scratch, b1, bits, 0)

/-- A command with a record completes: its effect where it passed its checks and met no uncorrectable datum, its record, its event
and its MX, or none of these while its event record finds no room (R148, R256, R264). -/
def State.endRecorded (s : State) (pan quarter : Nat) (c : MxCmd) (g : Group) : State :=
  let good := c.blockOk && c.headOk g.mx
  let data := if good then c.dataError (s.pan pan) g.mx else none
  let status := if !good then 1 else if data.isSome then 5 else 0
  if (c.evq || status != 0) && (s.pan pan).core.evqFull then s
  else
    let scratch := (s.pan pan).core.scratch
    let (sc, bank, bits, bytes) := if status ≠ 0 then (scratch, g.mx, 0, 0) else c.perform scratch g.mx s.freeCtr
    let seq := (bank.seq + 1) % 2 ^ 32
    let bank1 := { bank with seq := seq, status := bank.status ||| bits,
                             failed := if status = 0 then bank.failed else Nat.min (bank.failed + 1) 255 }
    let s1 := { s with freeCtr := s.freeCtr + 1 }.setGroup pan c.slot { g with mx := bank1 }
    let s2 := s1.modCore pan fun p => { p with scratch := mwrite sc (c.base + c.off + 48) (mxRecord status bits seq) }
    let s3 := if c.evq || status != 0 then
        s2.modCore pan fun p => p.postEvent
          (eventRecord 1 status c.op quarter c.team c.slot c.tag bytes 0 (data.getD 0) c.addr c.pos)
      else s2
    s3.endMatrix pan quarter c 0

/-- What MQRY reads (R263). -/
def MxBank.query (b : MxBank) : Nat := b.seq % 2 ^ 16 * 2 ^ 16 + b.failed * 2 ^ 8 + b.mode64.toNat * 2 ^ 7 + b.status

/-- MATRIX_COMMAND_COMPLETE: the command at the head of an array's queue takes effect and completes (R254, R256, R259 to
R264). It waits for its admission, for its buffer, and for the writes that precede it. -/
def execMatrixCommandComplete (pan quarter : Nat) (s : State) : Host.Outcome State Fault Refusal :=
  match tgetD (s.pan pan).core.arrays quarter [] with
  | [] => .next s
  | c :: _ => match s.group pan c.slot with
    | none => .next s
    | some g =>
      let bad := c.recorded && !(c.blockOk && c.headOk g.mx)
      if s.testing .matrix pan (· == quarter) || c.awaits g || !s.engineMayStart pan c.issue c.rc c.gk c.lanes || !(c.admitted || bad || c.opc == 0xA8) then .next s
      else if c.recorded then .next ((s.endRecorded pan quarter c g).synced pan)
      else if c.opc = 0xA7 then
        .next (((s.setGroup pan c.slot { g with mx := { g.mx with cells := [], mode64 := bitOf c.fn 5 } }).endMatrix pan quarter c
          0).synced pan)
      else
        let b := if c.fn = 1 then { g.mx with failed := 0, status := 0 } else g.mx
        .next (((s.setGroup pan c.slot { g with mx := b }).endMatrix pan quarter c g.mx.query).synced pan)

end Sys2Proof.Machine
end

