-- ==== Sys2Proof/Machine/Rake.lean ====
section
/-! DEFINITION. The rake: contexts, visits, the micro-ISA, faults and the save ring, rows 0xB0 to 0xB7, and the rake's events
(R267 to R291, R416). -/

namespace Sys2Proof.Machine

/-! ## Engine reads that may fail -/

/-- What a read by the rake comes to. -/
inductive RkRead where
  | bytes (bs : List Byte)
  | fault (f : XFault)
  | block (pa cause va : Nat)
  | data (va : Nat)

/-- Bytes read through a pan's L2 TLB, coded blocks verified, line by line (R73, R105, R282, R284, R288). -/
def State.rkRead (s : State) (pan part slot va n fuel : Nat) : State × RkRead :=
  match fuel with
  | 0 => (s, .bytes [])
  | fuel + 1 =>
    if n = 0 then (s, .bytes [])
    else
      let len := Nat.min n (128 - va % 128)
      match s.engineTranslate pan part slot va .r with
      | (s1, .error f) => (s1, .fault f)
      | (s1, .ok e) =>
        let pa := leafPa e va
        match s1.engineRead pan part pa e 0 len with
        | (s2, .block cause) => (s2, .block (blockOf pa) cause va)
        | (s2, .bad) => (s2, .data (va / 128 * 128))
        | (s2, .bytes bs) => match s2.rkRead pan part slot (va + len) (n - len) fuel with
          | (s3, .bytes rest) => (s3, .bytes (bs ++ rest))
          | r => r

/-! ## Bookkeeping, R271 -/

/-- A translation record of the rake (R63, R278): ACC 5, at the place of the command that started the query. -/
def rkFaultRecord (pan part slot : Nat) (q : Option Query) (f : XFault) : List Byte :=
  match q with
  | some q => xfRecord { f with lane := q.lane } 5 (asid part slot) pan (if quarterOf q.slot = 4 then 0 else quarterOf q.slot)
      (Config.groupId q.gk.team q.gk.num).toNat q.addr q.pos false
  | none => xfRecord f 5 (asid part slot) pan 0 0 0 0 false

/-- What an access to bookkeeping comes to: its physical address, or a fatal fault taken. -/
inductive Book where
  | ok (pa entry : Nat)
  | dead

/-- A bookkeeping access: any translation fault, and a coded page, is fatal to the slot with ACC 5, at the place of the command for
which it is made (R63, R271). -/
def State.book (s : State) (pan part slot va : Nat) (q : Option Query) : State × Book :=
  let die (st : State) (f : XFault) : State × Book :=
    (st.fatal part slot fun t => t.postXfr part (rkFaultRecord pan part slot q f), .dead)
  match s.engineTranslate pan part slot va .rw with
  | (s1, .error f) => die s1 f
  | (s1, .ok e) =>
    if pteCodec e ≠ 0 then die s1 { lane := 0, va := va, kind := 3, level := leafLevel e, entry := e }
    else (s1, .ok (leafPa e va) e)

/-- An uncorrectable datum in bookkeeping, after the first atomic of a step, is fatal to the slot (R278). -/
def State.bookData (s : State) (part slot pa : Nat) : State :=
  s.fatal part slot fun st => st.logError (errRecord 2 Config.noUnit.toNat 0 part (asid part slot) (lineOf pa) 0 0 0)

/-- `n` bytes of bookkeeping, read at their home bed, as a number; none where the access was fatal (R105, R271). -/
def State.bookRead (s : State) (pan part slot va n : Nat) (q : Option Query) : State × Option Nat :=
  match s.book pan part slot va q with
  | (s1, .dead) => (s1, none)
  | (s1, .ok pa e) => match s1.engineRead pan part pa e 0 n with
    | (s2, .bytes bs) => (s2, some (ofBytes bs))
    | (s2, _) => (s2.bookData part slot pa, none)

/-- A release at `.dev` leaves its note on a line of bookkeeping (R100, R272, R278, R279). -/
def State.bookNote (s : State) (pan part pa : Nat) (rel : Bool) : State :=
  if rel then s.setNote part (lineOf pa) false (some { scope := 2, pan := pan, team := 0, slot := 0 }) else s

/-- Bytes stored in bookkeeping; where `rel` holds, as a release at .dev (R272, R278, R279). False where the access was fatal. -/
def State.bookWrite (s : State) (pan part slot va : Nat) (bs : List Byte) (rel : Bool) (q : Option Query) : State × Bool :=
  match s.book pan part slot va q with
  | (s1, .dead) => (s1, false)
  | (s1, .ok pa e) => ((s1.engineWrite pan part pa e 0 bs).bookNote pan part pa rel, true)

/-- A bed atomic on a number of `n` bytes of bookkeeping: its old value, read once the ordered updates of its line are applied; none
where it was fatal (R94, R271). -/
def State.bookAtomic (s : State) (pan part slot va n : Nat) (f : Nat → Nat) (rel : Bool) (q : Option Query) : State × Option Nat :=
  match s.book pan part slot va q with
  | (s1, .dead) => (s1, none)
  | (s1, .ok pa e) =>
    let line := lineOf pa
    let s2 := ((s1.lineRequest pan).closeConflict line).unitTouch 0 part 0 line false (pteRet e) true true
    if s2.badLine pa then (s2.bookData part slot pa, none)
    else
      let old := ofBytes (s2.viewRead false pa n)
      let s3 := (s2.takeTag (homeBed line) part).1.bedStore part 0 pa false (bytesOf (f old % 2 ^ (8 * n)) n) (pteRet e)
      ((s3.modPan pan fun x => x.l1Invalidate line).bookNote pan part pa rel, some old)

/-- A line that a first atomic would meet is uncorrectable (R278). -/
def State.bookBad (s : State) (pan part slot va : Nat) : State × Bool :=
  match s.engineTranslate pan part slot va .rw with
  | (s1, .ok e) => (s1, s1.badLine (leafPa e va))
  | (_, .error _) => (s, false)

/-! ## Contexts, treelets and the ray table, R267 to R271 -/

def RkBind.nsz (b : RkBind) : Nat := bitsOf (b.lay.getD 0 0) 24 8 * 16

/-- A field word of a layout; 0 beyond the fields. -/
def RkBind.field (b : RkBind) (f : Nat) : Nat := if f ≤ bitsOf (b.lay.getD 0 0) 20 4 then b.lay.getD (f + 1) 0 else 0

def fieldKind (w : Nat) : Nat := bitsOf w 28 4
def fieldOff (w : Nat) : Nat := bitsOf w 16 8

/-- Scalars per element of a kind (R268). -/
def kindScalars (k : Nat) : Nat := if k = 6 then 6 else if k = 7 then 9 else 1

/-- Bytes of a scalar of a kind (R268). -/
def kindBytes (k : Nat) : Nat := if k = 3 then 1 else if k = 2 ∨ k = 4 then 2 else 4

/-- Scalars of a field. -/
def fieldScalars (w : Nat) : Nat := (bitsOf w 24 4 + 1) * kindScalars (fieldKind w)

/-- A field word of a layout is legal in a node of a size (R268). -/
def fieldOk (w nsz : Nat) : Bool :=
  let k := fieldKind w
  bitsOf w 0 16 == 0 && decide (1 ≤ k) && decide (k ≤ 10) && decide (fieldScalars w ≤ 16) &&
  !((k == 6 || k == 7 || k == 8 || k == 10) && bitsOf w 24 4 != 0) && fieldOff w % kindBytes k == 0 &&
  decide (fieldOff w + fieldScalars w * kindBytes k ≤ nsz)

/-- A layout keeps the rules of R268. -/
def layoutOk (lay : List Nat) : Bool :=
  let h := lay.getD 0 0
  let nf := bitsOf h 20 4 + 1
  let fs := (lay.drop 1).take nf
  let many (k : Nat) : Bool := decide (1 < (fs.filter fun w => fieldKind w == k).length)
  bitsOf h 0 20 == 0 && decide (1 ≤ bitsOf h 24 8) && decide (bitsOf h 24 8 ≤ 16) &&
  fs.all (fun w => fieldOk w (bitsOf h 24 8 * 16)) && ((lay.drop (1 + nf)).all fun w => w == 0) &&
  !([6, 8, 9, 10].any many)

/-- The number of the field of a kind, where there is exactly one. -/
def RkBind.fieldOf (b : RkBind) (k : Nat) : Option Nat :=
  match (List.range (bitsOf (b.lay.getD 0 0) 20 4 + 1)).filter fun f => fieldKind (b.field f) == k with
  | [f] => some f
  | _ => none

/-- Scalar `e` of field `f` in a node's bytes, as bits. -/
def RkBind.raw (b : RkBind) (bytes : List Byte) (f e : Nat) : Nat :=
  let w := b.field f
  let n := kindBytes (fieldKind w)
  ofBytes ((bytes.drop (fieldOff w + e * n)).take n)

/-- FEX of R276: F16 is widened to binary32. -/
def RkBind.scalar (b : RkBind) (bytes : List Byte) (f e : Nat) : Nat :=
  let x := b.raw bytes f e
  if fieldKind (b.field f) = 2 then (roundF f32 (decodeF f16 x) 0).code else x

def RkBind.treeVa (b : RkBind) (t : Nat) : Nat := b.trees + 32 * t
def RkBind.entryVa (b : RkBind) (qid : Nat) : Nat := b.raytab + 64 * qid
def RkBind.asid (b : RkBind) : Nat := Sys2Proof.Machine.asid b.part b.asSlot

/-- Two bindings are alike (R267). -/
def RkBind.alike (a b : RkBind) : Bool :=
  a.part == b.part && a.asSlot == b.asSlot && a.ctx == b.ctx && a.progid == b.progid && a.layid == b.layid

/-- The query of a ray-table entry that is under way. -/
def State.query (s : State) (b : RkBind) (qid : Nat) : Option Query :=
  s.queries.find? fun q => q.asid == b.asid && q.entry == b.entryVa qid

/-- A field of a treelet's entry (R270), read for a query or a command. -/
def State.treeField (s : State) (pan : Nat) (b : RkBind) (t off n : Nat) (q : Option Query) : State × Option Nat :=
  s.bookRead pan b.part b.asSlot (b.treeVa t + off) n q

/-- A field of a ray-table entry (R271). -/
def State.rayField (s : State) (pan : Nat) (b : RkBind) (qid off n : Nat) : State × Option Nat :=
  s.bookRead pan b.part b.asSlot (b.entryVa qid + off) n (s.query b qid)

/-! ## Visits in their slots -/

/-- The state with a visit changed. -/
def State.modRake (s : State) (pan : Nat) (f : Rake → Rake) : State := s.modPan pan fun n => { n with rake := f n.rake }

def State.putVisit (s : State) (pan k : Nat) (v : Visit) : State := s.modRake pan fun r => { r with visits := tput r.visits k v }

def State.dropVisit (s : State) (pan k : Nat) : State :=
  (s.modRake pan fun r => { r with visits := tdel r.visits k }).modPan pan fun n => { n with pw := { n.pw with idle := s.clock.nowNs } }

/-- Visit slots that neither a visit nor a claim holds. -/
def Rake.free (r : Rake) : Nat := 256 - r.visits.length - r.claims.length

/-- A visit in a free slot. -/
def State.addVisit (s : State) (pan : Nat) (v : Visit) : State :=
  match tfree (s.pan pan).rake.visits 256 with
  | some k => s.putVisit pan k v
  | none => s

/-- The energy of an admitted visit's unused steps comes back (R290). -/
def State.creditSteps (s : State) (pan : Nat) (b : RkBind) (v : Visit) : State :=
  if v.charged then s.modPan pan fun n => { n with pw := n.pw.credit (engineCost 9 b.stepcap - engineCost 9 v.steps) } else s

/-- A query finishes (R272): STATUS becomes DONE where it is RUN, and a finish notice goes out. -/
def State.finishQuery (s : State) (pan : Nat) (b : RkBind) (qid : Nat) : State :=
  let (s1, _) := s.bookAtomic pan b.part b.asSlot (b.entryVa qid + 52) 1 (fun st => if st = 1 then 2 else st) false (s.query b qid)
  match s1.query b qid with
  | some q => { s1 with queries := s1.queries.erase q, finishes := s1.finishes ++ [q] }
  | none => s1

/-- A visit ends (R272): it leaves its slot, and the one that takes PEND to 0 finishes the query. -/
def State.endVisit (s : State) (pan k : Nat) (v : Visit) (b : RkBind) : State :=
  let s1 := (s.dropVisit pan k).creditSteps pan b v
  match s1.bookAtomic pan b.part b.asSlot (b.entryVa v.qid + 40) 4 (fun x => x + 2 ^ 32 - 1) true (s.query b v.qid) with
  | (s2, some 1) => s2.finishQuery pan b v.qid
  | (s2, _) => s2

/-- A visit faults before its step: it is to be saved, with its state as it stands (R278). -/
def State.visitFault (s : State) (pan k : Nat) (v : Visit) (cause ucode fva : Nat) : State :=
  s.putVisit pan k { v with st := .saving cause ucode fva }

/-! ## The micro-ISA, R275 to R278 -/

/-- The field of a micro-word is of one of these kinds, and its scalar exists (R275). -/
def RkBind.uses (b : RkBind) (f : Nat) (ks : List Nat) (e : Nat) : Bool :=
  let w := b.field f
  w != 0 && (ks.isEmpty || ks.contains (fieldKind w)) && decide (e < fieldScalars w)

/-- A micro-word is legal in a program of `n` words with a layout (R275). -/
def RkBind.wordOk (b : RkBind) (n : Nat) : Instr → Bool
  | .rkFex _ f e => b.uses f.toNat [] e.toNat
  | .rkBox _ f => b.uses f.toNat [6] 0
  | .rkTri _ f => b.uses f.toNat [7] 0
  | .rkPtd _ _ f => b.uses f.toNat [6] 0
  | .rkEed _ _ f e => b.uses f.toNat [3, 4] e.toNat
  | .rkJmp t => decide (t.toNat < n)
  | .rkJc _ t => decide (t.toNat < n)
  | _ => true

/-- A word that cannot fall through (R275). -/
def wordEnds : Instr → Bool
  | .rkJmp _ | .rkNext _ | .rkNextChild | .rkDone _ | .rkFlt _ => true
  | _ => false

/-- The check of a program by RKBIND (R275). -/
def RkBind.progOk (b : RkBind) : Bool :=
  b.prog.all (fun w => match decodeMicro w with
    | some i => b.wordOk b.prog.length i
    | none => false) &&
  match b.prog.getLast?.bind decodeMicro with
  | some i => wordEnds i
  | none => false

def Visit.reg (v : Visit) (n : BitVec 3) : Nat := v.m.getD n.toNat 0

def Visit.setReg (v : Visit) (n : BitVec 3) (x : Nat) : Visit := { v with m := listSet v.m n.toNat (x % 2 ^ 32) }

/-- A visit past a step that goes on at the next word. -/
def Visit.stepped (v : Visit) : Visit := { v with mpc := v.mpc + 1, steps := v.steps + 1 }

/-- STATUS of a visit's query as the rake finds it at a step boundary, without an access of its own: one whose line is uncorrectable
counts as not cancelled (R278 lists what a step's access may meet, R287; DESIGN CHOICE: log 108). None where the slot is torn down. -/
def State.statusAt (s : State) (pan : Nat) (b : RkBind) (qid : Nat) : State × Option Nat :=
  match s.book pan b.part b.asSlot (b.entryVa qid + 52) (s.query b qid) with
  | (s1, .dead) => (s1, none)
  | (s1, .ok pa _) => (s1, some (if s1.badLine pa then 1 else (mget s1.mem pa).toNat))

/-- A micro-step of the actor's visit (R276): it takes place where the visit can step, its query has not been cancelled, and its
steps are not used up. -/
def execMicro (s : State) (f : State → Nat → Nat → Visit → RkBind → State) : Host.Outcome State Fault Refusal :=
  let pan := s.actor.1
  let k := s.actor.2
  match tget (s.pan pan).rake.visits k with
  | none => .next s
  | some v => match tget (s.pan pan).rake.binds v.bslot with
    | none => .next s
    | some b =>
      if v.st ≠ .ready ∨ (s.pan pan).off then .next s
      else match s.statusAt pan b v.qid with
        | (s1, none) => .next (s.orWait s1)
        | (s1, some st) =>
          if st = 4 then .next (s.orWait (s1.endVisit pan k v b))
          else if b.stepcap ≤ v.steps then .next (s.orWait (s1.visitFault pan k v 5 0 0))
          else .next (s.orWait (f s1 pan k v b))

/-- NLD (R276): its node's read is asked for; the step is over when it returns. -/
def execRkNld (a : BitVec 3) (s : State) : Host.Outcome State Fault Refusal :=
  execMicro s fun s pan k v b =>
    match s.treeField pan b v.tree 8 4 (s.query b v.qid) with
    | (s1, none) => s1
    | (s1, some n) =>
      if n ≤ v.reg a then s1.visitFault pan k v 4 0 0
      else s1.putVisit pan k { v with st := .reading (v.reg a) (v.mpc + 1) true }

/-- FEX (R276). -/
def execRkFex (d : BitVec 3) (f e : BitVec 4) (s : State) : Host.Outcome State Fault Refusal :=
  execMicro s fun s pan k v b => s.putVisit pan k (v.setReg d (b.scalar v.bytes f.toNat e.toNat)).stepped

/-- The real of a binary32 code. -/
def rv (code : Nat) : FVal := decodeF f32 (code % 2 ^ 32)

/-- Exact addition, subtraction, product and quotient on the extended reals; undefined steps give NaN (R277). -/
def radd (x y : FVal) : FVal := (sumExact [x, y] 0).1
def rsub (x y : FVal) : FVal := radd x y.negate
def rmul (x y : FVal) : FVal := (mulExact x y).1
def rdiv (x y : FVal) : FVal := (divExact x y).1

/-- x ≤ y on the extended reals; false where either is NaN. -/
def rle (x y : FVal) : Bool := !x.isNan && !y.isNan && !y.lt x

def rmin (x y : FVal) : FVal := if x.isNan || y.isNan then .nan false else if y.lt x then y else x
def rmax (x y : FVal) : FVal := if x.isNan || y.isNan then .nan false else if x.lt y then y else x

/-- The binary32 code of the canonical NaN (R277). -/
def rkNan : Nat := 0x7FC00000

/-- An exact zero of a geometric operation has no sign: the rationals have one zero (R277, log 43). -/
def unsigned (x : FVal) : FVal := if x.isZero then .fin false 0 1 else x

/-- The empty box, which is never hit (R277). -/
def emptyBounds (lo hi : Nat → FVal) : Bool :=
  [0, 1, 2].all fun i => (lo i).isInf && !(lo i).neg && (hi i).isInf && (hi i).neg

/-- Lower and upper bounds of a query: a ray's box is its origin (R277). -/
def Visit.lo (v : Visit) (i : Nat) : FVal := rv (v.q.getD i 0)
def Visit.hi (v : Visit) (i : Nat) : FVal := rv (v.q.getD (if v.box then 3 + i else i) 0)
def Visit.dir (v : Visit) (i : Nat) : FVal := rv (v.q.getD (3 + i) 0)

/-- Entry and exit distances of a ray on one axis of a box (R277). -/
def slab (o d lo hi : FVal) : FVal × FVal :=
  if d.isZero then
    if lo.isNan || hi.isNan || o.isNan then (.nan false, .nan false)
    else if rle lo o && rle o hi then (.inf true, .inf false) else (.inf false, .inf true)
  else
    let n := rdiv (rsub lo o) d
    let f := rdiv (rsub hi o) d
    if n.isNan || f.isNan then (.nan false, .nan false) else if f.lt n then (f, n) else (n, f)

/-- The nearer of TMAX and the hit snapshot. -/
def Visit.reach (v : Visit) : FVal := rmin (rv v.tmax) (rv v.hs)

/-- BOX of R277 against lo and hi of three axes: C and m[D]. -/
def Visit.boxTest (v : Visit) (lo hi : Nat → FVal) : Bool × Nat :=
  if v.box then
    if [0, 1, 2].any fun i => (lo i).isNan || (hi i).isNan || (v.lo i).isNan || (v.hi i).isNan then (false, rkNan)
    else (!(emptyBounds lo hi) && [0, 1, 2].all fun i => rle (v.lo i) (hi i) && rle (lo i) (v.hi i), 0)
  else
    let ss := [0, 1, 2].map fun i => slab (v.lo i) (v.dir i) (lo i) (hi i)
    let n := ss.foldl (fun a x => rmax a x.1) (.inf true)
    let f := ss.foldl (fun a x => rmin a x.2) (.inf false)
    if n.isNan || f.isNan || (rv v.tmin).isNan || v.reach.isNan then (false, rkNan)
    else
      let en := (roundF f32 (unsigned n) 3).code
      let ex := (roundF f32 (unsigned f) 2).code
      (!(emptyBounds lo hi) && rle (rv en) (rv ex) && rle (rv v.tmin) (rv ex) && rle (rv en) v.reach,
        if (rv en).lt (rv v.tmin) then v.tmin else en)

/-- The bounds of a BOX field of the visit's node. -/
def RkBind.boxAt (b : RkBind) (bytes : List Byte) (f i : Nat) : FVal := rv (b.raw bytes f i)

/-- BOX (R276, R277). -/
def execRkBox (d : BitVec 3) (f : BitVec 4) (s : State) : Host.Outcome State Fault Refusal :=
  execMicro s fun s pan k v b =>
    let (c, x) := v.boxTest (fun i => b.boxAt v.bytes f.toNat i) (fun i => b.boxAt v.bytes f.toNat (3 + i))
    s.putVisit pan k { v.setReg d x with c := c }.stepped

/-- Vectors of three exact values. -/
def vsub (a b : Nat → FVal) (i : Nat) : FVal := rsub (a i) (b i)
def vdot (a b : Nat → FVal) : FVal := radd (radd (rmul (a 0) (b 0)) (rmul (a 1) (b 1))) (rmul (a 2) (b 2))
def vcross (a b : Nat → FVal) (i : Nat) : FVal :=
  rsub (rmul (a ((i + 1) % 3)) (b ((i + 2) % 3))) (rmul (a ((i + 2) % 3)) (b ((i + 1) % 3)))

/-- TRI of R277 for a ray: C and m[D]. -/
def Visit.triRay (v : Visit) (v0 v1 v2 : Nat → FVal) : Bool × Nat :=
  let e1 := vsub v1 v0
  let e2 := vsub v2 v0
  let p := vcross v.dir e2
  let det := vdot e1 p
  if det.isZero then (false, 0)
  else
    let t0 := vsub v.lo v0
    let q := vcross t0 e1
    let u := rdiv (vdot t0 p) det
    let w := rdiv (vdot v.dir q) det
    let t := rdiv (vdot e2 q) det
    if det.isNan || u.isNan || w.isNan || t.isNan || (rv v.tmin).isNan || v.reach.isNan then (false, rkNan)
    else
      let tr := (roundF f32 (unsigned t) 0).code
      let zero : FVal := .fin false 0 1
      (rle zero u && rle zero w && rle (radd u w) (.fin false 1 1) && rle (rv v.tmin) (rv tr) && rle (rv tr) v.reach, tr)

/-- Every value that TRI reads is finite: the vertices, and of a ray its origin and direction; an infinite one gives the NaN result, as a
NaN does (R277). -/
def Visit.triFinite (v : Visit) (vs : List (Nat → FVal)) : Bool :=
  let own (i : Nat) : List FVal := if v.box then [] else [v.lo i, v.dir i]
  [0, 1, 2].all fun i => (own i ++ vs.map fun f => f i).all fun x => !x.isNan && !x.isInf

/-- TRI of R277: C and m[D]. -/
def Visit.triTest (v : Visit) (v0 v1 v2 : Nat → FVal) : Bool × Nat :=
  if !v.triFinite [v0, v1, v2] then (false, rkNan)
  else if v.box then
    v.boxTest (fun i => rmin (v0 i) (rmin (v1 i) (v2 i))) (fun i => rmax (v0 i) (rmax (v1 i) (v2 i)))
  else v.triRay v0 v1 v2

/-- TRI (R276, R277). -/
def execRkTri (d : BitVec 3) (f : BitVec 4) (s : State) : Host.Outcome State Fault Refusal :=
  execMicro s fun s pan k v b =>
    let p (j i : Nat) : FVal := b.boxAt v.bytes f.toNat (3 * j + i)
    let (c, x) := v.triTest (p 0) (p 1) (p 2)
    s.putVisit pan k { v.setReg d x with c := c }.stepped

/-- The squared gap of PTD (R277); NaN where an operand is. -/
def Visit.gap (v : Visit) (lo hi : Nat → FVal) : FVal :=
  let g (i : Nat) : FVal := rmax (rmax (rsub (lo i) (v.hi i)) (rsub (v.lo i) (hi i))) (.fin false 0 1)
  radd (radd (rmul (g 0) (g 0)) (rmul (g 1) (g 1))) (rmul (g 2) (g 2))

/-- PTD (R276, R277). -/
def execRkPtd (d a : BitVec 3) (f : BitVec 4) (s : State) : Host.Outcome State Fault Refusal :=
  execMicro s fun s pan k v b =>
    let g := v.gap (fun i => b.boxAt v.bytes f.toNat i) (fun i => b.boxAt v.bytes f.toNat (3 + i))
    let bad := g.isNan || (rv (v.reg a)).isNan
    let x := if bad then rkNan else (roundF f32 g 2).code
    s.putVisit pan k { v.setReg d x with c := !bad && rle (rv x) (rv (v.reg a)) }.stepped

/-- EED (R276). A power of two beyond 2^400 or below 2^-400 rounds as that bound does. -/
def execRkEed (d a : BitVec 3) (f e : BitVec 4) (s : State) : Host.Outcome State Fault Refusal :=
  execMicro s fun s pan k v b =>
    let ex : Int := max (-400) (min 400 (sval (v.reg a) 32 - 127))
    let x := finishF f32 (sumExact [rv (v.reg d), dyadic false (b.raw v.bytes f.toNat e.toNat) ex] 0) 0
    s.putVisit pan k (v.setReg d x.code).stepped

/-- CMPF (R276). -/
def execRkCmpf (a b : BitVec 3) (x : BitVec 2) (s : State) : Host.Outcome State Fault Refusal :=
  execMicro s fun s pan k v _ =>
    let p := rv (v.reg a)
    let q := rv (v.reg b)
    let un := p.isNan || q.isNan
    let c := match x.toNat with
      | 0 => !un && p.lt q
      | 1 => !un && !q.lt p
      | 2 => !un && p.feq q
      | _ => un
    s.putVisit pan k { v with c := c }.stepped

/-- JMP (R276). -/
def execRkJmp (target : Byte) (s : State) : Host.Outcome State Fault Refusal :=
  execMicro s fun s pan k v _ => s.putVisit pan k { v with mpc := target.toNat, steps := v.steps + 1 }

/-- JC (R276): it jumps where C differs from X. -/
def execRkJc (x : Bool) (target : Byte) (s : State) : Host.Outcome State Fault Refusal :=
  execMicro s fun s pan k v _ =>
    s.putVisit pan k (if v.c != x then { v with mpc := target.toNat, steps := v.steps + 1 } else v.stepped)

/-- A queue entry (R270). -/
def queueEntry (qid tmin gen : Nat) : List Byte := bytesOf qid 4 ++ bytesOf tmin 4 ++ bytesOf gen 4 ++ bytesOf 0 4

/-- ENQ (R276, R278): a slot of the treelet's queue reserved, PEND raised, the entry stored. -/
def execRkEnq (a b : BitVec 3) (s : State) : Host.Outcome State Fault Refusal :=
  execMicro s fun s pan k v bd =>
    let t := v.reg a
    let q := s.query bd v.qid
    if bd.ntree ≤ t then s.visitFault pan k v 4 0 0
    else match s.bookBad pan bd.part bd.asSlot (bd.treeVa t + 24) with
    | (s1, true) => s1.visitFault pan k v 3 0 (bd.treeVa t + 24)
    | (s1, false) => match s1.treeField pan bd t 0 32 q with
      | (s2, none) => s2
      | (s2, some e) =>
        let qlog := bitsOf e 96 8
        let head := bitsOf e 192 32
        let tail := bitsOf e 224 32
        if (head + 2 ^ 32 - tail) % 2 ^ 32 = 2 ^ qlog then s2.visitFault pan k v 7 0 0
        else match s2.bookAtomic pan bd.part bd.asSlot (bd.treeVa t + 24) 4 (· + 1) false q with
          | (s3, none) => s3
          | (s3, some _) => match s3.bookAtomic pan bd.part bd.asSlot (bd.entryVa v.qid + 40) 4 (· + 1) false q with
            | (s4, none) => s4
            | (s4, some _) => match s4.bookWrite pan bd.part bd.asSlot (bitsOf e 128 64 + 16 * (head % 2 ^ qlog))
                (queueEntry v.qid (v.reg b) v.gen) true q with
              | (s5, false) => s5
              | (s5, true) => s5.putVisit pan k v.stepped

/-- A visit goes on at a node, or ends where there is none (R276). -/
def State.visitNext (s : State) (pan k : Nat) (v : Visit) (b : RkBind) (target : Nat) : State :=
  match s.treeField pan b v.tree 8 4 (s.query b v.qid) with
  | (s1, none) => s1
  | (s1, some n) =>
    if n ≤ target then s1.endVisit pan k { v with steps := v.steps + 1 } b
    else s1.putVisit pan k { v with st := .reading target 0 true }

/-- NEXT with X 000 (R276). -/
def execRkNext (a : BitVec 3) (s : State) : Host.Outcome State Fault Refusal :=
  execMicro s fun s pan k v b => s.visitNext pan k v b (v.reg a)

/-- NEXT with X 001 (R276). -/
def execRkNextChild (s : State) : Host.Outcome State Fault Refusal :=
  execMicro s fun s pan k v b => s.visitNext pan k v b (v.node + 1)

/-- HMIN (R274, R276). -/
def execRkHmin (a b : BitVec 3) (s : State) : Host.Outcome State Fault Refusal :=
  execMicro s fun s pan k v bd =>
    let d := if v.reg a = 2 ^ 31 then 0 else v.reg a
    if (rv d).isNan || !(rle (rv v.tmin) (rv d) && rle (rv d) (rv v.tmax)) then s.putVisit pan k v.stepped
    else match s.bookBad pan bd.part bd.asSlot (bd.entryVa v.qid + 32) with
    | (s1, true) => s1.visitFault pan k v 3 0 (bd.entryVa v.qid + 32)
    | (s1, false) =>
      let hs := if (rv d).lt (rv v.hs) then d else v.hs
      match s1.bookAtomic pan bd.part bd.asSlot (bd.entryVa v.qid + 32) 8 (fun x => Nat.min x (d * 2 ^ 32 + v.reg b)) false
          (s.query bd v.qid) with
      | (s2, none) => s2
      | (s2, some _) => s2.putVisit pan k { v with hs := hs }.stepped

/-- EMIT (R276). -/
def execRkEmit (a : BitVec 3) (s : State) : Host.Outcome State Fault Refusal :=
  execMicro s fun s pan k v b =>
    let q := s.query b v.qid
    match s.bookBad pan b.part b.asSlot (b.entryVa v.qid + 44) with
    | (s1, true) => s1.visitFault pan k v 3 0 (b.entryVa v.qid + 44)
    | (s1, false) => match s1.bookAtomic pan b.part b.asSlot (b.entryVa v.qid + 44) 4 (· + 1) false q with
      | (s2, none) => s2
      | (s2, some i) =>
        let out : State × Bool := if i < b.cap then
            s2.bookWrite pan b.part b.asSlot (b.out + (v.qid * b.cap + i) * 8) (bytesOf (v.reg a * 2 ^ 32 + v.qid) 8) false q
          else
            let r := s2.bookAtomic pan b.part b.asSlot (b.entryVa v.qid + 53) 1 (· ||| 2) false q
            (r.1, r.2.isSome)
        match out with
        | (s3, true) => s3.putVisit pan k v.stepped
        | (s3, false) => s3

/-- YLD (R276). -/
def execRkYld (s : State) : Host.Outcome State Fault Refusal := execMicro s fun s pan k v _ => s.putVisit pan k v.stepped

/-- DONE (R272, R276). -/
def execRkDone (fin : Bool) (s : State) : Host.Outcome State Fault Refusal :=
  execMicro s fun s pan k v b =>
    let done : Visit := { v with steps := v.steps + 1 }
    if !fin then s.endVisit pan k done b
    else match s.bookAtomic pan b.part b.asSlot (b.entryVa v.qid + 52) 1 (fun st => if st = 1 then 2 else st) false (s.query b v.qid) with
      | (s1, some _) => s1.endVisit pan k done b
      | (s1, none) => s1

/-- FLT (R276, R278). -/
def execRkFlt (code : Byte) (s : State) : Host.Outcome State Fault Refusal :=
  execMicro s fun s pan k v _ => s.visitFault pan k v 6 code.toNat 0

/-! ## Node reads, admission and the save ring, R279, R282, R290 -/

/-- A visit taken up after its admission (R272, R286, R287): one whose query has ended or been cancelled ends at once, else
its node is read. -/
def State.startVisit (s : State) (pan k : Nat) (v : Visit) (b : RkBind) : State :=
  match s.rayField pan b v.qid 52 1 with
  | (s1, none) => s1
  | (s1, some st) =>
    if st = 4 ∨ (st = 2 ∧ v.fresh) then s1.endVisit pan k v b
    else s1.putVisit pan k { v with st := .reading v.node v.mpc false }

/-- VISIT_ADMISSION (R290, R365). -/
def execVisitAdmission (pan visit : Nat) (s : State) : Host.Outcome State Fault Refusal :=
  match tget (s.pan pan).rake.visits visit with
  | none => .next s
  | some v => match tget (s.pan pan).rake.binds v.bslot with
    | none => .next s
    | some b =>
      if v.st ≠ .entering ∨ (s.pan pan).off then .next s
      else
        let q := s.query b v.qid
        let dl := s.queries.any fun x => s.holdsChain x.gk && (some x == q ||
          (s.pan pan).rake.visits.any fun e => decide (e.2.st = .entering) && e.1 != visit && s.query b e.2.qid == some x)
        match s.affords pan b.part dl ((q.map (·.cls)).getD 1) 9 b.stepcap with
        | none => .next s
        | some s1 => .next (s.orWait (s1.startVisit pan visit { v with charged := true } b))

/-- NODE_READ_RETURN (R278, R282): the node's bytes arrive from the node cache or from memory, and the visit continues from
its micro-PC; or the read faults. -/
def execNodeReadReturn (pan visit : Nat) (s : State) : Host.Outcome State Fault Refusal :=
  match tget (s.pan pan).rake.visits visit with
  | none => .next s
  | some v => match v.st, tget (s.pan pan).rake.binds v.bslot with
    | .reading node mpc step, some b =>
      if (s.pan pan).off then .next s
      else
        let q := s.query b v.qid
        .next (s.orWait (match s.treeField pan b v.tree 0 8 q with
          | (s1, none) => s1
          | (s1, some nodes) =>
            let va := (nodes + node * b.nsz) % 2 ^ 64
            let got (st : State) (bs : List Byte) : State :=
              st.putVisit pan visit { v with st := .ready, node := node, mpc := mpc, bytes := bs, fresh := false,
                                             steps := v.steps + step.toNat }
            match (s1.pan pan).rake.cache.find? fun e => e.1 == b.asid && e.2.1 == va && e.2.2.length == b.nsz with
            | some e => got s1 e.2.2
            | none => match s1.rkRead pan b.part b.asSlot va b.nsz 4 with
              | (s2, .bytes bs) =>
                got (s2.modRake pan fun r => { r with cache := ((b.asid, va, bs) :: r.cache).take (65536 / b.nsz) }) bs
              | (s2, .data fva) => s2.visitFault pan visit v 3 0 fva
              | (s2, .block pa cause fva) =>
                let (kind, port) := portOf pa
                (s2.postXpr b.part (portRecord 1 cause kind port b.asid 0 0 pa fva ((q.map (·.addr)).getD 0)
                  ((q.map (·.pos)).getD 0))).visitFault pan visit v 2 0 fva
              | (s2, .fault f) =>
                let rec_ := rkFaultRecord pan b.part b.asSlot q f
                if f.kind = 0 then (s2.postXfr b.part rec_).visitFault pan visit v 1 0 f.va
                else s2.fatal b.part b.asSlot fun st => st.postXfr b.part rec_))
    | _, _ => .next s

/-- The first 124 bytes of a ray-state record (R279). -/
def rayState (v : Visit) (b : RkBind) (cause ucode fva seq : Nat) : List Byte :=
  (v.q.flatMap fun w => bytesOf w 4) ++ bytesOf v.tmin 4 ++ bytesOf v.tmax 4 ++ bytesOf v.qid 4 ++ bytesOf v.tree 4 ++
  bytesOf v.node 4 ++ (v.m.flatMap fun w => bytesOf w 4) ++ bytesOf (v.hs * 2 ^ 32) 8 ++ bytesOf v.mpc 1 ++
  bytesOf (v.c.toNat * 128 + v.box.toNat * 64) 1 ++ bytesOf cause 1 ++ bytesOf 0 1 ++ bytesOf b.progid 4 ++ bytesOf b.layid 4 ++
  bytesOf b.ctx 2 ++ bytesOf v.steps 2 ++ bytesOf v.gen 4 ++ bytesOf fva 8 ++ bytesOf v.owner 4 ++ bytesOf 0 4 ++
  bytesOf (ucode * 2 ^ 24 + seq % 2 ^ 24) 4

/-- The event record of a saved visit is posted where its owner's team is resident, or kept with that team's receipts; none
where the event queue has no room (R148, R416). -/
def State.postRayEvent (s : State) (v : Visit) (b : RkBind) (va : Nat) : Option State :=
  let q := s.query b v.qid
  let gk := (q.map (·.gk)).getD { part := b.part, grid := 0, team := 0, num := 0 }
  let rec_ (team slot : Nat) : List Byte :=
    eventRecord 2 0 1 0 team slot v.qid 128 0 va ((q.map (·.addr)).getD 0) ((q.map (·.pos)).getD 0)
  let home := s.pans.findSome? fun e => (e.2.core.teams.find? fun t => gkeyOf t.2 0 == gk.team_).map fun t => (e.1, t.1)
  match home with
  | some (p, t) =>
    if (s.pan p).core.evqFull || !(s.pan p).caughtUp then none
    else some ((s.modCore p fun c => c.postEvent (rec_ t ((q.map (·.slot)).getD 0))).synced p)
  | none => some { s with eventReceipts := s.eventReceipts ++
      [(gk.team_, rec_ ((q.map (·.team)).getD 0) ((q.map (·.slot)).getD 0))] }

/-- A visit whose record is written leaves its slot once its event is posted (R148, R279). -/
def State.postVisit (s : State) (pan k : Nat) (v : Visit) (b : RkBind) (va : Nat) : State :=
  match s.postRayEvent v b va with
  | some s1 => (s1.dropVisit pan k).creditSteps pan b v
  | none => s.putVisit pan k { v with st := .posting va }

/-- The record of a visit is written to a slot of the save ring that it has reserved: RSV, the record, HEAD (R279). -/
def State.writeRecord (s : State) (pan : Nat) (v : Visit) (b : RkBind) (cause ucode fva n : Nat) : State × Option Nat :=
  let q := s.query b v.qid
  let va := b.save + 128 + n % 2 ^ (b.slog + 4) * 128
  let body := rayState v b cause ucode fva n
  match s.bookWrite pan b.part b.asSlot (b.save + 8) (bytesOf (n + 1) 4) false q with
  | (s1, false) => (s1, none)
  | (s1, true) => match s1.bookWrite pan b.part b.asSlot va (body ++ bytesOf (crc32c body) 4) true q with
    | (s2, false) => (s2, none)
    | (s2, true) => match s2.bookWrite pan b.part b.asSlot b.save (bytesOf (n + 1) 4) false q with
      | (s3, false) => (s3, none)
      | (s3, true) => (s3, some va)

/-- The save ring of a binding has room, by its header's first twelve bytes: RSV − TAIL is below its size, and every reserved record
is written (R279). -/
def RkBind.ringRoom (b : RkBind) (h : Nat) : Bool :=
  let n := bitsOf h 64 32
  decide ((n + 2 ^ 32 - bitsOf h 32 32) % 2 ^ 32 < 2 ^ (b.slog + 4)) && bitsOf h 0 32 == n

/-- SAVE_RING_RESERVE: a visit that is to be saved reserves a slot of the save ring, where it has room, writes its record,
advances HEAD, and posts its event (R278, R279). -/
def execSaveRingReserve (pan visit : Nat) (s : State) : Host.Outcome State Fault Refusal :=
  match tget (s.pan pan).rake.visits visit with
  | none => .next s
  | some v => match v.st, tget (s.pan pan).rake.binds v.bslot with
    | .posting va, some b => .next (s.postVisit pan visit v b va)
    | .saving cause ucode fva, some b =>
      if (s.pan pan).off then .next s
      else .next (s.orWait (match s.bookRead pan b.part b.asSlot b.save 12 (s.query b v.qid) with
        | (s1, none) => s1
        | (s1, some h) =>
          if !b.ringRoom h then s1
          else match s1.writeRecord pan v b cause ucode fva (bitsOf h 64 32) with
            | (s2, some va) => s2.postVisit pan visit v b va
            | (s2, none) => s2))
    | _, _ => .next s

/-! ## Claims, R273 -/

/-- The pairs of binding slot and treelet of a rake, in order. -/
def Rake.pairs (r : Rake) : List (Nat × Nat) := r.binds.flatMap fun e => (List.range e.2.ntree).map fun t => (e.1, t)

/-- The pairs in rotation order, from after the one last claimed from (R273). -/
def Rake.rotation (r : Rake) : List (Nat × Nat) :=
  let before (p : Nat × Nat) : Bool := decide (p.1 < r.rot.1) || (p.1 == r.rot.1 && decide (p.2 ≤ r.rot.2))
  (r.pairs.filter fun p => !before p) ++ r.pairs.filter before

/-- The first pair of a list whose queue holds entries, with the bytes of its treelet entry; one whose read is fatal to its slot is
passed over. The rake looks at a queue for no command: a fault record of it names none (R63, R273; DESIGN CHOICE: log 109). -/
def State.findQueue (s : State) (pan : Nat) (ps : List (Nat × Nat)) : State × Option (Nat × Nat × Nat) :=
  match ps with
  | [] => (s, none)
  | (bs, t) :: r => match tget (s.pan pan).rake.binds bs with
    | none => s.findQueue pan r
    | some b => match s.treeField pan b t 0 32 none with
      | (s1, none) => s1.findQueue pan r
      | (s1, some e) => if bitsOf e 192 32 = bitsOf e 224 32 then s1.findQueue pan r else (s1, some (bs, t, e))

/-- A claimed entry that has been read (R273): it is reset, and starts a visit, or is dropped where its GEN is stale. -/
def State.takeEntry (s : State) (pan : Nat) (b : RkBind) (c : Claim) (e : Nat) : State :=
  let qid := bitsOf e 0 32
  let q := s.query b qid
  match s.bookWrite pan b.part b.asSlot c.va (bytesOf 0xFFFFFFFF 4) false q with
  | (s1, false) => s1
  | (s1, true) => match s1.bookRead pan b.part b.asSlot (b.entryVa qid) 64 q with
    | (s2, none) => s2
    | (s2, some x) =>
      if bitsOf x 384 32 ≠ bitsOf e 64 32 then s2
      else s2.addVisit pan
        { bslot := c.bslot, qid := qid, q := (List.range 6).map fun i => bitsOf x (32 * i) 32, box := bitOf x 424,
          tmin := bitsOf e 32 32, tmax := bitsOf x 224 32, tree := c.tree, hs := bitsOf x 288 32, gen := bitsOf x 384 32,
          owner := bitsOf x 448 32 }

/-- A claimed entry is read; while its QID is 0xFFFF_FFFF the claim waits on it (R273). -/
def State.readClaim (s : State) (pan : Nat) (c : Claim) : State :=
  match tget (s.pan pan).rake.binds c.bslot with
  | none => s
  | some b => match s.bookRead pan b.part b.asSlot c.va 16 none with
    | (s1, none) => s1
    | (s1, some e) =>
      if bitsOf e 0 32 = 0xFFFFFFFF then
        s1.modRake pan fun r => { r with claims := r.claims ++ [{ c with since := s1.clock.cycles }] }
      else s1.takeEntry pan b c e

/-- RKSAV has stopped claiming for a binding slot (R287). -/
def PanCore.claimStopped (p : PanCore) (b : Nat) : Bool :=
  match p.rqueue with
  | c :: _ => c.opc == 0xB3 && c.charged && c.bslot == b
  | [] => false

/-- RAKE_CLAIM (R273). -/
def execRakeClaim (pan : Nat) (s : State) : Host.Outcome State Fault Refusal :=
  let r := (s.pan pan).rake
  if r.free = 0 ∨ (r.visits.any fun e => decide (e.2.st = .ready)) ∨ (s.pan pan).off then .next s
  else .next (s.orWait (match s.findQueue pan (r.rotation.filter fun e => !(s.pan pan).core.claimStopped e.1) with
    | (s1, none) => s1
    | (s1, some (bs, t, e)) => match tget r.binds bs with
      | none => s1
      | some b =>
        let tail := bitsOf e 224 32
        let n := Nat.min 64 (Nat.min r.free ((bitsOf e 192 32 + 2 ^ 32 - tail) % 2 ^ 32))
        match s1.bookAtomic pan b.part b.asSlot (b.treeVa t + 28) 4 (· + n) false none with
        | (s2, none) => s2
        | (s2, some _) => (List.range n).foldl (fun st i => st.readClaim pan
            { bslot := bs, tree := t, since := 0, va := bitsOf e 128 64 + 16 * ((tail + i) % 2 ^ bitsOf e 96 8) })
            (s2.modRake pan fun x => { x with rot := (bs, t) })))

/-- CLAIM_ENTRY_REREAD: an entry that was still unwritten is read again after 256 cycles (R273). -/
def execClaimEntryReread (pan idx : Nat) (s : State) : Host.Outcome State Fault Refusal :=
  match (s.pan pan).rake.claims[idx]? with
  | none => .next s
  | some c =>
    if c.since + 256 ≤ s.clock.cycles ∧ !(s.pan pan).off then
      .next (s.orWait ((s.modRake pan fun r => { r with claims := listDrop r.claims idx }).readClaim pan c))
    else .next s

/-- FINISH_NOTICE: a query's finish reaches its issuing group, or its receipts (R131, R285, R416). -/
def execFinishNotice (idx : Nat) (s : State) : Host.Outcome State Fault Refusal :=
  match s.finishes[idx]? with
  | none => .next s
  | some q =>
    .next ({ s with finishes := listDrop s.finishes idx }.deliver
      { gk := q.gk, pan := 0, issue := q.issue, load := false, vals := [{ lane := q.lane }] })

/-! ## Issue of rows 0xB0 to 0xB7, R283 -/

/-- A rake command of an issue; FN holds BSLOT. -/
def Ctx.rake (c : Ctx) (s : State) (opc : Nat) (x : Std) : RkCmd :=
  { gk := c.gk, slot := c.slot, team := c.g.team, part := c.tm.part, asSlot := c.tm.slot, cls := c.tm.cls, issue := s.nextId,
    lanes := c.lanes, addr := c.run.addr, pos := c.run.pos, rc := (s.pan c.pan).rc + 1, opc := opc, bslot := x.fn.toNat % 4,
    base := c.tm.base }

/-- A command enters the rake queue; with 16 in it a further issue stalls (R283). RKRAY and RKQRY make two issues: one for
their predicate, and one on GT that ends with the last accepted query. -/
def Ctx.sendRake (c : Ctx) (s : State) (x : Std) (cmd : RkCmd) : State :=
  if c.counterFull .gt then c.stall s
  else if 16 ≤ (s.pan c.pan).core.rqueue.length then c.wait s (stdWords x)
  else
    let lanes : Tbl LaneWait := c.lanes.map fun l => (l, {})
    let query := cmd.opc == 0xB1 || cmd.opc == 0xB2
    let g := if query then
        let g1 := c.record s.nextId none x.d 1 .zero lanes false none
        ({ c with g := g1 } : Ctx).record (s.nextId + 1) (some .gt) .none 1 .zero lanes false none
      else c.record s.nextId (some .gt) x.d 1 .zero lanes false none
    c.finish ({ s with nextId := s.nextId + 2 }.modCore c.pan fun p => { p with rqueue := p.rqueue ++ [cmd] }) g (stdWords x) []

/-- RKBIND (R267, R283): its descriptor is read from scratchpad. -/
def execRkbind (x : Std) (s : State) : Host.Outcome State Fault Refusal :=
  execFront 0xB0 x s fun s c =>
    let off := c.one 1 x.a
    if off % 16 ≠ 0 ∨ !c.tm.holds off 64 then s.scratchFault c.tm c.run.addr c.run.pos
    else
      let d := mnat (s.pan c.pan).core.scratch (c.tm.base + off) 64
      c.sendRake s x { c.rake s 0xB0 x with desc := d, off := off, bslot := bitsOf d 488 2 }

/-- The query registers and QID of each active lane (R285). -/
def Ctx.rayArgs (c : Ctx) (x : Std) (n : Nat) : Tbl (List Nat) :=
  c.lanes.filterMap fun l => (c.g.thread l).map fun t =>
    (l, srcNat c.g t 1 x.b :: (List.range n).map fun k => (t.rv (vregOf x.a + k)).toNat)

/-- RKRAY (R283, R285). -/
def execRkray (x : Std) (s : State) : Host.Outcome State Fault Refusal :=
  execFront 0xB1 x s fun s c => c.sendRake s x { c.rake s 0xB1 x with args := c.rayArgs x 8 }

/-- RKQRY (R283, R285). -/
def execRkqry (x : Std) (s : State) : Host.Outcome State Fault Refusal :=
  execFront 0xB2 x s fun s c => c.sendRake s x { c.rake s 0xB2 x with args := c.rayArgs x 6 }

/-- RKSAV (R283, R287). -/
def execRksav (x : Std) (s : State) : Host.Outcome State Fault Refusal :=
  execFront 0xB3 x s fun s c => c.sendRake s x { c.rake s 0xB3 x with bslot := c.one 1 x.a % 4 }

/-- RKRES (R283, R286). -/
def execRkres (x : Std) (s : State) : Host.Outcome State Fault Refusal :=
  execFront 0xB4 x s fun s c => c.sendRake s x { c.rake s 0xB4 x with args := c.lanes.map fun l =>
    (l, [c.at (fun g t => srcNat g t 2 x.a) l]) }

/-- RKREF (R283, R288): its refit block is read from scratchpad. -/
def execRkref (x : Std) (s : State) : Host.Outcome State Fault Refusal :=
  execFront 0xB5 x s fun s c =>
    let off := c.one 1 x.a
    if off % 16 ≠ 0 ∨ !c.tm.holds off 48 then s.scratchFault c.tm c.run.addr c.run.pos
    else
      let d := mnat (s.pan c.pan).core.scratch (c.tm.base + off) 48
      c.sendRake s x { c.rake s 0xB5 x with desc := d, off := off, bslot := bitsOf d 256 2 }

/-- RKFLSH (R283, R287). -/
def execRkflsh (x : Std) (s : State) : Host.Outcome State Fault Refusal :=
  execFront 0xB6 x s fun s c => c.sendRake s x (c.rake s 0xB6 x)

/-- RKCAN (R283, R287). -/
def execRkcan (x : Std) (s : State) : Host.Outcome State Fault Refusal :=
  execFront 0xB7 x s fun s c => c.sendRake s x { c.rake s 0xB7 x with args := c.lanes.map fun l =>
    (l, [c.at (fun g t => srcNat g t 1 x.a) l]) }

/-! ## The rake takes a command, R283 to R288 -/

/-- The answer to a command's issue, lane by lane. -/
def State.rkAnswer (s : State) (pan : Nat) (c : RkCmd) (issue : Nat) (vals : List (Nat × Nat)) : State :=
  s.deliver { gk := c.gk, pan := pan, issue := issue, load := false, vals := vals.map fun v => { lane := v.1, val := v.2 }, rc := c.rc }

/-- A command leaves the rake queue, where it still stands there: a fatal fault of its slot has taken it out (R278). -/
def State.rkPop (s : State) (pan : Nat) (c : RkCmd) : State :=
  s.modCore pan fun p => { p with rqueue := p.rqueue.filter fun y => y.issue != c.issue }

/-- A command of the rake queue changed, where it still stands there. -/
def State.rkHead (s : State) (pan : Nat) (c : RkCmd) : State :=
  s.modCore pan fun p => { p with rqueue := p.rqueue.map fun y => if y.issue = c.issue then c else y }

/-- A command's place, for the records of its faults (R63). -/
def RkCmd.place (c : RkCmd) : Query :=
  { asid := asid c.part c.asSlot, entry := 0, gk := c.gk, issue := c.issue, lane := c.lanes.headD 0, addr := c.addr, pos := c.pos,
    slot := c.slot, team := c.team }

/-- The node cache dropped (R282). -/
def State.dropNodes (s : State) (pan : Nat) : State := s.modRake pan fun r => { r with cache := [] }

/-- A descriptor's fields lie in their ranges (R267). -/
def descOk (d : Nat) : Bool :=
  bitsOf d 0 2 == 0 && bitsOf d 64 2 == 0 && bitsOf d 128 5 == 0 && bitsOf d 192 6 == 0 && bitsOf d 256 3 == 0 &&
  bitsOf d 320 7 == 0 && decide (1 ≤ bitsOf d 384 32) && decide (bitsOf d 384 32 ≤ 2 ^ 24) && decide (1 ≤ bitsOf d 416 32) &&
  decide (bitsOf d 416 32 ≤ 2 ^ 24) && decide (1 ≤ bitsOf d 464 16) && bitsOf d 490 2 == 0

/-- The binding that a descriptor names, with its program and layout read (R267). -/
def bindOf (c : RkCmd) (prog lay : List Byte) : RkBind :=
  let d := c.desc
  { part := c.part, asSlot := c.asSlot, ctx := bitsOf d 496 16, progid := crc32c prog, layid := crc32c lay,
    prog := (List.range (bitsOf d 480 8 + 1)).map fun k => BitVec.ofNat 32 (ofBytes ((prog.drop (4 * k)).take 4)),
    lay := (List.range 17).map fun k => ofBytes ((lay.drop (4 * k)).take 4),
    trees := bitsOf d 128 64, raytab := bitsOf d 192 64, out := bitsOf d 256 64, save := bitsOf d 320 64,
    ntree := bitsOf d 384 32, nq := bitsOf d 416 32, cap := bitsOf d 448 16, stepcap := bitsOf d 464 16, slog := bitsOf d 492 4 }

/-- The status of a binding whose program and layout have been read, and the state it leaves (R284). -/
def State.bindStatus (s : State) (pan : Nat) (c : RkCmd) (b : RkBind) : State × Nat :=
  let old := tget (s.pan pan).rake.binds c.bslot
  let busy := (s.pan pan).rake.visits.any (fun e => e.2.bslot == c.bslot) || (s.pan pan).rake.claims.any fun k => k.bslot == c.bslot
  if !b.progOk then (s, 2)
  else if !layoutOk b.lay then (s, 3)
  else match old with
    | some o =>
      if o.alike b then (s.dropNodes pan, 0)
      else if busy then (s, 5)
      else ((s.dropNodes pan).modRake pan fun r => { r with binds := tput r.binds c.bslot b }, 0)
    | none => ((s.dropNodes pan).modRake pan fun r => { r with binds := tput r.binds c.bslot b }, 0)

/-- RKBIND's status is written, and it ends. -/
def State.endBind (s : State) (pan : Nat) (c : RkCmd) (status : Nat) : State :=
  (s.rkPop pan c).rkAnswer pan c c.issue (c.lanes.map fun l => (l, status * 2 ^ 28))

/-- A translation fault of a command itself: its record, and the teardown where it is fatal (R62, R63). -/
def State.rkFault (s : State) (pan : Nat) (c : RkCmd) (f : XFault) : State :=
  let rec_ := rkFaultRecord pan c.part c.asSlot (some c.place) f
  if f.kind = 0 then s.postXfr c.part rec_ else s.fatal c.part c.asSlot fun st => st.postXfr c.part rec_

/-- A command's read meets a block fault: its record is posted, and the command waits for XPR_RETRY (R284, R288). -/
def State.rkBlocked (s : State) (pan : Nat) (c : RkCmd) (pa cause va : Nat) : State :=
  let (kind, port) := portOf pa
  (s.postXpr c.part (portRecord 1 cause kind port (asid c.part c.asSlot) 0 0 pa va c.addr c.pos)).rkHead pan { c with wait := 1 }

/-- RKBIND taken (R284). -/
def State.takeBind (s : State) (pan : Nat) (c : RkCmd) : State :=
  let d := c.desc
  let fail (st : State) (r : RkRead) : State := match r with
    | .fault f => (st.endBind pan c 4).rkFault pan c f
    | .block pa cause va => st.rkBlocked pan c pa cause va
    | .data _ => st.endBind pan c 4
    | .bytes _ => st
  if c.wait = 2 then s.endBind pan c 6
  else if !descOk d then s.endBind pan c 1
  else match s.rkRead pan c.part c.asSlot (bitsOf d 0 64) (4 * (bitsOf d 480 8 + 1)) 16 with
    | (s1, .bytes prog) => match s1.rkRead pan c.part c.asSlot (bitsOf d 64 64) 68 4 with
      | (s2, .bytes lay) =>
        let (s3, status) := s2.bindStatus pan c (bindOf c prog lay)
        s3.endBind pan c status
      | (s2, r) => fail s2 r
    | (s1, r) => fail s1 r

/-- A query is rejected for its registers alone (R285). -/
def rayRejected (q : List Nat) (box : Bool) (tmin tmax : Nat) : Bool :=
  let x (i : Nat) : FVal := rv (q.getD i 0)
  (q ++ [tmin, tmax]).any (fun w => (rv w).isNan) ||
  (if box then [0, 1, 2].any fun i => (x (3 + i)).lt (x i)
   else [3, 4, 5].all (fun i => (x i).isZero) || !rle (.fin false 0 1) (rv tmin) || (rv tmax).lt (rv tmin))

/-- One lane's query started, or rejected (R285): its entry is written and its visit begins at treelet 0. -/
def State.startQuery (s : State) (pan : Nat) (c : RkCmd) (b : RkBind) (lane qid : Nat) (q : List Nat) : State × Bool :=
  let box := c.opc == 0xB2
  let tmin := if box then 0 else q.getD 6 0
  let tmax := if box then 0x7F800000 else q.getD 7 0
  let q6 := q.take 6
  if b.nq ≤ qid || rayRejected q6 box tmin tmax then (s, false)
  else match s.bookRead pan b.part b.asSlot (b.entryVa qid) 64 (some c.place) with
    | (s1, none) => (s1, false)
    | (s1, some e) =>
      if bitsOf e 416 8 = 1 then (s1, false)
      else
        let gen := (bitsOf e 384 32 + 1) % 2 ^ 32
        let owner := pan * 2 ^ 16 + c.slot * 2 ^ 8
        let bytes := (q6.flatMap fun w => bytesOf w 4) ++ bytesOf tmin 4 ++ bytesOf tmax 4 ++ bytesOf 0x7F800000FFFFFFFF 8 ++
          bytesOf 1 4 ++ bytesOf 0 4 ++ bytesOf gen 4 ++ bytesOf 1 1 ++ bytesOf box.toNat 1 ++ bytesOf 0 2 ++ bytesOf owner 4 ++ bytesOf 0 4
        let qy : Query := { asid := b.asid, entry := b.entryVa qid, gk := c.gk, issue := c.issue + 1, lane := lane, addr := c.addr,
                            pos := c.pos, slot := c.slot, team := c.team, cls := c.cls }
        match s1.bookWrite pan b.part b.asSlot (b.entryVa qid) bytes false (some c.place) with
        | (s2, false) => (s2, false)
        | (s2, true) => ({ s2 with queries := s2.queries ++ [qy] }.addVisit pan
            { bslot := c.bslot, qid := qid, q := q6, box := box, tmin := tmin, tmax := tmax, tree := 0, hs := 0x7F800000, gen := gen,
              owner := owner }, true)

/-- The queries of RKRAY or RKQRY, lane by lane; a lane that names a lower lane's QID is rejected. -/
def State.startQueries (s : State) (pan : Nat) (c : RkCmd) (as : Tbl (List Nat)) (seen : List Nat) : State × List (Nat × Bool) :=
  match as with
  | [] => (s, [])
  | (lane, qs) :: r =>
    let qid := qs.headD 0
    let (s1, ok) := match tget (s.pan pan).rake.binds c.bslot with
      | some b => if seen.contains qid then (s, false) else s.startQuery pan c b lane qid (qs.drop 1)
      | none => (s, false)
    let (s2, rest) := s1.startQueries pan c r (qid :: seen)
    (s2, (lane, ok) :: rest)

/-- RKRAY or RKQRY taken (R285): predicates are written, and GT no longer waits for the rejected lanes. -/
def State.takeQueries (s : State) (pan : Nat) (c : RkCmd) : State :=
  if (s.pan pan).rake.free < c.lanes.length then s
  else
    let (s1, oks) := (s.rkPop pan c).startQueries pan c c.args []
    let s2 := s1.rkAnswer pan c c.issue (oks.map fun e => (e.1, e.2.toNat))
    s2.rkAnswer pan c (c.issue + 1) ((oks.filter fun e => !e.2).map fun e => (e.1, 0))

/-- Every visit of the bindings for which `here` holds is to be saved, and their claims end (R281, R287). A claim's entry that
has not been read is read as the visit it will be. -/
def Rake.saveVisits (r : Rake) (here : Nat → Bool) : Rake :=
  let mark (v : Visit) : Visit := match v.st with
    | .saving _ _ _ | .posting _ => v
    | _ => { v with st := .saving 0 0 0 }
  { r with visits := tmap r.visits fun _ v => if here v.bslot then mark v else v }

/-- RKSAV taken (R287): every visit of the slot is saved; with the last the slot is free. -/
def State.takeSave (s : State) (pan : Nat) (c : RkCmd) : State :=
  let r := (s.pan pan).rake
  if (r.visits.any fun e => e.2.bslot == c.bslot) || r.claims.any fun k => k.bslot == c.bslot then
    s.modRake pan fun r => r.saveVisits fun b => b == c.bslot
  else
    let s1 := s.modRake pan fun r => { r with binds := tdel r.binds c.bslot }
    (s1.rkPop pan c).rkAnswer pan c c.issue (c.lanes.map fun l => (l, 0))

/-- A record resumes (R286): the visit it holds, where it may. -/
def State.resume (s : State) (pan : Nat) (c : RkCmd) (b : RkBind) (va : Nat) : State × Bool :=
  let i := (va - b.save - 128) / 128
  if va < b.save + 128 ∨ (va - b.save - 128) % 128 ≠ 0 ∨ 2 ^ (b.slog + 4) ≤ i then (s, false)
  else match s.bookRead pan b.part b.asSlot va 128 (some c.place) with
    | (s1, none) => (s1, false)
    | (s1, some x) =>
      let f (o n : Nat) : Nat := bitsOf x (8 * o) (8 * n)
      let body := (bytesOf x 124).zipIdx.map fun e => if e.2 = 87 then 0 else e.1
      if crc32c body ≠ f 124 4 ∨ f 88 4 ≠ b.progid ∨ f 92 4 ≠ b.layid ∨ f 96 2 ≠ b.ctx ∨ b.part ≠ c.part ∨ b.asSlot ≠ c.asSlot ∨
          b.nq ≤ f 32 4 then (s1, false)
      else match s1.bookRead pan b.part b.asSlot (b.entryVa (f 32 4)) 64 (some c.place) with
        | (s2, none) => (s2, false)
        | (s2, some e) =>
          if bitsOf e 384 32 ≠ f 100 4 ∨ f 87 1 ≠ 0 then (s2, false)
          else
            let hs := f 80 4
            let hit := bitsOf e 288 32
            match s2.bookWrite pan b.part b.asSlot (va + 87) (bytesOf 1 1) false (some c.place) with
            | (s3, false) => (s3, false)
            | (s3, true) => (s3.addVisit pan
              { bslot := c.bslot, qid := f 32 4, q := (List.range 6).map fun k => f (4 * k) 4, box := bitOf (f 85 1) 6, tmin := f 24 4,
                tmax := f 28 4, tree := f 36 4, node := f 40 4, m := (List.range 8).map fun k => f (44 + 4 * k) 4,
                c := bitOf (f 85 1) 7, mpc := f 84 1, hs := if (rv hit).lt (rv hs) then hit else hs, gen := f 100 4,
                owner := f 112 4, fresh := false }, true)

/-- Lane by lane, the records of RKRES. -/
def State.resumeAll (s : State) (pan : Nat) (c : RkCmd) (as : Tbl (List Nat)) : State × List (Nat × Bool) :=
  match as with
  | [] => (s, [])
  | (lane, vs) :: r =>
    let (s1, ok) := match tget (s.pan pan).rake.binds c.bslot with
      | some b => s.resume pan c b (vs.headD 0)
      | none => (s, false)
    let (s2, rest) := s1.resumeAll pan c r
    (s2, (lane, ok) :: rest)

/-- RKRES taken (R286). -/
def State.takeResume (s : State) (pan : Nat) (c : RkCmd) : State :=
  if (s.pan pan).rake.free < c.lanes.length then s
  else
    let (s1, oks) := (s.rkPop pan c).resumeAll pan c c.args
    s1.rkAnswer pan c c.issue (oks.map fun e => (e.1, e.2.toNat))

/-- RKCAN taken (R287): STATUS becomes CANCEL in each named entry that runs. -/
def State.takeCancel (s : State) (pan : Nat) (c : RkCmd) : State :=
  let s1 := match tget (s.pan pan).rake.binds c.bslot with
    | none => s
    | some b => c.args.foldl (fun (st : State) (a : Nat × List Nat) =>
        let qid := a.2.headD 0
        if b.nq ≤ qid then st
        else (st.bookAtomic pan b.part b.asSlot (b.entryVa qid + 52) 1 (fun x => if x = 1 then 4 else x) false
          (some c.place)).1) s
  (s1.rkPop pan c).rkAnswer pan c c.issue (c.lanes.map fun l => (l, 0))

/-! ## Refits, R288 -/

/-- What a refit's reads come to: a value, or a way to stop. -/
inductive Refit (α : Type) where
  | ok (s : State) (x : α)
  | stop (s : State) (r : RkRead)

/-- A bounding box as six binary32 codes. -/
abbrev Bounds := List Nat

/-- The empty box. -/
def emptyBox : Bounds := [0x7F800000, 0x7F800000, 0x7F800000, 0xFF800000, 0xFF800000, 0xFF800000]

/-- Union (R288): exact minima and maxima per axis; a NaN spreads. -/
def unionBox (a b : Bounds) : Bounds :=
  (List.range 6).map fun i =>
    let x := a.getD i 0
    let y := b.getD i 0
    if (rv x).isNan || (rv y).isNan then rkNan
    else if i < 3 then (if (rv y).lt (rv x) then y else x) else (if (rv x).lt (rv y) then y else x)

/-- A read of a refit, its bytes handed on. -/
def State.refitRead {α : Type} (s : State) (pan : Nat) (c : RkCmd) (va n : Nat) (k : State → List Byte → Refit α) : Refit α :=
  match s.rkRead pan c.part c.asSlot (va % 2 ^ 64) n 6 with
  | (s1, .bytes bs) => k s1 bs
  | (s1, r) => .stop s1 r

/-- A node's bytes. -/
def State.refitNode {α : Type} (s : State) (pan : Nat) (c : RkCmd) (b : RkBind) (tree x : Nat) (k : State → List Byte → Refit α) :
    Refit α :=
  match s.treeField pan b tree 0 8 (some c.place) with
  | (s1, none) => .stop s1 (.bytes [])
  | (s1, some nodes) => s1.refitRead pan c (nodes + x * b.nsz) b.nsz k

/-- The box of a primitive, grown by MARGIN; and whether a coordinate is NaN (R288). -/
def primBox (ws : List (List Byte)) (margin : Nat) : Bounds × Bool :=
  let co (j i : Nat) : Nat := ofBytes (((ws.getD j []).drop (4 * i)).take 4)
  let nan := [0, 1, 2].any fun j => [0, 1, 2].any fun i => (rv (co j i)).isNan
  let lo (i : Nat) : FVal := rmin (rv (co 0 i)) (rmin (rv (co 1 i)) (rv (co 2 i)))
  let hi (i : Nat) : FVal := rmax (rv (co 0 i)) (rmax (rv (co 1 i)) (rv (co 2 i)))
  if nan then (List.replicate 6 rkNan, true)
  else ([0, 1, 2].map (fun i => (roundF f32 (rsub (lo i) (rv margin)) 3).code) ++
        [0, 1, 2].map (fun i => (roundF f32 (radd (hi i) (rv margin)) 2).code), false)

/-- The primitives of a node united (R288). -/
def State.refitPrims (s : State) (pan : Nat) (c : RkCmd) (ps : List Nat) (acc : Bounds × Bool) : Refit (Bounds × Bool) :=
  match ps with
  | [] => .ok s acc
  | p :: r =>
    s.refitRead pan c (bitsOf c.desc 64 64 + 12 * p) 12 fun s1 ib =>
      let vert (k : Nat) : Nat := bitsOf c.desc 0 64 + 12 * ofBytes ((ib.drop (4 * k)).take 4)
      s1.refitRead pan c (vert 0) 12 fun s2 w0 =>
        s2.refitRead pan c (vert 1) 12 fun s3 w1 =>
          s3.refitRead pan c (vert 2) 12 fun s4 w2 =>
            let (b, nan) := primBox [w0, w1, w2] (bitsOf c.desc 224 32)
            s4.refitPrims pan c r (unionBox acc.1 b, acc.2 || nan)

/-- The six bounds of the BOX field of a node. -/
def RkBind.bounds (b : RkBind) (bytes : List Byte) (f : Nat) : Bounds := (List.range 6).map fun i => b.raw bytes f i

/-- The children of a node united, by skip links (R288). -/
def State.refitKids (s : State) (pan : Nat) (c : RkCmd) (b : RkBind) (tree fb fs x stop : Nat) (acc : Bounds) (fuel : Nat) :
    Refit Bounds :=
  match fuel with
  | 0 => .ok s acc
  | fuel + 1 =>
    if stop ≤ x then .ok s acc
    else s.refitNode pan c b tree x fun s1 bs =>
      s1.refitKids pan c b tree fb fs (b.raw bs fs 0) stop (unionBox acc (b.bounds bs fb)) fuel

/-- The values of the non-empty elements of a field (R268). -/
def RkBind.elems (b : RkBind) (bytes : List Byte) (f : Option Nat) : List Nat :=
  match f with
  | some f => ((List.range (fieldScalars (b.field f))).map fun e => b.raw bytes f e).filter fun v => v != 0xFFFFFFFF
  | none => []

/-- The linked treelets of a node united (R288). -/
def State.refitLinks (s : State) (pan : Nat) (c : RkCmd) (b : RkBind) (fb : Nat) (ts : List Nat) (acc : Bounds) : Refit Bounds :=
  match ts with
  | [] => .ok s acc
  | t :: r => s.refitNode pan c b t 0 fun s1 bs => s1.refitLinks pan c b fb r (unionBox acc (b.bounds bs fb))

/-- The box of one node (R288), and whether a NaN was met. -/
def State.refitBox (s : State) (pan : Nat) (c : RkCmd) (b : RkBind) (tree fb fs x : Nat) : Refit (Bounds × Bool) :=
  s.refitNode pan c b tree x fun s1 bs =>
    match s1.refitPrims pan c (b.elems bs (b.fieldOf 9)) (emptyBox, false) with
    | .stop s2 r => .stop s2 r
    | .ok s2 (box, nan) => match s2.refitLinks pan c b fb ((b.elems bs (b.fieldOf 10)).filter (· < b.ntree)) box with
      | .stop s3 r => .stop s3 r
      | .ok s3 box1 =>
        match s3.refitKids pan c b tree fb fs (x + 1) (b.raw bs fs 0) box1 (b.raw bs fs 0) with
        | .stop s4 r => .stop s4 r
        | .ok s4 box2 => .ok s4 (box2, nan)

/-- The status word written, and RKREF ends (R288). -/
def State.endRefit (s : State) (pan : Nat) (c : RkCmd) (status wrote : Nat) : State :=
  let s1 := s.modCore pan fun p =>
    { p with scratch := mwrite p.scratch (c.base + c.off + 40) (bytesOf (status * 2 ^ 28 + wrote % 2 ^ 28) 4 ++ bytesOf 0 4) }
  (s1.rkPop pan c).rkAnswer pan c c.issue (c.lanes.map fun l => (l, 0))

/-- A refit whose read or write has failed, with the nodes written before it: a translation fault is fatal to the slot, not-present
ones too, and a block fault makes it wait where it stands (R288). -/
def State.refitStop (s : State) (pan : Nat) (c : RkCmd) (r : RkRead) : State :=
  match r with
  | .fault f => (s.endRefit pan c 3 c.wrote).fatal c.part c.asSlot fun st =>
      st.postXfr c.part (rkFaultRecord pan c.part c.asSlot (some c.place) f)
  | .block pa cause va => s.rkBlocked pan c pa cause va
  | .data _ => s.endRefit pan c 5 c.wrote
  | .bytes _ => s

/-- The leaves of the lines that some bytes of a refit's store lie in: address and length of each part, with its leaf. -/
def State.refitLeaves (s : State) (pan : Nat) (c : RkCmd) (va n fuel : Nat) : State × Except XFault (List (Nat × Nat × Nat)) :=
  match fuel with
  | 0 => (s, .ok [])
  | fuel + 1 =>
    if n = 0 then (s, .ok [])
    else
      let len := Nat.min n (128 - va % 128)
      match s.engineTranslate pan c.part c.asSlot va .w with
      | (s1, .error f) => (s1, .error f)
      | (s1, .ok e) => match s1.refitLeaves pan c ((va + len) % 2 ^ 64) (n - len) fuel with
        | (s2, .error f) => (s2, .error f)
        | (s2, .ok r) => (s2, .ok ((va, len, e) :: r))

/-- A node's box stored: one store of 24 bytes, a release at `.dev` for the last node (R288). -/
def State.refitStore (s : State) (pan : Nat) (c : RkCmd) (parts : List (Nat × Nat × Nat)) (bs : List Byte) (last : Bool) : State :=
  match parts with
  | [] => s
  | (va, n, e) :: r =>
    let pa := leafPa e va
    let s1 := s.engineWrite pan c.part pa e 0 (bs.take n)
    let s2 := if last then
        s1.setNote c.part (lineOf pa) (cxOf e) (some { scope := 2, pan := pan, team := 0, slot := 0 }) else s1
    s2.refitStore pan c r (bs.drop n) last

/-- One node refitted, and the command goes on at the node below it, or ends (R288). -/
def State.refitNodeStep (s : State) (pan : Nat) (c : RkCmd) (b : RkBind) (tree first fb fs x : Nat) : State :=
  match s.refitBox pan c b tree fb fs x with
  | .stop s1 e => s1.refitStop pan { c with next := some x } e
  | .ok s1 (box, nan) => match s1.treeField pan b tree 0 8 (some c.place) with
    | (s2, none) => s2
    | (s2, some nodes) => match s2.refitLeaves pan c ((nodes + x * b.nsz + fieldOff (b.field fb)) % 2 ^ 64) 24 3 with
      | (s3, .error f) => s3.refitStop pan { c with next := some x } (.fault f)
      | (s3, .ok parts) =>
        let s4 := s3.refitStore pan c parts (box.flatMap fun w => bytesOf w 4) (x == first)
        let c1 := { c with wrote := c.wrote + 1, nan := c.nan || nan }
        if x = first then s4.endRefit pan c1 (if c1.nan then 8 else 0) c1.wrote
        else s4.rkHead pan { c1 with next := some (x - 1) }

/-- The nodes that a refit visits as children, from `x` to `stop`, have legal skip links: each lies above its node and within the
treelet (R288). -/
def State.skipNodes (s : State) (pan : Nat) (c : RkCmd) (b : RkBind) (tree fs n x stop fuel : Nat) : Refit Bool :=
  match fuel with
  | 0 => .ok s true
  | fuel + 1 =>
    if stop ≤ x then .ok s true
    else s.refitNode pan c b tree x fun s1 bs =>
      let k := b.raw bs fs 0
      if k ≤ x ∨ n < k then .ok s1 false else s1.skipNodes pan c b tree fs n k stop fuel

/-- A node of a refit and the nodes that it visits as its children have legal skip links (R288). -/
def State.skipsOk (s : State) (pan : Nat) (c : RkCmd) (b : RkBind) (tree fs n x : Nat) : Refit Bool :=
  s.refitNode pan c b tree x fun s1 bs =>
    let k := b.raw bs fs 0
    if k ≤ x ∨ n < k then .ok s1 false else s1.skipNodes pan c b tree fs n (x + 1) k k

/-- The refit block's fields are legal in a binding (R288). -/
def refitOk (c : RkCmd) (b : RkBind) (n : Nat) : Bool :=
  let m := bitsOf c.desc 224 32
  decide (bitsOf c.desc 160 32 ≤ bitsOf c.desc 192 32) && decide (bitsOf c.desc 192 32 < n) && rle (.fin false 0 1) (rv m) &&
  !bitOf m 31 && bitsOf c.desc 258 6 == 0 && bitsOf c.desc 264 56 == 0 && (b.fieldOf 6).isSome && (b.fieldOf 8).isSome

/-- RKREF taken, or gone on with: the skip links of FIRST to LAST are checked, a node at a turn, and then the nodes are refitted downwards, a
node at a turn (R288). -/
def State.takeRefit (s : State) (pan : Nat) (c : RkCmd) : State :=
  let tree := bitsOf c.desc 128 32
  let first := bitsOf c.desc 160 32
  let last := bitsOf c.desc 192 32
  if c.wait = 2 then s.endRefit pan c 4 c.wrote
  else match tget (s.pan pan).rake.binds c.bslot with
    | none => s.endRefit pan c 1 0
    | some b =>
      if b.ntree ≤ tree then s.endRefit pan c 1 0
      else match s.treeField pan b tree 8 4 (some c.place) with
        | (s1, none) => s1
        | (s1, some n) => match b.fieldOf 6, b.fieldOf 8 with
          | some fb, some fs =>
            if !refitOk c b n then s1.endRefit pan c 1 0
            else match c.next with
              | some x => s1.refitNodeStep pan c b tree first fb fs x
              | none =>
                let x := first + c.checked
                match s1.skipsOk pan c b tree fs n x with
                | .stop s2 e => s2.refitStop pan c e
                | .ok s2 false => s2.endRefit pan c 1 0
                | .ok s2 true => s2.rkHead pan { c with checked := c.checked + 1, next := if x = last then some last else none }
          | _, _ => s1.endRefit pan c 1 0

/-- A command's charge at the rake (R290): class and units; none where it is free. -/
def RkCmd.price (c : RkCmd) : Option (Nat × Nat) :=
  match c.opc with
  | 0xB0 | 0xB3 | 0xB4 | 0xB7 => some (10, 0)
  | 0xB5 => some (11, bitsOf c.desc 192 32 + 1 - bitsOf c.desc 160 32)
  | _ => none

/-- The command taken, once charged. -/
def State.takeRake (s : State) (pan : Nat) (c : RkCmd) : State :=
  match c.opc with
  | 0xB0 => s.takeBind pan c
  | 0xB1 | 0xB2 => s.takeQueries pan c
  | 0xB3 => s.takeSave pan c
  | 0xB4 => s.takeResume pan c
  | 0xB5 => s.takeRefit pan c
  | 0xB6 => (s.rkPop pan c).rkAnswer pan c c.issue (c.lanes.map fun l => (l, 0))
  | _ => s.takeCancel pan c

/-- The node cache dropped at an RKBIND, RKREF or RKFLSH (R282). -/
def State.flushedFor (s : State) (pan : Nat) (c : RkCmd) : State :=
  if c.opc == 0xB0 || c.opc == 0xB5 || c.opc == 0xB6 then s.dropNodes pan else s

/-- The rake's turn (R283): it takes the oldest command of the pan, in issue order, once its journal record is durable, the
accesses before it have been accepted, and its charge is admitted; or it goes on with it. -/
def State.rakeTurn (s : State) (pan : Nat) : State :=
  match (s.pan pan).core.rqueue with
  | [] => s
  | c :: rest =>
    if !s.engineMayStart pan c.issue c.rc c.gk c.lanes || c.wait == 1 then s
    else
      let go (st : State) (c : RkCmd) : State := s.orWait (((st.flushedFor pan c).takeRake pan c).synced pan)
      if c.charged then go s c
      else match c.price with
        | none => go s c
        | some (ec, units) =>
          let dl := (c :: rest).any fun y => s.holdsChain y.gk
          match s.affords pan c.part dl c.cls ec units with
          | none => s
          | some s1 =>
            let c' := { c with charged := true }
            go (s1.rkHead pan c') c'

end Sys2Proof.Machine
end

