-- ==== Sys2Proof/Machine/Strips.lean ====
section
/-! DEFINITION. Streams, strip chains, the raster units, the harvest ring and the sinks, rows 0xC0 to 0xC7 (R292 to R315). -/

namespace Sys2Proof.Machine

/-! ## A stream's registers and its frame geometry, R292 to R295 -/

def Stream.en (x : Stream) : Bool := x.cfg.getLsbD 63
def Stream.sink (x : Stream) : Nat := bitsOf x.cfg.toNat 58 2
def Stream.scale (x : Stream) : Nat := bitsOf x.cfg.toNat 56 2
def Stream.halo (x : Stream) : Nat := bitsOf x.cfg.toNat 51 5
def Stream.rs (x : Stream) : Nat := bitsOf x.cfg.toNat 48 3
def Stream.os (x : Stream) : Nat := bitsOf x.cfg.toNat 45 3
def Stream.slot (x : Stream) : Nat := bitsOf x.cfg.toNat 40 4
def Stream.sh (x : Stream) : Nat := 16 * bitsOf x.cfg.toNat 32 8
def Stream.h (x : Stream) : Nat := bitsOf x.cfg.toNat 16 16
def Stream.w (x : Stream) : Nat := bitsOf x.cfg.toNat 0 16
def Stream.keyint (x : Stream) : Nat := bitsOf x.fmt.toNat 48 8
def Stream.chroma (x : Stream) : Nat := bitsOf x.fmt.toNat 46 2
def Stream.deep (x : Stream) : Bool := x.fmt.getLsbD 45
def Stream.bincap (x : Stream) : Nat := bitsOf x.lead.toNat 48 16 * 64
def Stream.leadNs (x : Stream) : Nat := bitsOf x.lead.toNat 0 32
def Stream.bin0 (x : Stream) : Nat := bitsOf x.binva.toNat 4 52 * 16
def Stream.ringBase (x : Stream) : Nat := bitsOf x.ring.toNat 0 16
def Stream.ringSize (x : Stream) : Nat := bitsOf x.ring.toNat 32 16

/-- A length in output pixels at render scale: divided by 1, 1.5 or 2 (R294). -/
def Stream.shrink (x : Stream) (n : Nat) : Nat := n * 2 / (x.scale + 2)

def Stream.rw (x : Stream) : Nat := x.shrink x.w
def Stream.rh (x : Stream) : Nat := x.shrink x.sh

/-- Rows of a render frame. -/
def Stream.rows (x : Stream) : Nat := x.shrink x.h

/-- Output strips of a frame (R294). -/
def Stream.n (x : Stream) : Nat := (x.h + x.sh - 1) / x.sh

/-- The strip period in ns (R294). -/
def Stream.ps (x : Stream) : Nat := x.fp.toNat * x.sh / x.h

/-- ORG(f), in ns (R294). -/
def Stream.org (x : Stream) (f : Nat) : Nat := timeNs x.base.toNat + f * x.fp.toNat

/-- S(f, k), in ns (R294). -/
def Stream.scan (x : Stream) (f k : Nat) : Nat := x.org f + k * x.ps

/-- Frame and chain of a global chain number (R294). -/
def Stream.frameOf (x : Stream) (g : Nat) : Nat := g / (x.n + 1)
def Stream.chainIn (x : Stream) (g : Nat) : Nat := g % (x.n + 1)

/-- D of a chain, in ns (R294). -/
def Stream.deadline (x : Stream) (g : Nat) : Int := (x.org (x.frameOf g) : Int) + ((x.chainIn g : Int) - 1) * x.ps

/-- The start time of a chain (R294). -/
def Stream.start (x : Stream) (g : Nat) : Int := x.deadline g - x.leadNs

/-- Rows and columns of a chroma plane are halved so (R295). -/
def Stream.subX (x : Stream) : Nat := if x.chroma = 2 then 1 else 2
def Stream.subY (x : Stream) : Nat := if x.chroma = 0 then 2 else 1

/-- Width, rows per frame and rows per strip of an area: 0 render, 1 Y, 2 Cb, 3 Cr (R295, R311). -/
def Stream.areaDim (x : Stream) (area : Nat) : Nat × Nat × Nat :=
  match area with
  | 0 => (x.rw, x.rows, x.rh)
  | 1 => (x.w, x.h, x.sh)
  | _ => (x.w / x.subX, x.h / x.subY, x.sh / x.subY)

/-- Bytes of a render slot, an output slot and the reference area, and lengths rounded up to ring units (R295). -/
def Stream.renderBytes (x : Stream) : Nat := x.rw * x.rh * 8
def Stream.outputBytes (x : Stream) : Nat := (x.w * x.sh + 2 * (x.w / x.subX * (x.sh / x.subY))) * 2
def Stream.refBytes (x : Stream) : Nat := if x.sink = 1 then (if x.chroma = 2 then x.w * x.h * 6 else x.w * x.h * 3) else 0
def ringUnits (n : Nat) : Nat := (n + 65535) / 65536 * 65536

/-- Where the slot of strip `g` of an area lies in the ring (R295). -/
def Stream.slotAt (x : Stream) (area g : Nat) : Nat :=
  let base := x.ringBase * 65536
  let out := base + ringUnits (x.rs * x.renderBytes) + g % x.os * x.outputBytes
  match area with
  | 0 => base + g % x.rs * x.renderBytes
  | 1 => out
  | 2 => out + x.w * x.sh * 2
  | _ => out + x.w * x.sh * 2 + x.w / x.subX * (x.sh / x.subY) * 2

/-- Every field of the stream's registers lies in its range and keeps the rules of R293, but for the overlap of allocations. -/
def Stream.legal (x : Stream) : Bool :=
  let m := if x.scale = 1 then 48 else 16
  let dims := decide (x.scale < 3) && decide (0 < x.w) && decide (0 < x.h) && x.w % m == 0 && x.h % m == 0 &&
    decide (16 ≤ x.sh) && decide (x.sh ≤ 128) && (x.scale != 1 || x.sh % 48 == 0)
  let fields := decide (x.halo ≤ 16) && decide (x.halo ≤ x.rh) && decide (3 ≤ x.rs) && decide (2 ≤ x.os) && decide (1 ≤ x.keyint) &&
    decide (10 ^ 6 ≤ x.fp.toNat) && decide (x.fp.toNat ≤ 10 ^ 9)
  let sinks := if x.sink = 0 then x.chroma == 1
    else x.sink == 1 && (x.chroma == 0 || x.chroma == 2) && (x.sh == 64 || x.sh == 128) && x.scale != 1
  let room := ringUnits (x.rs * x.renderBytes) + ringUnits (x.os * x.outputBytes) + ringUnits x.refBytes
  dims && fields && sinks && decide (room ≤ x.ringSize * 65536) && decide (x.ringBase + x.ringSize ≤ 1024)

/-- The allocations of two streams overlap (R293). -/
def Stream.overlaps (x y : Stream) : Bool :=
  decide (x.ringBase < y.ringBase + y.ringSize) && decide (y.ringBase < x.ringBase + x.ringSize)

/-- The first frame whose chain 0 starts after a time. -/
def Stream.firstFrame (x : Stream) (now : Nat) : Nat :=
  let lag : Int := (now : Int) + x.ps + x.leadNs - timeNs x.base.toNat
  if lag < 0 then 0 else (lag / x.fp.toNat).toNat + 1

/-- An allocation that a stream may not overlap: an enabled stream's, or one that its sink has still to drain (R293). -/
def State.ringTaken (s : State) (stream : Nat) (x : Stream) : Bool :=
  s.streams.any (fun e => e.1 != stream && (e.2.en || e.2.alloc) && x.overlaps e.2) ||
    s.drains.any fun d => !d.x.outs.isEmpty && x.overlaps d.x

/-- STREAM_ENABLE: EN is written 1 (R293, R294, R300). -/
def execStreamEnable (stream : Nat) (s : State) : Host.Outcome State Fault Refusal :=
  let x := s.stream stream
  if x.en || decide (16 ≤ stream) || !x.legal || s.ringTaken stream x then .next s
  else .next (s.modStream stream fun y =>
    { y with cfg := y.cfg ||| spanMask 64 63 1, sr := 0, frame0 := y.firstFrame s.clock.nowNs, chains := [], outs := [], bins := [],
             alloc := true })

/-! ## How chains end, R301 and R312 -/

/-- A chain has committed or been killed; one of a frame before the stream's first counts so (R296, R311). -/
def Stream.ended (x : Stream) (g : Nat) : Bool :=
  decide (x.frameOf g < x.frame0) || match tget x.chains g with
    | some c => c.st == .ended
    | none => false

/-- The key of no team. -/
def GKey.nobody : GKey := { part := 0, grid := 0, team := 0, num := 0 }

/-- The pan and slot of a resident team, and the slot. -/
def State.teamAt (s : State) (k : GKey) : Option (Nat × Nat) :=
  s.pans.findSome? fun e => (e.2.core.teams.find? fun t => gkeyOf t.2 0 == k.team_).map fun t => (e.1, t.1)

/-- A kill's event record at a team's pan, held where the queue is full; of a sealed team, kept with its receipts (R148, R314, R416;
DEDUCED: log 111). -/
def State.postKill (s : State) (k : GKey) : State :=
  let r (t : Nat) : List Byte := eventRecord 3 6 6 0 t 0 0 0 0 0 0 0
  match s.teamAt k with
  | some (p, t) => s.modCore p fun c => { c with held := c.held ++ [r t] }.postHeld (c.held ++ [r t])
  | none => match s.contexts.find? fun x => gkeyOf x.tm 0 == k.team_ with
    | some x => { s with eventReceipts := s.eventReceipts ++ [(k.team_, r x.team)] }
    | none => s

/-- Chain `g` of a stream is killed (R301): its strip becomes a fill strip, its shadow is dropped, its team is released. One that
has not been considered for admission holds no grant. -/
def State.killChain (s : State) (i g : Nat) : State :=
  let x := s.stream i
  if x.ended g then s
  else
    let c := tgetD x.chains g { st := .refused }
    let k := x.chainIn g
    let held := c.st == .claimed
    let s1 := s.modStream i fun y =>
      ({ y with chains := tput y.chains g { c with st := .ended, quads := none, shadow := [], team := if held then c.team else .nobody,
                                                   killed := some s.nextId },
                outs := if k = 0 then y.outs else y.outs ++ [{ num := x.frameOf g * x.n + k - 1, fill := true }] } : Stream).count 9 1
    let s2 := if c.st = .refused then s1 else s1.endGrant c.pan x.part
    if held then (s2.chainRegs c.team 0 0).postKill c.team else s2

/-- CHAIN_KILL: a chain that has not committed by its deadline (R301). -/
def execChainKill (stream chain : Nat) (s : State) : Host.Outcome State Fault Refusal :=
  let x := s.stream stream
  .next (if x.en && decide (x.frame0 ≤ x.frameOf chain) && decide (x.deadline chain ≤ (s.clock.nowNs : Int)) then
    s.killChain stream chain else s)

/-- A slot whose sink has nothing to drain, and whose killed chains' teams have all been told, is forgotten. -/
def Drain.live (d : Drain) : Bool := !d.x.outs.isEmpty || d.x.chains.any fun c => c.2.team != .nobody

/-- STREAM_DISABLE: EN is written 0 (R293): its unfinished chains are killed, and its allocation is free once the sink has
drained it. -/
def execStreamDisable (stream : Nat) (s : State) : Host.Outcome State Fault Refusal :=
  let x := s.stream stream
  if !x.en then .next s
  else
    let s1 := (x.chains.map (·.1)).foldl (fun (st : State) g => st.killChain stream g) s
    let d : Drain := { stream := stream, x := s1.stream stream }
    .next (({ s1 with drains := s1.drains ++ if d.live then [d] else [] } : State).modStream stream fun y =>
      { y with cfg := y.cfg &&& ~~~ spanMask 64 63 1, chains := [], outs := [], alloc := false })

/-- The chain of a team commits at the present time (R300, R312). -/
def State.commitChain (s : State) (i g : Nat) (c : Chain) : State :=
  let x := s.stream i
  let k := x.chainIn g
  let num := x.frameOf g * x.n + k - 1
  let slack := 4 * (x.deadline g - s.clock.nowNs)
  let sum (y : Stream) : Stream := c.shadow.zipIdx.foldl (fun (z : Stream) e => z.count (3 + e.2) e.1) y
  let s1 := s.modStream i fun y =>
    let y1 := if k = 0 then y else { y with outs := y.outs ++ [{ num := num }], last := num % 2 ^ 32 }
    (sum { y1 with chains := tput y1.chains g { c with st := .ended, quads := none, shadow := [], team := .nobody },
                   sr := if (x.ps : Int) ≤ slack ∧ 0 < c.rung then c.rung - 1 else c.rung }).count 8 1
  (s1.chainRegs c.team 0 0).endGrant c.pan x.part

/-! ## The shading-rate ladder, R299 -/

/-- sx and sy of a rung. -/
def rungX (r : Nat) : Nat := [1, 2, 2, 4, 4].getD r 1
def rungY (r : Nat) : Nat := [1, 1, 2, 2, 4].getD r 1

/-- WT of a rung. -/
def rungWt (r : Nat) : Nat := 16 / 2 ^ r

/-- Tiles of a strip (R298). -/
def Stream.nt (x : Stream) : Nat := (x.rw + 31) / 32

/-- RateStep (R299). -/
def Chain.rateStep (c : Chain) (x : Stream) (g k now : Nat) : Chain :=
  let nt := x.nt
  let dw := c.weight + k * rungWt c.rung
  let done := Nat.min (c.done + k) nt
  let c1 := { c with weight := dw, done := done }
  let check := (List.range 7).any fun j =>
    let m := ((j + 1) * nt + 7) / 8
    decide (c.done < m) && decide (m ≤ done)
  if check && decide (0 < dw) then
    let pred := now + ((nt - done) * rungWt c.rung * (now - c.t0) + dw - 1) / dw
    if x.deadline g - (x.ps / 20 : Nat) < pred ∧ c.steps < 2 ∧ c.rung < 4 then { c1 with rung := c.rung + 1, steps := c.steps + 1 }
    else c1
  else c1

/-! ## Primitives, binning and raster, R297 and R298 -/

/-- A primitive record, its coordinates as exact numbers in units of 2^-149; `bad` where one is NaN or infinite. -/
structure Prim where
  x : List Int
  y : List Int
  z : List Nat
  bad : Bool
  id : Nat
  attr : Nat
  cull : Nat
  clean : Bool

/-- A finite binary32 in units of 2^-149. -/
def fixed (code : Nat) : Int :=
  let e := bitsOf code 23 8
  let m : Nat := if e = 0 then code % 2 ^ 23 else (2 ^ 23 + code % 2 ^ 23) * 2 ^ (e - 1)
  if bitOf code 31 then -(m : Int) else m

/-- A primitive from its 64 bytes (R297). -/
def primOf (bs : List Byte) : Prim :=
  let w (o : Nat) : Nat := ofBytes ((bs.drop o).take 4)
  let vs := [0, 12, 24]
  { x := vs.map fun o => fixed (w o), y := vs.map fun o => fixed (w (o + 4)), z := vs.map fun o => w (o + 8),
    bad := (List.range 9).any fun i => bitsOf (w (4 * i)) 23 8 == 255,
    id := w 36, attr := ofBytes ((bs.drop 44).take 8), cull := (bs.getD 52 0).toNat % 4,
    clean := decide ((bs.getD 52 0).toNat < 4) && ((bs.drop 53).all fun b => b == 0) }

/-- Twice the signed area; positive where the vertices go clockwise as displayed, rows running downwards. -/
def Prim.area (p : Prim) : Int :=
  let x (i : Nat) : Int := p.x.getD i 0
  let y (i : Nat) : Int := p.y.getD i 0
  (x 1 - x 0) * (y 2 - y 0) - (x 2 - x 0) * (y 1 - y 0)

def Prim.lo (c : List Int) : Int := min (c.getD 0 0) (min (c.getD 1 0) (c.getD 2 0))
def Prim.hi (c : List Int) : Int := max (c.getD 0 0) (max (c.getD 1 0) (c.getD 2 0))

/-- The unit of `fixed`: 1.0. -/
def fixedOne : Int := 2 ^ 149

/-- The bounding box meets rows `a` to `b − 1` of a frame `w` columns wide. -/
def Prim.meets (p : Prim) (w a b : Nat) : Bool :=
  decide (0 ≤ Prim.hi p.x) && decide (Prim.lo p.x < w * fixedOne) && decide (a * fixedOne ≤ Prim.hi p.y) &&
  decide (Prim.lo p.y < b * fixedOne)

/-- Early culling (R297). -/
def Prim.culled (p : Prim) (x : Stream) : Bool :=
  p.bad || !p.clean || p.cull == 3 || p.area == 0 || (p.cull == 1 && decide (0 < p.area)) || (p.cull == 2 && decide (p.area < 0)) ||
  !p.meets x.rw 0 x.rows

/-- A primitive with its vertices in clockwise order. -/
def Prim.clockwise (p : Prim) : Prim :=
  let sw {A : Type} (d : A) (l : List A) : List A := [l.getD 0 d, l.getD 2 d, l.getD 1 d]
  if p.area < 0 then { p with x := sw 0 p.x, y := sw 0 p.y, z := sw 0 p.z } else p

/-- The edge function opposite vertex `i`, at a point given in half units. -/
def Prim.edge (p : Prim) (i : Nat) (px py : Int) : Int :=
  let a := (i + 1) % 3
  let b := (i + 2) % 3
  let x (k : Nat) : Int := p.x.getD k 0
  let y (k : Nat) : Int := p.y.getD k 0
  (x b - x a) * (py - 2 * y a) - (y b - y a) * (px - 2 * x a)

/-- An edge is a top or a left one of a clockwise primitive. -/
def Prim.topLeft (p : Prim) (i : Nat) : Bool :=
  let a := (i + 1) % 3
  let b := (i + 2) % 3
  let dx := p.x.getD b 0 - p.x.getD a 0
  let dy := p.y.getD b 0 - p.y.getD a 0
  decide (dy < 0) || (dy == 0 && decide (0 < dx))

/-- A clockwise primitive covers a point, given in half units, by the top-left rule (R298). -/
def Prim.covers (p : Prim) (px py : Int) : Bool :=
  [0, 1, 2].all fun i =>
    let e := p.edge i px py
    decide (0 < e) || (e == 0 && p.topLeft i)

/-- The exact value at a point, in half units, of what the vertices carry (R298, R309). -/
def Prim.blend (p : Prim) (px py : Int) (vs : List FVal) : FVal :=
  let a := 2 * p.area
  let term (i : Nat) : FVal :=
    let e := p.edge i px py
    if a = 0 then .nan false
    else rmul (.fin (decide (e < 0) != decide (a < 0)) e.natAbs a.natAbs) (vs.getD i (.nan false))
  radd (radd (term 0) (term 1)) (term 2)

/-- The depth of a primitive at a pixel centre, rounded to binary32 (R298). -/
def Prim.depth (p : Prim) (px py : Int) : Nat := (roundF f32 (p.blend px py (p.z.map rv)) 0).code

/-- A pixel centre in half units: column `i`, row `j` of the frame. -/
def centre (k : Nat) : Int := (2 * k + 1) * fixedOne

/-- The owner of a pixel among the entries of a bin list: the first of the least rounded depth (R298). -/
def pixelOwner (ps : List (Nat × Prim)) (i j : Nat) : Option (Nat × Prim) :=
  let hit := (ps.filter fun e => e.2.covers (centre i) (centre j)).map fun e => (e.2.depth (centre i) (centre j), e)
  (hit.foldl (fun (b : Option (Nat × Nat × Prim)) e => match b with
    | none => some e
    | some m => if (rv e.1).lt (rv m.1) then some e else some m) none).map (·.2)

/-- The quads of one 2 × 2 place, one for each owner, owners in the order of their first pixel (R298). -/
def quadsAt (own : Nat → Nat → Option (Nat × Prim)) (tile qx qy : Nat) : List Quad :=
  let os := (List.range 4).map fun b => own (qx + b % 2) (qy + b / 2)
  let names := (os.filterMap fun o => o.map (·.1)).dedup
  names.map fun k =>
    { tile := tile, qx := qx, qy := qy, bidx := k,
      cov := ((List.range 4).filter fun b => (os.getD b none).any fun o => o.1 == k).foldl (fun a b => a + 2 ^ b) 0,
      primid := ((os.findSome? fun o => o.bind fun e => if e.1 = k then some e.2.id else none)).getD 0 }

/-- The quads of render strip `c`, whose bin list holds these primitives, in the order of R298. -/
def Stream.rasterStrip (x : Stream) (c : Nat) (ps : List (Nat × Prim)) : List Quad :=
  let rows := Nat.min x.rh (x.rows - c * x.rh)
  let cw := ps.map fun e => (e.1, e.2.clockwise)
  let own (i j : Nat) : Option (Nat × Prim) := if x.rw ≤ i ∨ rows ≤ j then none else pixelOwner cw i (c * x.rh + j)
  (List.range x.nt).flatMap fun t => (List.range ((rows + 1) / 2)).flatMap fun r => (List.range 16).flatMap fun q =>
    quadsAt own t (32 * t + 2 * q) (2 * r)

/-- Pixels that a coverage mask names. -/
def covCount (c : Nat) : Nat := ((List.range 4).filter fun b => bitOf c b).length

/-! ## What a graphics command comes to, R305 and R314 -/

/-- What an attempt at a graphics command comes to. -/
inductive GfxOut where
  | wait (s : State)
  | done (s : State) (e : GfxEnd)

/-- A translation fault of a graphics command: fatal to the slot, with ACC 1 or 2 (R314). -/
def State.gfxFatal (s : State) (pan : Nat) (c : GfxCmd) (part slot acc : Nat) (f : XFault) : State :=
  let q := quarterOf c.slot
  s.fatal part slot fun st => st.postXfr part
    (xfRecord { f with lane := c.lanes.headD 0 } acc (asid part slot) pan (if q = 4 then 0 else q)
      (Config.groupId c.gk.team c.gk.num).toNat c.addr c.pos false)

/-- What a read that failed makes of its command. `bad` is D's value where the command reports the status in it. -/
def State.gfxStop (s : State) (pan idx : Nat) (c : GfxCmd) (part slot : Nat) (d : Nat → Option Nat) (r : RkRead) : GfxOut :=
  match r with
  | .fault f => .done (s.gfxFatal pan c part slot 1 f) { d := d 3, status := 3, errva := f.va, fatal := true }
  | .data va => .done s { d := d 5, status := 5, errva := va }
  | .block pa cause va =>
    let (kind, port) := portOf pa
    let s1 := s.postXpr part (portRecord 1 cause kind port (asid part slot) 0 0 pa va c.addr c.pos)
    .wait (s1.modCore pan fun p => { p with gfx := listMod p.gfx idx fun y => { y with wait := 1 } })
  | .bytes _ => .wait s

/-- A command's end (R34, R305, R314): it leaves, GR falls, D is written, and a status other than OK is recorded. While the event
queue is full an end that needs a record is held, that of a fatal fault with the teardown done (R148). -/
def State.endGfx (s0 s : State) (pan idx : Nat) (c : GfxCmd) (e : GfxEnd) : State :=
  if e.status ≠ 0 ∧ (s0.pan pan).core.evqFull then
    if e.fatal then (s.modCore pan fun p => { p with gfx := listMod p.gfx idx fun y => { y with fin := some e } }).synced pan else s0
  else
    let s1 := s.modCore pan fun p => { p with gfx := listDrop p.gfx idx }
    let s2 := s1.deliver { gk := c.gk, pan := pan, issue := c.issue, load := false, keep := e.d.isNone, rc := c.rc,
                           vals := c.lanes.map fun l => { lane := l, val := e.d.getD 0 } }
    let s3 := if e.status = 0 then s2
      else s2.modCore pan fun p =>
        p.postEvent (eventRecord 3 e.status (c.opc - 0xC0) 0 c.team c.slot 0 e.bytes 0 e.errva c.addr c.pos)
    s3.synced pan

/-- The 32 bytes of a command's block, as it reads now. -/
def State.gfxBlock (s : State) (pan : Nat) (c : GfxCmd) : Nat := mnat (s.pan pan).core.scratch (c.base + c.a) 32

/-- Bytes of a team's scratchpad. -/
def State.gfxScratch (s : State) (pan : Nat) (c : GfxCmd) (off n : Nat) : Nat := mnat (s.pan pan).core.scratch (c.base + off) n

/-- Bytes written to a team's scratchpad. -/
def State.gfxPut (s : State) (pan : Nat) (c : GfxCmd) (off : Nat) (bs : List Byte) : State :=
  s.modCore pan fun p => { p with scratch := mwrite p.scratch (c.base + off) bs }

/-! ## BINPOP, R307 -/

/-- The first raster unit that no claimed chain holds. -/
def State.freeUnit (s : State) : Option Nat :=
  (List.range 8).find? fun u => !(s.streams.any fun e => e.2.chains.any fun c => c.2.st == .claimed && c.2.unit == u)

/-- BINPOP completes with a status, or claims the lowest claimable chain of its stream, or waits (R300, R307). A replayed chain
begins again at the rung it started at (R301). In a torn slot the wait ends with no chain claimed (R375). -/
def State.runBinpop (s : State) (c : GfxCmd) : GfxOut :=
  let x := s.stream c.a
  let no (st : Nat) : GfxOut := .done s { d := some (st * 2 ^ 28), status := st }
  if (s.asSlot c.part c.asSlot).torn then .done s {}
  else if 16 ≤ c.a ∨ !x.en ∨ x.part ≠ c.part then no 1
  else if s.holdsChain c.gk then no 2
  else if c.cls ≠ 3 then no 3
  else match x.chains.find? (fun e => e.2.st == .claimable), s.freeUnit with
    | some (g, ch), some u =>
      let rung := if ch.again then ch.start else x.sr
      let s1 := s.modStream c.a fun y =>
        { y with chains := tput y.chains g { ch with st := .claimed, team := c.gk.team_, rung := rung, start := rung, steps := 0, done := 0,
                                                     weight := 0, t0 := s.clock.nowNs, unit := u, quads := none,
                                                     shadow := [0, 0, 0, 0, 0] } }
      .done (s1.chainRegs c.gk.team_ (timeCode (x.deadline g)) rung)
        { d := some (x.chainIn g % 2 ^ 12 * 2 ^ 16 + x.frameOf g % 2 ^ 16) }
    | _, _ => .wait s

/-! ## RSTQ, R308 -/

/-- A primitive of a buffer. -/
def State.readPrim (s : State) (pan : Nat) (x : Stream) (primva idx : Nat) : State × Except RkRead Prim :=
  match s.rkRead pan x.part x.slot ((primva + 64 * idx) % 2 ^ 64) 64 2 with
  | (s1, .bytes bs) => (s1, .ok (primOf bs))
  | (s1, r) => (s1, .error r)

/-- Where an entry of strip `j`'s list of a frame lies in the bin area (log 32). -/
def Stream.binAt (x : Stream) (f j e : Nat) : Nat := (x.bin0 + ((f % 2 * x.n + j) * x.bincap + e) * 4) % 2 ^ 64

/-- A store of the binner, or of a raster unit; none where its translation faults. -/
def State.binStore (s : State) (pan : Nat) (x : Stream) (va : Nat) (bs : List Byte) : State × Option XFault :=
  match s.engineTranslate pan x.part x.slot va .w with
  | (s1, .error f) => (s1, some f)
  | (s1, .ok e) => (s1.engineWrite pan x.part (leafPa e va) e 0 bs, none)

/-- A primitive appended to the lists of the strips it overlaps: counts, and dropped appends (R297). -/
def State.binPrim (s : State) (pan : Nat) (x : Stream) (f idx : Nat) (p : Prim) (js counts : List Nat) (drops : Nat) :
    State × List Nat × Nat × Option XFault :=
  match js with
  | [] => (s, counts, drops, none)
  | j :: r =>
    if !p.meets x.rw (j * x.rh) (Nat.min ((j + 1) * x.rh) x.rows) then s.binPrim pan x f idx p r counts drops
    else
      let n := counts.getD j 0
      if x.bincap ≤ n then s.binPrim pan x f idx p r counts (drops + 1)
      else match s.binStore pan x (x.binAt f j n) (bytesOf idx 4) with
        | (s1, some e) => (s1, counts, drops, some e)
        | (s1, none) => s1.binPrim pan x f idx p r (listSet counts j (n + 1)) drops

/-- The frame's geometry binned: what the counters 0 to 2 gain, and the lists' lengths (R297, R304). -/
structure BinSum where
  prims : Nat := 0
  culled : Nat := 0
  drops : Nat := 0
  counts : List Nat

/-- The primitives that were binned: those not culled early (R297, R308). -/
def BinSum.binned (b : BinSum) : Nat := b.prims - b.culled

/-- The primitives of a buffer binned in order; a read or a store that fails ends it. -/
def State.binAll (s : State) (pan : Nat) (x : Stream) (f primva : Nat) (is : List Nat) (b : BinSum) :
    State × BinSum × Option (RkRead × Bool) :=
  match is with
  | [] => (s, b, none)
  | i :: r => match s.readPrim pan x primva i with
    | (s1, .error e) => (s1, b, some (e, false))
    | (s1, .ok p) =>
      if p.culled x then s1.binAll pan x f primva r { b with prims := b.prims + 1, culled := b.culled + 1 }
      else match s1.binPrim pan x f i p (List.range x.n) b.counts 0 with
        | (s2, counts, drops, none) =>
          s2.binAll pan x f primva r { b with prims := b.prims + 1, drops := b.drops + drops, counts := counts }
        | (s2, _, _, some e) => (s2, b, some (.fault e, true))

/-- rstq.bin (R297, R308). -/
def State.runBin (s : State) (pan idx : Nat) (c : GfxCmd) : GfxOut :=
  let b := s.gfxBlock pan c
  let f := bitsOf b 0 32
  let i := bitsOf b 32 8
  let x := s.stream i
  let primva := bitsOf b 64 64
  let np := bitsOf b 128 32
  let d (st n : Nat) : Option Nat := some (st * 2 ^ 28 + Nat.min n (2 ^ 28 - 1))
  if bitsOf b 40 24 ≠ 0 ∨ bitsOf b 160 96 ≠ 0 ∨ primva % 8 ≠ 0 ∨ 16 ≤ i ∨ !x.en ∨ x.part ≠ c.part then
    .done s { d := d 1 0, status := 1 }
  else if 2 ≤ f ∧ !((List.range (x.n + 1)).all fun k => x.ended ((f - 2) * (x.n + 1) + k)) then .wait s
  else if c.wait = 2 then .done s { d := d 5 0, status := 5 }
  else match s.binAll pan x f primva (List.range np) { counts := List.replicate x.n 0 } with
    | (s1, b, none) =>
      .done (s1.modStream i fun y =>
        ((({ y with bins := tput y.bins (f % 2) { frame := f, primva := primva, counts := b.counts } } : Stream).count 0 b.prims).count 1
          b.culled).count 2 b.drops) { d := d 0 b.binned }
    | (s1, b, some (.fault e, true)) => .done (s1.gfxFatal pan c x.part x.slot 2 e) { d := d 3 b.binned, status := 3, errva := e.va, fatal := true }
    | (s1, b, some (r, _)) => s1.gfxStop pan idx c x.part x.slot (fun st => d st b.binned) r

/-- The primitives that strip `j`'s list of a frame names. -/
def State.binList (s : State) (pan : Nat) (x : Stream) (f j primva : Nat) (es : List Nat) : State × Except RkRead (List (Nat × Prim)) :=
  match es with
  | [] => (s, .ok [])
  | e :: r => match s.rkRead pan x.part x.slot (x.binAt f j e) 4 2 with
    | (s1, .bytes bs) => match s1.readPrim pan x primva (ofBytes bs) with
      | (s2, .ok p) => match s2.binList pan x f j primva r with
        | (s3, .ok ps) => (s3, .ok ((ofBytes bs, p) :: ps))
        | (s3, .error q) => (s3, .error q)
      | (s2, .error q) => (s2, .error q)
    | (s1, q) => (s1, .error q)

/-- The quads of a team's chain, rastered when they are first asked for, with the chain they leave (R298, R304). A frame that
has not been binned has empty lists. -/
def State.rasterChain (s : State) (pan i g : Nat) (c : Chain) : State × Except RkRead Chain :=
  let x := s.stream i
  let f := x.frameOf g
  let j := x.chainIn g
  let bin := (tget x.bins (f % 2)).bind fun b => if b.frame = f % 2 ^ 32 then some b else none
  match c.quads, bin with
  | some _, _ => (s, .ok c)
  | none, none => (s, .ok { c with quads := some [] })
  | none, some b =>
    let n := b.counts.getD j 0
    match s.binList pan x f j b.primva (List.range n) with
    | (s1, .error r) => (s1, .error r)
    | (s1, .ok ps) =>
      let qs := x.rasterStrip j ps
      let pix := (qs.map fun q => covCount q.cov).sum
      let sh := [c.shadow.getD 0 0 + n, c.shadow.getD 1 0 + n, c.shadow.getD 2 0 + pix, c.shadow.getD 3 0 + qs.length, c.shadow.getD 4 0]
      (s1, .ok { c with quads := some qs, shadow := sh })

/-- How many of the quads the next batch takes: of one tile, at most `b`, ending with its tile or with a band of four rows where a
whole band fits (R308). -/
def batchLength (qs : List Quad) (b : Nat) : Nat :=
  match qs with
  | [] => 0
  | q :: _ =>
    let tile := qs.takeWhile fun x => x.tile == q.tile
    if tile.length ≤ b then tile.length
    else
      let fit := tile.take b
      let next := (tile.getD b q).qy / 4
      let whole := fit.filter fun x => x.qy / 4 != next
      if whole.isEmpty then b else whole.length

/-- A quad record (R298). -/
def Quad.bytes (q : Quad) : List Byte :=
  bytesOf q.qx 2 ++ bytesOf q.qy 2 ++ bytesOf q.cov 1 ++ bytesOf 0 3 ++ bytesOf q.primid 4 ++ bytesOf q.bidx 4

/-- RSTQ FN 0 (R308). -/
def State.runQuads (s : State) (pan idx : Nat) (c : GfxCmd) : GfxOut :=
  let no (st : Nat) : GfxOut := .done s { d := some (st * 2 ^ 30), status := st }
  if c.b < 32 ∨ 256 < c.b then no 3
  else match s.chainOf c.gk with
    | none => no 2
    | some (i, g, ch) =>
      let x := s.stream i
      if x.chainIn g = x.n then no 1
      else if c.wait = 2 then .done s { status := 5 }
      else match s.rasterChain pan i g ch with
        | (s1, .error r) => s1.gfxStop pan idx c x.part x.slot (fun _ => none) r
        | (s1, .ok ch1) =>
          let qs := ch1.quads.getD []
          let put (st : State) (l : List Quad) : State :=
            st.modStream i fun y => { y with chains := tput y.chains g { ch1 with quads := some l } }
          if qs.isEmpty then .done (put s1 []) { d := some (2 ^ 30), status := 1 }
          else
            let n := batchLength qs c.b
            let out := (qs.take n).flatMap Quad.bytes
            .done (put (s1.gfxPut pan c c.a out) (qs.drop n))
              { d := some ((qs.headD { tile := 0, qx := 0, qy := 0, cov := 0, primid := 0, bidx := 0 }).tile % 2 ^ 14 * 2 ^ 16 + n),
                bytes := out.length }

/-! ## FRGLD, R309 -/

/-- An FRGLD block's fields. -/
structure Frg where
  qoff : Nat
  nq : Nat
  nattr : Nat
  fmt : Nat
  toff : Nat
  pitch : Nat
  moff : Nat
  clean : Bool

def frgOf (b : Nat) : Frg :=
  { qoff := bitsOf b 0 32, nq := bitsOf b 32 16, nattr := bitsOf b 48 8, fmt := bitsOf b 56 8, toff := bitsOf b 64 32,
    pitch := bitsOf b 96 16, moff := bitsOf b 128 32, clean := bitsOf b 112 16 == 0 && bitsOf b 160 96 == 0 }

/-- The quads of a batch as they stand in scratchpad. -/
def State.readQuads (s : State) (pan : Nat) (c : GfxCmd) (f : Frg) : List Quad :=
  (List.range f.nq).map fun k =>
    let q := s.gfxScratch pan c (f.qoff + 16 * k) 16
    { tile := 0, qx := bitsOf q 0 16, qy := bitsOf q 16 16, cov := bitsOf q 32 4, primid := bitsOf q 64 32, bidx := bitsOf q 96 32 }

/-- A cell of a batch: row, column, owned mask, and the owner of its first owned pixel (R309). -/
structure Cell where
  row : Nat
  col : Nat
  mask : Nat
  bidx : Nat
  deriving DecidableEq, Repr

/-- The owned pixels of quads: row, column, owner. -/
def quadPixels (qs : List Quad) : List (Nat × Nat × Nat) :=
  qs.flatMap fun q => ((List.range 4).filter fun b => bitOf q.cov b).map fun b => (q.qy + b / 2, q.qx + b % 2, q.bidx)

/-- Cells in ascending row and then column. -/
def insertCell (l : List Cell) (x : Cell) : List Cell :=
  match l with
  | [] => [x]
  | h :: r => if x.row < h.row ∨ (x.row = h.row ∧ x.col < h.col) then x :: h :: r else h :: insertCell r x

/-- The cells of a batch at a rung (R309). -/
def cellsOf (rung : Nat) (ps : List (Nat × Nat × Nat)) : List Cell :=
  let sx := rungX rung
  let sy := rungY rung
  let keys := (ps.map fun p => (p.1 / sy, p.2.1 / sx)).dedup
  (keys.map fun k =>
    let bits := (List.range (sx * sy)).filter fun b => ps.any fun p => p.1 == k.1 * sy + b / sx && p.2.1 == k.2 * sx + b % sx
    let first := bits.headD 0
    ({ row := k.1, col := k.2, mask := bits.foldl (fun a b => a + 2 ^ b) 0,
       bidx := ((ps.find? fun p => p.1 == k.1 * sy + first / sx && p.2.1 == k.2 * sx + first % sx).map (·.2.2)).getD 0 } : Cell)).foldl
    insertCell []

/-- The rules of an FRGLD block for a batch of `rows` samples (R309). -/
def Frg.ok (f : Frg) (size rows : Nat) : Bool :=
  let sz := if f.fmt = 0 then 4 else 2
  f.clean && decide (1 ≤ f.nq) && decide (f.nq ≤ 256) && decide (1 ≤ f.nattr) && decide (f.nattr ≤ 16) && decide (f.fmt < 2) &&
  f.pitch % 16 == 0 && decide (f.qoff + 16 * f.nq ≤ size) && decide (f.moff + 8 * rows ≤ size) &&
  (rows == 0 || decide (f.toff + (rows - 1) * f.pitch + f.nattr * sz ≤ size))

/-- The attributes of one row: each one's bytes. -/
def State.cellRow (s : State) (pan : Nat) (x : Stream) (primva strip rung : Nat) (f : Frg) (k : Cell) : State × Except RkRead (List Byte) :=
  match s.readPrim pan x primva k.bidx with
  | (s1, .error r) => (s1, .error r)
  | (s1, .ok p) => match s1.rkRead pan x.part x.slot p.attr (12 * f.nattr) 4 with
    | (s2, .bytes bs) =>
      let at_ (v a : Nat) : FVal := rv (ofBytes ((bs.drop (4 * (v * f.nattr + a))).take 4))
      let px : Int := (2 * k.col + 1) * rungX rung * fixedOne
      let py : Int := ((2 * k.row + 1) * rungY rung + 2 * strip * x.rh) * fixedOne
      let m := if f.fmt = 0 then f32 else bf16
      (s2, .ok ((List.range f.nattr).flatMap fun a =>
        bytesOf (roundF m (p.blend px py [at_ 0 a, at_ 1 a, at_ 2 a]) 0).code (if f.fmt = 0 then 4 else 2)))
    | (s2, r) => (s2, .error r)

/-- The rows of a batch, in order. -/
def State.cellRows (s : State) (pan : Nat) (x : Stream) (primva strip rung : Nat) (f : Frg) (ks : List Cell) :
    State × Except RkRead (List (List Byte)) :=
  match ks with
  | [] => (s, .ok [])
  | k :: r => match s.cellRow pan x primva strip rung f k with
    | (s1, .error e) => (s1, .error e)
    | (s1, .ok b) => match s1.cellRows pan x primva strip rung f r with
      | (s2, .ok bs) => (s2, .ok (b :: bs))
      | (s2, .error e) => (s2, .error e)

/-- The cell word of a sample (R309). -/
def Cell.word (k : Cell) (rung : Nat) : Nat := k.col % 2 ^ 16 * 2 ^ 48 + k.row % 2 ^ 16 * 2 ^ 32 + k.mask * 2 ^ 16 + rung * 2 ^ 8

/-- The rows and cell words of a batch written. -/
def State.putCells (s : State) (pan : Nat) (c : GfxCmd) (f : Frg) (rung : Nat) (rows : List (List Byte × Cell)) : State :=
  rows.zipIdx.foldl (fun (st : State) e =>
    (st.gfxPut pan c (f.toff + e.2 * f.pitch) e.1.1).gfxPut pan c (f.moff + 8 * e.2) (bytesOf (e.1.2.word rung) 8)) s

/-- FRGLD (R309). -/
def State.runFragments (s : State) (pan idx : Nat) (c : GfxCmd) : GfxOut :=
  let f := frgOf (s.gfxBlock pan c)
  let no : GfxOut := .done s { d := some 0xFFFFFFFF, status := 1 }
  match s.chainOf c.gk with
  | none => no
  | some (i, g, ch) =>
    let x := s.stream i
    if 256 < f.nq then no
    else
      let ks := cellsOf ch.rung (quadPixels (s.readQuads pan c f))
      match (tget x.bins (x.frameOf g % 2)).bind fun b => if b.frame = x.frameOf g % 2 ^ 32 then some b else none with
      | none => no
      | some b =>
        if !f.ok c.size ks.length then no
        else if c.wait = 2 then .done s { status := 5 }
        else match s.cellRows pan x b.primva (x.chainIn g) ch.rung f ks with
          | (s1, .error r) => s1.gfxStop pan idx c x.part x.slot (fun _ => none) r
          | (s1, .ok rows) =>
            let s2 := s1.putCells pan c f ch.rung (rows.zip ks)
            .done (s2.modStream i fun y => { y with chains := tmod y.chains g fun z =>
                { z with shadow := listMod z.shadow 4 (· + ks.length) } }) { d := some ks.length }

/-! ## RATE, RGST, RGLD, RGDONE, PSTAT, R310 to R313 -/

/-- RATE (R310). -/
def State.runRate (s : State) (c : GfxCmd) : GfxOut :=
  match s.chainOf c.gk with
  | none => .done s { d := some (2 ^ 31) }
  | some (i, g, ch) =>
    let x := s.stream i
    let ch1 := ch.rateStep x g c.a s.clock.nowNs
    let s1 := s.modStream i fun y => { y with chains := tput y.chains g ch1 }
    .done (if ch1.rung = ch.rung then s1 else s1.chainRegs c.gk.team_ (timeCode (x.deadline g)) ch1.rung) { d := some ch1.rung }

/-- A transfer block's fields (R311). -/
structure Xfer where
  soff : Nat
  pitch : Nat
  area : Nat
  mode : Nat
  row0 : Int
  col0 : Nat
  nrows : Nat
  ncols : Nat
  moff : Nat
  ncell : Nat
  stream : Nat
  clean : Bool

def xferOf (b : Nat) : Xfer :=
  { soff := bitsOf b 0 32, pitch := bitsOf b 32 16, area := bitsOf b 48 8, mode := bitsOf b 56 8, row0 := sval (bitsOf b 64 32) 32,
    col0 := bitsOf b 96 32, nrows := bitsOf b 128 16, ncols := bitsOf b 144 16, moff := bitsOf b 160 32, ncell := bitsOf b 192 32,
    stream := bitsOf b 224 8, clean := bitsOf b 232 24 == 0 }

/-- Bytes of a pixel or sample of an area. -/
def areaPixel (area : Nat) : Nat := if area = 0 then 8 else 2

/-- NROWS and NCOLS of a block lie in their ranges (R311). -/
def Xfer.sizesOk (x : Xfer) : Bool :=
  decide (1 ≤ x.nrows) && decide (x.nrows ≤ 256) && decide (1 ≤ x.ncols) && decide (x.ncols ≤ 8192)

/-- The rules of a block of rows (R311). -/
def Xfer.rowsOk (x : Xfer) (size : Nat) : Bool :=
  x.sizesOk &&
  decide (x.soff + (x.nrows - 1) * x.pitch + x.ncols * areaPixel x.area ≤ size)

/-- The strip that an RGST of a chain may write in an area, and its first row and the row after its last. -/
def Stream.target (y : Stream) (g area : Nat) : Option (Nat × Nat × Nat) :=
  let c := y.chainIn g
  let (_, rows, per) := y.areaDim area
  let j := if area = 0 then c else c - 1
  if (area = 0 ∧ c = y.n) ∨ (area ≠ 0 ∧ c = 0) then none else some (j, j * per, Nat.min ((j + 1) * per) rows)

/-- The slot that strip `j` of a frame takes is free (R296). -/
def Stream.slotFree (y : Stream) (f j area : Nat) : Bool :=
  let g := f * y.n + j
  let per := if area = 0 then y.rs else y.os
  if g < per then true
  else
    let old := g - per
    let f' := old / y.n
    if f' < y.frame0 then true
    else if area = 0 then y.ended (f' * (y.n + 1) + Nat.min (old % y.n + 2) y.n)
    else y.ended (f' * (y.n + 1) + old % y.n + 1) && !(y.outs.any fun o => o.num == old)

/-- The pixels that an RGST writes: for each its place in the area, and where its bytes stand in scratchpad (R311). -/
def State.xferPixels (s : State) (pan : Nat) (c : GfxCmd) (y : Stream) (g : Nat) (x : Xfer) : Option (List (Nat × Nat × Nat)) :=
  let (w, _, _) := y.areaDim x.area
  let px := areaPixel x.area
  match y.target g x.area with
  | none => none
  | some (_, lo, hi) =>
    if x.mode = 0 then
      if x.rowsOk c.size && decide (lo ≤ x.row0) && decide (x.row0 + x.nrows ≤ hi) && decide (x.col0 + x.ncols ≤ w) then
        some ((List.range x.nrows).flatMap fun i => (List.range x.ncols).map fun j =>
          (x.row0.toNat + i - lo, x.col0 + j, x.soff + i * x.pitch + j * px))
      else none
    else if x.mode = 1 ∧ x.area = 0 then
      if x.moff + 8 * x.ncell ≤ c.size ∧ (x.ncell = 0 ∨ x.soff + (x.ncell - 1) * x.pitch + 8 ≤ c.size) then
        let ps := (List.range x.ncell).flatMap fun i =>
          let k := s.gfxScratch pan c (x.moff + 8 * i) 8
          let r := bitsOf k 8 8
          let sx := rungX r
          ((List.range 16).filter fun b => bitOf k (16 + b)).map fun b =>
            if r ≤ 4 ∧ b < sx * rungY r then
              some (bitsOf k 32 16 * rungY r + b / sx, bitsOf k 48 16 * sx + b % sx, x.soff + i * x.pitch)
            else none
        if ps.all fun p => p.any fun q => decide (q.1 < hi - lo) && decide (q.2.1 < w) then some (ps.filterMap id) else none
      else none
    else none

/-- The chain that a command of a team was issued under and that has been killed since: the stream's slot and the chain's number
(R301). -/
def State.killedUnder (s : State) (c : GfxCmd) : Option (Nat × Nat) :=
  s.streams.findSome? fun e => (e.2.chains.find? fun k => k.2.st == .ended && k.2.team == c.gk.team_ && match k.2.killed with
    | some n => decide (c.issue < n)
    | none => false).map fun k => (e.1, k.1)

/-- The bytes of an RGST written to the slot of a strip, each at its place (R295, R311). -/
def State.storePixels (s : State) (pan : Nat) (c : GfxCmd) (y : Stream) (g j area : Nat) (ps : List (Nat × Nat × Nat)) : State :=
  let at_ := y.slotAt area (y.frameOf g * y.n + j)
  let w := (y.areaDim area).1
  let n := areaPixel area
  { s with harvest := ps.foldl (fun (m : Memory) p =>
      mwrite m (at_ + (p.1 * w + p.2.1) * n) (bytesOf (s.gfxScratch pan c p.2.2 n) n)) s.harvest }

/-- RGST (R296, R311). One whose chain has been killed since its issue still writes the render area, and nothing else (R301). An
uncorrectable datum of scratchpad ends it with DATA (R314, R389). -/
def State.runStore (s : State) (pan : Nat) (c : GfxCmd) : GfxOut :=
  let x := xferOf (s.gfxBlock pan c)
  let no (st : Nat) : GfxOut := .done s { d := some st, status := st }
  let own := (s.chainOf c.gk).map fun e => (e.1, e.2.1)
  match own.orElse fun _ => if x.area = 0 then s.killedUnder c else none with
  | none => no 2
  | some (i, g) =>
    let y := s.stream i
    if !x.clean ∨ !x.sizesOk ∨ 3 < x.area ∨ x.pitch % 16 ≠ 0 ∨ x.stream ≠ i then no 1
    else match y.target g x.area, s.xferPixels pan c y g x with
      | some (j, _, _), some ps =>
        if !y.slotFree (y.frameOf g) j x.area then .wait s
        else match ps.findSome? fun p => (s.pan pan).spoiltIn (c.base + p.2.2) (areaPixel x.area) with
          | some a => .done s { status := 5, errva := a - c.base }
          | none => .done (s.storePixels pan c y g j x.area ps) { d := some 0 }
      | _, _ => no 1

/-- A coordinate brought to the nearest in range. -/
def nearest (x : Int) (n : Nat) : Nat := (max 0 (min x ((n : Int) - 1))).toNat

/-- RGLD (R311). -/
def State.runLoad (s : State) (pan : Nat) (c : GfxCmd) : GfxOut :=
  let x := xferOf (s.gfxBlock pan c)
  let no (st : Nat) : GfxOut := .done s { d := some st, status := st }
  match s.chainOf c.gk with
  | none => no 2
  | some (i, g, _) =>
    let y := s.stream i
    let k := y.chainIn g
    let f := y.frameOf g
    let rows := (List.range x.nrows).map fun (r : Nat) => nearest (x.row0 + r) y.rows
    if !x.clean ∨ x.area ≠ 0 ∨ x.mode ≠ 0 ∨ x.pitch % 16 ≠ 0 ∨ x.stream ≠ i ∨ !x.rowsOk c.size then no 1
    else if rows.any fun r => decide (k < r / y.rh) || decide (r / y.rh + 2 < k) then no 1
    else if rows.any fun r => decide (r / y.rh < k) && !y.ended (f * (y.n + 1) + r / y.rh) then .wait s
    else
      let line (r : Nat) : List Byte := (List.range x.ncols).flatMap fun (q : Nat) =>
        mread s.harvest (y.slotAt 0 (f * y.n + r / y.rh) + (r % y.rh * y.rw + nearest ((x.col0 : Int) + q) y.rw) * 8) 8
      .done (rows.zipIdx.foldl (fun (st : State) e => st.gfxPut pan c (x.soff + e.2 * x.pitch) (line e.1)) s) { d := some 0 }

/-- RGDONE (R312): it waits for the earlier graphics commands of the team. A chain past its deadline has been killed. -/
def State.runDone (s : State) (pan : Nat) (c : GfxCmd) : GfxOut :=
  if (s.pan pan).core.gfx.any fun y => y.gk.team_ == c.gk.team_ && decide (y.issue < c.issue) then .wait s
  else
    let mine (k : Nat × Chain) : Bool := k.2.st == .ended && k.2.team == c.gk.team_
    let late : Option (Nat × Nat) := s.streams.findSome? fun e => (e.2.chains.find? mine).map fun k => (e.1, k.1)
    let tell (y : Stream) : Stream := { y with chains := tmap y.chains fun _ z => if z.st = .ended ∧ z.team = c.gk.team_ then { z with team := .nobody } else z }
    let told (st : State) (i : Nat) : GfxOut := .done (st.modStream i tell) { d := some 1, status := 1 }
    match s.chainOf c.gk with
    | some (i, g, ch) =>
      if ((s.clock.nowNs : Int) ≤ (s.stream i).deadline g) then .done (s.commitChain i g ch) { d := some 0 }
      else told (s.killChain i g) i
    | none => match late with
      | some (i, _) => told s i
      | none =>
        if s.drains.any fun d => d.x.chains.any mine then
          .done { s with drains := (s.drains.map fun d => { d with x := tell d.x }).filter Drain.live } { d := some 1, status := 1 }
        else .done s { d := some 2, status := 2 }

/-- PSTAT (R304, R313). -/
def State.runStat (s : State) (c : GfxCmd) : GfxOut :=
  let x := s.stream c.a
  if 16 ≤ c.a ∨ x.part ≠ c.part ∨ 12 ≤ c.b then .done s { d := some 0 }
  else
    let s1 := if c.fn = 1 then s.modStream c.a fun y => { y with ctrs := tdel y.ctrs c.b } else s
    .done s1 { d := some (tgetD x.ctrs c.b 0) }

/-- The ranges of its team's scratchpad that a command reads to learn what it is to do: its block, its quads, its cell words. -/
def State.gfxReads (s : State) (pan : Nat) (c : GfxCmd) : List (Nat × Nat) :=
  let block := (c.a, 32)
  match c.opc with
  | 0xC1 => if c.fn = 0 then [] else [block]
  | 0xC2 =>
    let f := frgOf (s.gfxBlock pan c)
    [block, (f.qoff, if f.nq ≤ 256 then 16 * f.nq else 0)]
  | 0xC4 =>
    let x := xferOf (s.gfxBlock pan c)
    [block, (x.moff, if x.mode = 1 then 8 * x.ncell else 0)]
  | 0xC5 => [block]
  | _ => []

/-- A graphics command attempted. One whose own scratchpad words are uncorrectable ends with DATA (R314, R389). -/
def State.runGfx (s : State) (pan idx : Nat) (c : GfxCmd) : GfxOut :=
  match (s.gfxReads pan c).findSome? fun r => (s.pan pan).spoiltIn (c.base + r.1) r.2 with
  | some a => .done s { d := if c.opc = 0xC1 then some (5 * 2 ^ 28) else none, status := 5, errva := a - c.base }
  | none => match c.opc with
    | 0xC0 => s.runBinpop c
    | 0xC1 => if c.fn = 0 then s.runQuads pan idx c else s.runBin pan idx c
    | 0xC2 => s.runFragments pan idx c
    | 0xC3 => s.runRate c
    | 0xC4 => s.runStore pan c
    | 0xC5 => s.runLoad pan c
    | 0xC6 => s.runDone pan c
    | _ => s.runStat c

/-- The commands of one group take effect in issue order (R315). -/
def PanCore.gfxFirst (p : PanCore) (c : GfxCmd) : Bool := !(p.gfx.any fun y => y.gk == c.gk && decide (y.issue < c.issue))

/-- GRAPHICS_COMMAND_COMPLETE: a graphics command of a pan that has been admitted takes effect and completes, or still waits (R305
to R315). -/
def execGraphicsCommandComplete (pan idx : Nat) (s : State) : Host.Outcome State Fault Refusal :=
  match (s.pan pan).core.gfx[idx]? with
  | none => .next s
  | some c =>
    if !c.admitted || c.wait == 1 || !(s.pan pan).core.gfxFirst c || !s.engineMayStart pan c.issue c.rc c.gk c.lanes then .next s
    else match c.fin with
      | some e => .next (s.endGfx s pan idx c { e with fatal := false })
      | none => match s.runGfx pan idx c with
        | .wait s1 => .next (s.orWait s1)
        | .done s1 e => .next (s.orWait (if s1.wants.isEmpty then s.endGfx s1 pan idx c e else s1))

/-! ## Admission, R246, R314, R365 -/

/-- The cost class and units of a graphics command (R314, R368). -/
def State.gfxPrice (s : State) (pan : Nat) (c : GfxCmd) : Nat × Nat :=
  match c.opc with
  | 0xC1 => if c.fn = 1 then (12, bitsOf (s.gfxBlock pan c) 128 32) else (13, c.b)
  | 0xC2 =>
    let rung := match s.chainOf c.gk with
      | some (_, _, ch) => ch.rung
      | none => 0
    let f := frgOf (s.gfxBlock pan c)
    (14, if f.nq ≤ 256 then (cellsOf rung (quadPixels (s.readQuads pan c f))).length else 0)
  | 0xC4 | 0xC5 =>
    let x := xferOf (s.gfxBlock pan c)
    (15, (if x.mode = 1 then x.ncell * 8 else x.nrows * x.ncols * areaPixel x.area + 127) / 128)
  | _ => (16, 1)

/-- The admission of a graphics command (R365). -/
def State.admitGfx (s : State) (pan idx : Nat) : State :=
  match (s.pan pan).core.gfx[idx]? with
  | none => s
  | some c =>
    if c.admitted || !(s.pan pan).core.gfxFirst c then s
    else
      let dl := s.holdsChain c.gk || ((s.pan pan).core.gfx.drop (idx + 1)).any fun y => s.holdsChain y.gk
      let (ec, units) := s.gfxPrice pan c
      match s.affords pan c.part dl c.cls ec units with
      | none => s
      | some s1 => s1.modCore pan fun p => { p with gfx := listMod p.gfx idx fun y => { y with admitted := true } }

/-- ENGINE_ADMISSION: the command at the head of an engine's queue is admitted against the pan's energy account, or waits
(R365). -/
def execEngineAdmission (pan : Nat) (q : EngineQ) (s : State) : Host.Outcome State Fault Refusal :=
  if (s.pan pan).off then .next s
  else match q with
    | .sluice => .next (s.admitSluice pan)
    | .array k => .next (s.admitArray pan k)
    | .graphics k => .next (s.admitGfx pan k)

/-! ## Issue of rows 0xC0 to 0xC7, R305 and R306 -/

/-- A graphics instruction: its command joins the pan's graphics commands, GR rises and D is marked empty (R305). -/
def Ctx.sendGfx (c : Ctx) (s : State) (opc : Nat) (x : Std) (regs a b : Nat) : State :=
  if c.counterFull .gr then c.stall s
  else
    let cmd : GfxCmd :=
      { gk := c.gk, slot := c.slot, team := c.g.team, part := c.tm.part, asSlot := c.tm.slot, cls := c.tm.cls, issue := s.nextId,
        lanes := c.lanes, addr := c.run.addr, pos := c.run.pos, rc := (s.pan c.pan).rc + 1, opc := opc, fn := x.fn.toNat, a := a, b := b,
        base := c.tm.base, size := c.tm.size }
    let g := c.record s.nextId (some .gr) x.d regs .zero (c.lanes.map fun l => (l, {})) false none
    c.finish ({ s with nextId := s.nextId + 1 }.modCore c.pan fun p => { p with gfx := p.gfx ++ [cmd] }) g (stdWords x) []

/-- A graphics instruction whose A is the offset of a scratchpad block of `n` bytes (R139, R306). -/
def Ctx.sendBlock (c : Ctx) (s : State) (opc : Nat) (x : Std) (n b : Nat) : State :=
  let off := c.one 1 x.a
  if off % 16 ≠ 0 ∨ !c.tm.holds off n then s.scratchFault c.tm c.run.addr c.run.pos else c.sendGfx s opc x 1 off b

/-- BINPOP (R306, R307). -/
def execBinpop (x : Std) (s : State) : Host.Outcome State Fault Refusal :=
  execFront 0xC0 x s fun s c => c.sendGfx s 0xC0 x 1 (c.one 1 x.a) 0

/-- RSTQ (R306, R308). -/
def execRstq (x : Std) (s : State) : Host.Outcome State Fault Refusal :=
  execFront 0xC1 x s fun s c =>
    let b := c.one 1 x.b
    c.sendBlock s 0xC1 x (if 32 ≤ b ∧ b ≤ 256 then 16 * b else 0) b

/-- rstq.bin (R306, R308). -/
def execRstqBin (x : Std) (s : State) : Host.Outcome State Fault Refusal :=
  execFront 0xC1 x s fun s c => c.sendBlock s 0xC1 x 32 0

/-- FRGLD (R306, R309). -/
def execFrgld (x : Std) (s : State) : Host.Outcome State Fault Refusal :=
  execFront 0xC2 x s fun s c => c.sendBlock s 0xC2 x 32 0

/-- RATE (R306, R310). -/
def execRate (x : Std) (s : State) : Host.Outcome State Fault Refusal :=
  execFront 0xC3 x s fun s c => c.sendGfx s 0xC3 x 1 (c.one 1 x.a) 0

/-- RGST (R306, R311). -/
def execRgst (x : Std) (s : State) : Host.Outcome State Fault Refusal :=
  execFront 0xC4 x s fun s c => c.sendBlock s 0xC4 x 32 0

/-- RGLD (R306, R311). -/
def execRgld (x : Std) (s : State) : Host.Outcome State Fault Refusal :=
  execFront 0xC5 x s fun s c => c.sendBlock s 0xC5 x 32 0

/-- RGDONE (R306, R312). -/
def execRgdone (x : Std) (s : State) : Host.Outcome State Fault Refusal :=
  execFront 0xC6 x s fun s c => c.sendGfx s 0xC6 x 1 0 0

/-- PSTAT (R306, R313). -/
def execPstat (x : Std) (s : State) : Host.Outcome State Fault Refusal :=
  execFront 0xC7 x s fun s c => c.sendGfx s 0xC7 x 2 (c.one 1 x.a) (c.one 1 x.b)

/-! ## Sinks, R302 and R303 -/

/-- FILL's value of a plane, 0 Y, 1 Cb, 2 Cr, at the stream's depth (R292). -/
def Stream.fillOf (x : Stream) (plane : Nat) : Nat :=
  let v := bitsOf x.fmt.toNat (20 - 10 * plane) 10
  if x.deep then v else v / 4

/-- The samples of an output strip, plane by plane: those of its slot, or FILL (R295, R302). -/
def State.stripSamples (s : State) (x : Stream) (o : OutStrip) : List Byte :=
  [1, 2, 3].flatMap fun area =>
    let (w, rows, per) := x.areaDim area
    let n := w * Nat.min per (rows - o.num % x.n * per)
    if o.fill then (List.range n).flatMap fun _ => bytesOf (x.fillOf (area - 1)) 2 else mread s.harvest (x.slotAt area o.num) (n * 2)

/-- The timestamp of a frame on the 90 kHz clock (R302). -/
def Stream.stamp (x : Stream) (f : Nat) : Nat := x.org f * 9 / 100000 % 2 ^ 32

/-- Packets and payload bytes of a strip: the serializer's pgroups, packed at most 1,280 bytes to a packet, line by line; a coded strip's
are the encoder's (R302, R303, R391, log 112). -/
def State.stripSize (s : State) (x : Stream) (o : OutStrip) : Nat × Nat :=
  if x.sink = 1 then (Config.codedPackets s.freeCtr, Config.codedBytes s.freeCtr)
  else
    let pg := if x.deep then 5 else 4
    let most := 1280 / pg
    let groups := x.w / 2
    let lines := Nat.min x.sh (x.h - o.num % x.n * x.sh)
    (lines * ((groups + most - 1) / most), lines * groups * pg)

/-- A stream sends an output strip: what goes onto its front port and flow, whose counters rise (R302, R303, R391). -/
def State.emitStrip (s : State) (i : Nat) (x : Stream) (o : OutStrip) : State :=
  let f := o.num / x.n
  let k := o.num % x.n
  let coded := x.sink == 1
  let port := bitsOf x.fmt.toNat 44 1
  let flow := bitsOf x.fmt.toNat 36 8
  let out : StripOut :=
    { stream := i, port := port, flow := flow, frame := f, strip := k, stamp := x.stamp f,
      last := k + 1 == x.n, fill := o.fill, coded := coded, key := coded && (f - x.frame0) % x.keyint == 0,
      qidx := if coded then bitsOf x.fmt.toNat 56 8 else 0, cols := if coded then (x.w + 4095) / 4096 else 0,
      samples := s.stripSamples x o }
  let (n, b) := s.stripSize x o
  let key := 256 * port + flow
  let y : Flow := tgetD s.flows key {}
  let y1 : Flow := { y with pkt := (y.pkt + n) % 2 ^ 64, byte := (y.byte + b) % 2 ^ 64 }
  { s with wire := s.wire ++ [.strip out], freeCtr := s.freeCtr + 1, flows := tput s.flows key y1 }

/-- The next output strip of a stream: of those that have not been sent, the lowest (R302, R303). -/
def Stream.nextOut (x : Stream) : Option OutStrip :=
  (x.outs.filter fun o => !o.sent).foldl (fun (b : Option OutStrip) o => match b with
    | none => some o
    | some m => if o.num < m.num then some o else b) none

/-- A strip of a stream's slot sent. -/
def Stream.markSent (x : Stream) (num : Nat) : Stream :=
  { x with outs := x.outs.map fun (z : OutStrip) => if z.num = num then { z with sent := true } else z }

/-- The strip that a sink may send of a stream's slot now: its next one, from its scan time on (R302, R303). -/
def Stream.sendable (x : Stream) (num sink now : Nat) : Option OutStrip :=
  match x.nextOut with
  | some o => if o.num = num ∧ x.sink = sink ∧ x.scan (o.num / x.n) (o.num % x.n) ≤ now then some o else none
  | none => none

/-- The next output strip of a sink leaves, those of a slot that was disabled before first (R293, R302, R303). -/
def State.sendStrip (s : State) (i num sink : Nat) : State :=
  let count (st : State) (o : OutStrip) : State := if o.fill then st.modStream i fun y => y.count 11 1 else st
  match s.drains.zipIdx.find? fun d => d.1.stream == i && d.1.x.nextOut.isSome with
  | some (d, k) => match d.x.sendable num sink s.clock.nowNs with
    | some o => count { s.emitStrip i d.x o with drains := listMod s.drains k fun d => { d with x := d.x.markSent num } } o
    | none => s
  | none =>
    let x := s.stream i
    match x.sendable num sink s.clock.nowNs with
    | some o => count ((s.emitStrip i x o).modStream i fun y => y.markSent num) o
    | none => s

/-- STRIP_SERIALIZE (R302). -/
def execStripSerialize (stream strip : Nat) (s : State) : Host.Outcome State Fault Refusal := .next (s.sendStrip stream strip 0)

/-- STRIP_ENCODE (R303). -/
def execStripEncode (stream strip : Nat) (s : State) : Host.Outcome State Fault Refusal := .next (s.sendStrip stream strip 1)

/-- A stream's slot without a strip that its sink has drained. -/
def Stream.drained (x : Stream) (strip : Nat) : Stream :=
  { x with outs := x.outs.filter fun o => !(o.num == strip && o.sent) }

/-- OUTPUT_STRIP_DRAINED: the sink has drained a strip it has sent: its slot is free, and a disabled stream's allocation with the
last (R293, R296). -/
def execOutputStripDrained (stream strip : Nat) (s : State) : Host.Outcome State Fault Refusal :=
  let has (x : Stream) : Bool := x.outs.any fun o => o.num == strip && o.sent
  match s.drains.zipIdx.find? fun d => d.1.stream == stream && has d.1.x with
  | some (_, k) => .next { s with drains := (listMod s.drains k fun d => { d with x := d.x.drained strip }).filter Drain.live }
  | none => if has (s.stream stream) then .next (s.modStream stream fun y => y.drained strip) else .next s

end Sys2Proof.Machine
end

