-- ==== Sys2Proof/Machine/Plan.lean ====
section
/-! DEFINITION. Ticks, the planner, FLL steps, the deadline reserve and gating (R359, R364 to R370). -/

namespace Sys2Proof.Machine

/-- The partition that owns a pan (R398). -/
def State.ownerOf (s : State) (pan : Nat) : Option Nat := (s.parts.find? fun e => bitOf e.2.pans pan).map (·.1)

/-- FLOOR of a pan's partition; 0 for a pan that none owns. -/
def State.floorOf (s : State) (pan : Nat) : Nat :=
  match s.ownerOf pan with
  | some p => (s.part p).floor
  | none => 0

/-- EnergyTick (R366). -/
def Power.settle (w : Power) (floor : Nat) : Power :=
  let m := (w.metered + 255) / 256 + w.carry
  let net : Int := (w.refill : Int) - m
  let gain := max net floor
  { w with bal := min (w.bal + gain) 65536, carry := 0, metered := 0, deficit := (w.deficit + (gain - net).toNat) % 2 ^ 32,
           history := (net :: w.history).take 64, tick := w.tick + 1 }

/-- ENERGY_TICK: a microsecond boundary of station time settles a pan's meter (R366). -/
def execEnergyTick (pan : Nat) (s : State) : Host.Outcome State Fault Refusal :=
  if (s.pan pan).pw.tick < s.clock.nanos / 1000 then
    .next (s.modPan pan fun n => { n with pw := n.pw.settle (s.floorOf pan) })
  else .next s

/-- REFILL of the pans of a partition (R367), its draw outside its pans being `u` W. -/
def Part.refill (p : Part) (u : Nat) : Nat :=
  let n := ((List.range 192).filter fun k => bitOf p.pans k).length
  if p.share < u ∨ n = 0 then p.floor else Nat.min (Nat.max ((p.share - u) * 1000 / n) p.floor) 65535

/-- The planner's figures for the pans of one partition: REFILL and SAL_PBUD (R105, R367). -/
def State.planPart (s : State) (p : Nat) : State :=
  let x := s.part p
  let r := x.refill (Config.drawOutside s.freeCtr)
  let pans := (List.range 192).filter fun k => bitOf x.pans k
  { pans.foldl (fun (st : State) k => st.modPan k fun n =>
      { n with pw := { n.pw with refill := r }, pbud := if s.panChain k then 0xFFFF else Nat.max 1 (r / 4) }) s with
    freeCtr := s.freeCtr + 1 }

/-- PLANNER_RECOMPUTE: every 64 ticks (R367). -/
def execPlannerRecompute (s : State) : Host.Outcome State Fault Refusal :=
  if s.planTick < s.clock.nanos / 64000 then
    .next { (s.parts.map (·.1)).foldl (fun (st : State) p => st.planPart p) s with planTick := s.planTick + 1 }
  else .next s

/-- A pan's FLL floor (R369): DLFK for a deadline pan of a partition with an enabled stream. -/
def State.fllFloor (s : State) (pan : Nat) : Nat :=
  match s.ownerOf pan with
  | some p => if bitOf (s.part p).dlPans pan && s.streams.any (fun e => e.2.en && e.2.part == p) then (s.part p).dlfk else 0
  | none => 0

/-- A pan is a deadline pan of its partition (R359). -/
def State.onDeadline (s : State) (pan : Nat) : Bool :=
  match s.ownerOf pan with
  | some p => bitOf (s.part p).dlPans pan
  | none => false

/-- The step of a pan's FLL (R369): its floor, whether it holds a chain, whether it does as a deadline pan, and whether the package draws too much. A pan without a
chain comes down to the highest k that TGT and the floor allow (log 48). -/
def Power.fllStep (w : Power) (floor : Nat) (chain held hot : Bool) : Power :=
  let sum := w.history.sum
  let c1 :=
    if sum < 0 ∧ floor < w.cur ∧ !held then w.cur - 1
    else if (8 * w.refill : Nat) ≤ sum ∧ w.cur < Nat.max w.tgt floor then w.cur + 1 else w.cur
  let c2 := if hot && !chain && decide (floor < c1) then c1 - 1 else c1
  let c3 := if chain then c2 else Nat.min c2 (Nat.max w.tgt floor)
  { w with cur := Nat.max c3 floor, fllTick := w.fllTick + 1 }

/-- FLL_STEP: every 64 ticks (R369). -/
def execFllStep (pan : Nat) (s : State) : Host.Outcome State Fault Refusal :=
  let w := (s.pan pan).pw
  if w.fllTick < s.clock.nanos / 64000 then
    .next (s.modPan pan fun n =>
      { n with pw := n.pw.fllStep (s.fllFloor pan) (s.panChain pan) (s.panChain pan && s.onDeadline pan) (decide (s.plim < Config.packageDraw w.fllTick)) })
  else .next s

/-- DEADLINE_RESERVE_REFILL: every station-time millisecond (R359). -/
def execDeadlineReserveRefill (part : Nat) (s : State) : Host.Outcome State Fault Refusal :=
  if (s.part part).dlrMs < s.clock.nanos / 1000000 then
    .next (s.modPart part fun p => { p with dlr := Nat.min (p.dlr + p.dlRef) (4 * p.dlRef), dlrMs := p.dlrMs + 1 })
  else .next s

/-- A pan has no resident group, no engine command and no rake visit (R370). -/
def Pan.quiet (n : Pan) : Bool :=
  n.core.groups.isEmpty && n.core.squeue.isEmpty && n.core.sready.isEmpty && n.core.sluices.isEmpty && n.core.asm.isEmpty &&
  n.core.arrays.all (fun e => e.2.isEmpty) && n.core.rqueue.isEmpty && n.core.gfx.isEmpty && n.rake.visits.isEmpty &&
  n.rake.claims.isEmpty

/-- PAN_GATE: a pan idle for 2 µs is gated (R370). -/
def execPanGate (pan : Nat) (s : State) : Host.Outcome State Fault Refusal :=
  let n := s.pan pan
  if n.quiet && !n.off && decide (n.pw.idle + 2000 ≤ s.clock.nowNs) then
    .next (s.modPan pan fun n => { n with pw := { n.pw with gated := true } })
  else .next s

end Sys2Proof.Machine
end

