-- ==== Sys2Proof/Machine/Launch.lean ====
section
/-! DEFINITION. Launch descriptors, landing, the pending pool, result words, work graphs and the completion of grids (R136,
R139, R151 to R154, R165, R324 to R328, R346 to R352, R388, R415). -/

namespace Sys2Proof.Machine

/-! ## Launch descriptors, R346 and R347 -/

/-- A launch descriptor from its 96 bytes as a number (R346). -/
def parseDescr (x : Nat) : Descr :=
  { entry := (List.range 4).map fun k => bitsOf x (64 * k) 64
    trapva := bitsOf x 256 64
    paramva := bitsOf x 320 64
    stageva := bitsOf x 384 64
    graphva := bitsOf x 448 64
    ovfva := bitsOf x 512 64
    ovflen := bitsOf x 576 32
    scrkib := bitsOf x 608 16
    fused := bitOf x 629
    l1seg := bitsOf x 624 5
    nstage := bitsOf x 636 4
    slot := bitsOf x 632 4
    ngrp := (List.range 4).map fun k => bitsOf x (640 + 8 * k) 8
    bud := (List.range 4).map fun k => bitsOf x (672 + 8 * k) 8
    nparam := bitsOf x 704 8
    cls := bitsOf x 712 2
    nnode := bitsOf x 736 32
    bad := bitsOf x 630 2 != 0 || bitsOf x 714 6 != 0 || bitsOf x 720 16 != 0 }

/-- Groups of a role per team. -/
def Descr.count (d : Descr) (r : Role) : Nat := d.ngrp.getD r.code 0

/-- The v-register budget of a role (R346). -/
def Descr.budget (d : Descr) (r : Role) : Nat := 8 * (d.bud.getD r.code 0 + 1)

/-- The groups of a team, by team group number (R151): MATRIX first, then FEED, then VECTOR; CONTROL is number 16. -/
def Descr.groups (d : Descr) : List (Nat × Role) :=
  let rs := List.replicate (d.count .matrix) Role.matrix ++ List.replicate (d.count .feed) Role.feed ++
    List.replicate (d.count .vector) Role.vector
  (rs.zipIdx.map fun e => (e.2, e.1)) ++ if d.count .control = 0 then [] else [(16, .control)]

/-- The breaches of a descriptor that its own bytes show (R154, R347). -/
def Descr.ok (d : Descr) : Bool :=
  let n := d.count .feed + d.count .matrix + d.count .vector
  !d.bad && [0, 4, 8, 12, 16].contains d.l1seg && decide (d.nstage ≤ 8) && decide (d.ovflen ≤ 65535) &&
  decide (d.scrkib ≤ 512) && decide (d.scrkib + 32 * d.l1seg ≤ 512) && decide (d.nparam ≤ 64) && decide (d.nnode ≤ 65536) &&
  d.bud.all (fun b => decide (b ≤ 31)) && [0, 4, 8].contains (d.count .matrix) && decide (d.count .control ≤ 1) &&
  decide (1 ≤ n) && decide (n ≤ 16) &&
  [Role.feed, Role.matrix, Role.vector, Role.control].all fun r => d.count r == 0 || d.entry.getD r.code 0 != 0

/-- The offset, slots and slot bytes of a stage-table entry (R346). -/
def stageOff (x : Nat) : Nat := bitsOf x 32 32
def stageSlots (x : Nat) : Nat := bitsOf x 16 8
def stageBytes (x : Nat) : Nat := bitsOf x 0 16

/-- A stage-table entry is legal and lies in the scratchpad (R149, R346, R347). -/
def stageOk (scrkib x : Nat) : Bool :=
  bitsOf x 24 8 == 0 && decide (2 ≤ stageSlots x) && decide (stageSlots x ≤ 64) && decide (16 ≤ stageBytes x) &&
  decide (stageBytes x ≤ 16384) && stageBytes x % 16 == 0 &&
  decide (stageOff x + stageSlots x * stageBytes x ≤ 1024 * scrkib)

/-! ## Room on a pan, R136, R139, R151, R152, R156, R388 -/

/-- A group's place: slot, team group number, role, accumulator bank and register cells. -/
structure Seat where
  slot : Nat
  num : Nat
  role : Role
  bank : Option Nat := none
  cells : Nat := 0
  deriving DecidableEq, Repr

/-- Cells that a group takes: 32 times its budget, none on the pan controller (R156). -/
def regCells (r : Role) (budget : Nat) : Nat := if r = .control then 0 else 32 * budget

/-- The places that a pan's groups hold. -/
def Pan.seats (n : Pan) : List Seat :=
  n.core.groups.map fun e =>
    let b := match tget n.core.teams e.2.team with
      | some tm => tm.budget e.2.role
      | none => 0
    { slot := e.1, num := e.2.num, role := e.2.role, bank := if e.2.role = .matrix then some e.2.bank else none,
      cells := regCells e.2.role b }

/-- A place for a group in the lowest of some slots that is free, where its quarter has the cells and, for MATRIX, a bank,
the lower first (R151, R152, R154, R387). -/
def seatFor (f : Fence) (taken : List Seat) (num : Nat) (role : Role) (budget : Nat) (slots : List Nat) : Option Seat :=
  match slots.find? fun k => !(taken.any fun t => t.slot == k) with
  | none => none
  | some k =>
    let here := taken.filter fun t => quarterOf t.slot == quarterOf k
    let cells := (here.map (·.cells)).sum
    let seat : Seat := { slot := k, num := num, role := role, cells := regCells role budget }
    if role = .control then some seat
    else if bitOf f.qtr (quarterOf k) ∨ 65536 < cells + regCells role budget then none
    else if role = .matrix then
      if f.arr ≠ 0 then none
      else ([0, 1].find? fun b => !(here.any fun t => t.bank == some b)).map fun b => { seat with bank := some b }
    else some seat

/-- Places for the groups of a team, each taken in turn; none where one has no place. A group's slots are given by its
number. -/
def seatAll (f : Fence) (taken : List Seat) (gs : List (Nat × Role)) (budget : Role → Nat) (slots : Nat → List Nat) :
    Option (List Seat) :=
  match gs with
  | [] => some []
  | (num, role) :: r => match seatFor f taken num role (budget role) (slots num) with
    | none => none
    | some x => (seatAll f (x :: taken) r budget slots).map fun xs => x :: xs

/-- The slots of a team's group: those of quarter number mod 4, and the pan-controller slot of its team slot (R151). -/
def freshSlots (team num : Nat) : List Nat :=
  if num = 16 then [128 + team] else (List.range 32).map fun k => 32 * (num % 4) + k

/-- The set bits of a 16-bit mask. -/
def ones16 (m : Nat) : Nat := ((List.range 16).filter fun k => bitOf m k).length

/-- Scratchpad bytes of a pan at a split, less its fenced segments (R136, R387). -/
def scratchCap (f : Fence) (l1seg : Nat) : Nat := (16 - l1seg - ones16 f.seg) * 32768

/-- The lowest base of a free contiguous range of scratchpad: R139 does not say which of the free ones is taken (DESIGN CHOICE: log
103). -/
def scratchBase (c : PanCore) (cap size : Nat) : Option Nat :=
  let ends := (c.teams.map fun t => t.2.base + t.2.size).foldl (fun l e => if l.contains e then l else l ++ [e]) [0]
  (ends.filter fun b => decide (b + size ≤ cap) && !(c.teams.any fun t =>
    decide (b < t.2.base + t.2.size) && decide (t.2.base < b + size))).foldl (fun (a : Option Nat) b => match a with
      | none => some b
      | some x => some (Nat.min x b)) none

/-- A pan as a landing or a restore finds it: with no team on it, it takes the split and the mode that the grid names
(R136). -/
def Pan.split (n : Pan) (l1seg : Nat) (fused : Bool) : Pan :=
  if n.core.teams.isEmpty then
    if n.l1seg = l1seg ∧ n.fused = fused then n else { n with l1seg := l1seg, fused := fused, l1 := [] }
  else n

/-- The pan could be written so, or is so. -/
def Pan.matches_ (n : Pan) (l1seg : Nat) (fused : Bool) : Bool :=
  n.core.teams.isEmpty || (n.l1seg == l1seg && n.fused == fused)

/-- Where a team would stand on a pan: team slot, scratchpad base and places (R152); none where it does not fit. `teamSlots`
and `slots` say which slots may be taken. -/
def Pan.fits (n : Pan) (gs : List (Nat × Role)) (budget : Role → Nat) (l1seg : Nat) (fused : Bool) (scratch : Nat)
    (teamSlots : List Nat) (slots : Nat → Nat → List Nat) : Option (Nat × Nat × List Seat) :=
  if n.fen.whole ∨ !n.matches_ l1seg fused then none
  else match teamSlots.find? fun k => (tget n.core.teams k).isNone, scratchBase n.core (scratchCap n.fen l1seg) scratch with
    | some k, some b => (seatAll n.fen n.seats gs budget (slots k)).map fun xs => (k, b, xs)
    | _, _ => none

/-- Where a new team of a descriptor would land on a pan. -/
def Descr.fits (d : Descr) (n : Pan) : Option (Nat × Nat × List Seat) :=
  n.fits d.groups d.budget d.l1seg d.fused (1024 * d.scrkib) (List.range 8) freshSlots

/-- A pan that holds nothing, with its fences. -/
def Pan.emptied (n : Pan) : Pan := { n with core := {} }

/-- The pans that a partition owns, ascending (R398). -/
def Part.panList (p : Part) : List Nat := (List.range 192).filter fun k => bitOf p.pans k

/-- Some pan of the partition, holding nothing, could hold the team (R347, R415). -/
def State.couldLand (s : State) (part : Nat) (d : Descr) : Bool :=
  (s.part part).panList.any fun p => (d.fits (s.pan p).emptied).isSome

/-! ## What the front end reads by virtual address, R346, R347 -/

/-- Bytes at a virtual address of a slot, or the not-present fault met, or none where the address has another fault, its
datum is uncorrectable, or its coded block does not verify (DESIGN CHOICE for the last: log 113). -/
def State.frontGet (s : State) (part slot va n fuel : Nat) : State × Except (Option XFault) (List Byte) :=
  match fuel with
  | 0 => (s, .ok [])
  | fuel + 1 =>
    if n = 0 then (s, .ok [])
    else
      let k := Nat.min n (128 - va % 128)
      if !addressOk s part slot va then (s, .error none)
      else match walk s part slot va with
        | .fault kind level e =>
          (s, .error (if kind = 0 then some { lane := 0, va := va, kind := 0, level := level, entry := e } else none))
        | .dataError _ => (s, .error none)
        | .leaf e _ =>
          if !pteR e ∨ isEndpoint (leafPa e va) then (s, .error none)
          else match (s.walkReads part (s.linesOfWalk none part slot va)).unitRead part (pteCodec e) (leafPa e va) (cxOf e) (pteRet e) k with
            | (s1, .bad) => (s1, .error none)
            | (s1, .block _) => (s1, .error none)
            | (s1, .bytes bs) => match s1.frontGet part slot (va + k) (n - k) fuel with
              | (s2, .ok r) => (s2, .ok (bs ++ r))
              | (s2, .error f) => (s2, .error f)

/-- `n` bytes at a virtual address. -/
def State.frontRead (s : State) (part slot va n : Nat) : State × Except (Option XFault) (List Byte) :=
  s.frontGet part slot va n (n / 128 + 2)

/-- A write of bytes at a virtual address of a slot (R350, R351); the fault met, where there is one. -/
def State.frontPut (s : State) (part slot va : Nat) (bs : List Byte) (fuel : Nat) : State × Option XFault :=
  match fuel with
  | 0 => (s, none)
  | fuel + 1 =>
    if bs.isEmpty then (s, none)
    else
      let k := 128 - va % 128
      let f (kind level e : Nat) : XFault := { lane := 0, va := va, kind := kind, level := level, entry := e }
      if !addressOk s part slot va then (s, some (f 4 7 0))
      else match walk s part slot va with
        | .fault kind level e => (s, some (f kind level e))
        | .dataError _ => (s, some (f 2 7 0))
        | .leaf e _ =>
          if !pteW e then (s, some (f 3 (leafLevel e) e))
          else if isEndpoint (leafPa e va) then (s, some (f 4 7 0))
          else ((s.walkReads part (s.linesOfWalk none part slot va)).unitWrite part (pteCodec e) (leafPa e va) (cxOf e) (pteRet e)
            (bs.take k)).frontPut part slot (va + k)
            (bs.drop k) fuel

/-- A front-end access waits for XFR_RETRY of a slot, which has not been torn down since (R347, R375). -/
def State.frontWaits (s : State) (part : Nat) (w : Option Nat) : Bool :=
  match w with
  | some k => !(s.asSlot part k).torn
  | none => false

/-- The record of a front-end access (R347, R350): GID 0 and PC 0. -/
def State.postFront (s : State) (part slot acc : Nat) (f : XFault) : State :=
  s.postXfr part (xfRecord f acc (asid part slot) 0 0 0 0 0 false)

/-- What reading for a launch comes to: the values, a not-present fault that it waits on, or a fault that makes the grid
BADDESC. -/
inductive Read (α : Type) where
  | got (s : State) (x : α)
  | wait (s : State) (slot : Nat)
  | bad (s : State)

/-- The bytes of a launch's address, with the record of a not-present fault (R347). -/
def State.launchRead (s : State) (part slot va n : Nat) : Read (List Byte) :=
  match s.frontRead part slot va n with
  | (s1, .ok bs) => .got s1 bs
  | (s1, .error (some f)) => .wait (s1.postFront part slot 1 f) slot
  | (s1, .error none) => .bad s1

/-- Parameter words and stage table of a descriptor, in its slot (R346). -/
def State.readTables (s : State) (part : Nat) (d : Descr) (paramva : Nat) : Read (List Word × List Nat) :=
  match s.launchRead part d.slot paramva (4 * d.nparam) with
  | .wait s1 k => .wait s1 k
  | .bad s1 => .bad s1
  | .got s1 ps => match s1.launchRead part d.slot d.stageva (8 * d.nstage) with
    | .wait s2 k => .wait s2 k
    | .bad s2 => .bad s2
    | .got s2 bs =>
      let st := (List.range d.nstage).map fun k => ofBytes ((bs.drop (8 * k)).take 8)
      if st.all (stageOk d.scrkib) then .got s2 (toWords ps d.nparam, st) else .bad s2

/-- The nodes of a graph (R349), from number `k` on. -/
def State.readNodes (s : State) (part slot graphva : Nat) (k n : Nat) : Read (Tbl GNode) :=
  match n with
  | 0 => .got s []
  | n + 1 =>
    match s.launchRead part slot (graphva + 32 * k) 32 with
    | .wait s1 j => .wait s1 j
    | .bad s1 => .bad s1
    | .got s1 bs =>
      let x := ofBytes bs
      match s1.launchRead part slot (bitsOf x 0 64) 96 with
      | .wait s2 k => .wait s2 k
      | .bad s2 => .bad s2
      | .got s2 ds =>
        let d := parseDescr (ofBytes ds)
        let node : GNode :=
          { d := d, qva := bitsOf x 64 64, qlog := bitsOf x 128 5, recw := bitsOf x 136 3 + 1, timer := bitsOf x 144 16,
            recoff := bitsOf x 160 32 }
        let ok := d.ok && d.graphva == 0 && decide (d.nparam ≤ 63) && (s2.asSlot part d.slot).en && s2.couldLand part d &&
          decide (5 ≤ node.qlog) && decide (node.qlog ≤ 16) && bitsOf x 133 3 == 0 && bitsOf x 139 5 == 0 &&
          decide (1 ≤ node.timer) && decide (node.timer ≤ 1000) && node.recoff % 32 == 0 && bitsOf x 192 64 == 0
        if !ok then .bad s2
        else match s2.readNodes part slot graphva (k + 1) n with
          | .got s3 r => .got s3 ((k, node) :: r)
          | y => y

/-! ## Grids, R325, R347 -/

/-- Grid `id` of a partition. -/
def State.grid (s : State) (part id : Nat) : Option Grid := tget s.grids (gridKey part id)

/-- A grid identifier, nonzero and unique in the partition, and the state in which it is taken (R347, log 25). -/
def State.newGridId (s : State) (part : Nat) : State × Nat :=
  let first := (s.part part).nextGrid
  let pick := (List.range (s.grids.length + 2)).find? fun k =>
    (first + k) % 2 ^ 32 != 0 && (s.grid part ((first + k) % 2 ^ 32)).isNone
  let id := (first + pick.getD 0) % 2 ^ 32
  (s.modPart part fun p => { p with nextGrid := (id + 1) % 2 ^ 32 }, id)

/-- A grid that ends with no team run: BADDESC 1 or CANCEL 6 (R347). -/
def State.endGrid (s : State) (part id status : Nat) : State :=
  let s1 := s.modGrid part id fun d => { d with status := status, teams := 0 }
  { s1 with pool := s1.pool.filter fun e => !(e.part == part && e.grid == id) }

/-- What making a pool entry ready comes to. -/
inductive Ready where
  | yes (s : State) (e : PoolEntry)
  | wait (s : State) (slot : Nat)
  | over_ (s : State)

/-- The rest of a launch's checks once its descriptor is read: slot, range, fit, tables and graph (R347, R349). -/
def State.readyWith (s : State) (e : PoolEntry) (d : Descr) (paramva : Nat) : Ready :=
  if (s.asSlot e.part d.slot).en && (s.asSlot e.part d.slot).torn then .over_ (s.endGrid e.part e.grid 6)
  else if !d.ok || !(s.asSlot e.part d.slot).en || !s.couldLand e.part d then .over_ (s.endGrid e.part e.grid 1)
  else match s.readTables e.part d paramva with
    | .wait s1 k => .wait s1 k
    | .bad s1 => .over_ (s1.endGrid e.part e.grid 1)
    | .got s1 (ps, st) =>
      let n := if e.fired ∨ d.graphva = 0 then 0 else d.nnode
      match s1.readNodes e.part d.slot d.graphva 0 n with
      | .wait s2 k => .wait s2 k
      | .bad s2 => .over_ (s2.endGrid e.part e.grid 1)
      | .got s2 nodes =>
        .yes (if e.fired then s2 else s2.modGrid e.part e.grid fun g => { g with d := d, nodes := nodes })
          { e with ready := true, wait := none, d := d, paramva := paramva, params := ps, stage := st }

/-- An entry whose descriptor is still to be read is made ready (R347, R351, R415). -/
def State.makeReady (s : State) (e : PoolEntry) : Ready :=
  match e.req with
  | none => s.readyWith e e.d e.paramva
  | some r =>
    if (s.asSlot e.part r.asSlot).torn then .over_ (s.endGrid e.part e.grid 6)
    else match s.launchRead e.part r.asSlot r.desc 96 with
      | .wait s1 k => .wait s1 k
      | .bad s1 => .over_ (s1.endGrid e.part e.grid 1)
      | .got s1 bs => s1.readyWith e (parseDescr (ofBytes bs)) r.param

/-! ## Landing, R151 to R154, R165, R415 -/

/-- A thread at launch (R165, R169). -/
def startThread (entry l : Nat) : Thread := { addr := entry, rng := seedRng 0 l }

/-- A group at launch (R165): its g-registers hold the parameters, and of a fired team g63 the record count (R351). -/
def startGroup (e : PoolEntry) (team now : Nat) (active : Bool) (x : Seat) : Group :=
  let lanes := if x.role = .control then [0] else List.range 32
  let g0 : Tbl Word := e.params.zipIdx.foldl (fun t w => tputD 0 t w.2 w.1) []
  { team := team, num := x.num, role := x.role, bank := x.bank.getD 0, active := active, readySince := now,
    activeSince := now,
    g := if e.fired then tputD 0 g0 63 (BitVec.ofNat 32 e.recs.length) else g0,
    th := lanes.map fun l => (l, startThread (e.d.entry.getD x.role.code 0) l) }

/-- A ring at launch (R149). -/
def startRing (x : Nat) : Ring :=
  { base := stageOff x, slotb := stageBytes x, slots := List.replicate (stageSlots x) (.empty, 0) }

/-- A group put in its slot: in an active place of its quarter where one is free (R162, R163). -/
def PanCore.seatGroup (c : PanCore) (slot : Nat) (g : Group) : PanCore :=
  let free := decide ((c.groups.filter fun e => quarterOf e.1 == quarterOf slot && e.2.active).length < 8)
  { c with groups := tput c.groups slot { g with active := free && g.st != .faultw } }

/-- A team lands on a pan, its groups acquiring at `.dev` what launched them: no L1 line of the pan is older (R138, R151, R152, R247,
R325). -/
def State.landTeam (s : State) (p : Nat) (e : PoolEntry) (k base : Nat) (xs : List Seat) : State :=
  let d := e.d
  let now := s.clock.cycles
  let tm : Team :=
    { grid := e.grid, num := e.next, part := e.part, slot := d.slot, cls := d.cls, base := base, size := 1024 * d.scrkib,
      fused := d.fused, l1seg := d.l1seg, feedRegs := d.budget .feed, matrixRegs := d.budget .matrix, vectorRegs := d.budget .vector,
      controlRegs := d.budget .control, trapva := d.trapva }
  let put (c : PanCore) : PanCore :=
    let c1 := { c with
      teams := tput c.teams k tm
      sems := c.sems.filter fun x => x.1 / 8 != k
      semq := c.semq.filter fun x => x.1 / 8 != k
      rings := (e.stage.zipIdx).foldl (fun t x => tput t (8 * k + x.2) (startRing x.1)) c.rings
      scratch := (e.recs.zipIdx).foldl (fun m x =>
        mwrite m (base + e.recoff + 32 * x.2) (x.1.flatMap fun w => bytesOf w.toNat 4)) c.scratch }
    xs.foldl (fun c x => c.seatGroup x.slot (startGroup e k now false x)) c1
  let s1 := s.modPan p fun n =>
    let m := n.split d.l1seg d.fused
    { m with core := put m.core, l1 := [], pw := { m.pw with gated := false } }
  ((s1.modGrid e.part e.grid fun g => { g with landed := g.landed + 1 }).modPart e.part fun x => { x with lastPan := p }).synced p

/-- A context that may return to a pan now: to the pan it left, to the pan chosen for it, or, its pan being lost to it, to
any (R361, R417). -/
def State.mayReturn (s : State) (x : Context) (p : Nat) : Bool :=
  let n := s.part x.tm.part
  x.go && bitOf n.pans p && !bitOf n.leaving p &&
  match x.target with
  | some t => t == p
  | none => x.pan == p || x.cause == .fenced || (s.pan x.pan).fen.whole || !bitOf n.pans x.pan || bitOf n.leaving x.pan

/-- A restore waits for room on a pan (R361, R417): a context, or a group that JOIN swapped out and whose children have
ended. -/
def State.restoreWaits (s : State) (p : Nat) : Bool :=
  (s.contexts.any fun x => s.mayReturn x p && x.cause != .fenced) ||
  s.joined.any fun j => j.g.children == 0 && (s.pan p).core.teams.any fun t => gkeyOf t.2 0 == j.gk.team_

/-- A pan takes new teams of a partition now. -/
def State.panOpen (s : State) (part grid p : Nat) : Bool :=
  let n := s.pan p
  bitOf (s.part part).pans p && !bitOf (s.part part).leaving p && !n.off && n.caughtUp && !s.restoreWaits p &&
  !(n.core.teams.any fun t => t.2.part == part && t.2.grid == grid && (tgetD n.pre t.1 {}).drain.isSome)

/-- The pans in the order of R415: ascending after the last one landed on, wrapping. -/
def panOrder (last : Nat) : List Nat := (List.range 192).map fun k => (last + 1 + k) % 192

/-- A pool entry after one team of it has landed. -/
def State.landed (s : State) (e : PoolEntry) : State :=
  let same (x : PoolEntry) : Bool := x.part == e.part && x.grid == e.grid && x.next == e.next
  if e.left ≤ 1 then { s with pool := s.pool.filter fun x => !same x }
  else { s with pool := s.pool.map fun x => if same x then { e with next := e.next + 1, left := e.left - 1 } else x }

/-- TEAM_LANDING: the head of a partition's pool entries is made ready, or its next team lands on the first pan that holds it
(R152, R415). -/
def execTeamLanding (part : Nat) (s : State) : Host.Outcome State Fault Refusal :=
  match s.pool.find? fun e => e.part == part with
  | none => .next s
  | some e =>
    let same (x : PoolEntry) : Bool := x.part == e.part && x.grid == e.grid && x.next == e.next
    let put (st : State) (y : PoolEntry) : State := { st with pool := st.pool.map fun x => if same x then y else x }
    if s.frontWaits part e.wait then .next s
    else if !e.ready then .next (s.orWait (match s.makeReady e with
      | .yes s1 y => put s1 y
      | .wait s1 j => put s1 { e with wait := some j }
      | .over_ s1 => s1))
    else match (panOrder (s.part part).lastPan).findSome? fun p =>
        if s.panOpen part e.grid p then (e.d.fits (s.pan p)).map fun r => (p, r) else none with
      | none => .next s
      | some (p, k, b, xs) => .next ((s.landTeam p e k b xs).landed e)

/-! ## The pending pool, R324 -/

/-- The partition's share of the pool has room (R324, R398). -/
def State.poolRoom (s : State) (part : Nat) : Bool :=
  decide ((s.pool.filter fun e => e.part == part).length < 16 * (s.part part).poolShare) && decide (s.pool.length < 4096)

/-- Every earlier access of some lanes of a group to memory has been accepted, and the journal covers the request (R115, R116, R129,
R324, R327, R328). -/
def State.frontMayTake (s : State) (gk : GKey) (pan issue rc : Nat) (lanes : List Nat) : Bool :=
  decide (rc ≤ (s.pan pan).drc) && !s.heldFor gk lanes &&
  !(s.fabric.any fun q => q.gk == gk && decide (q.issue < issue) && q.accs.any fun a => lanes.contains a.lane)

/-- A group wherever it stands (R131). -/
def State.locate (s : State) (k : GKey) : Option Group :=
  match s.pans.findSome? fun e => (e.2.core.findGroup k).map fun r => r.2.1 with
  | some g => some g
  | none => match s.joined.find? fun j => j.gk == k with
    | some j => some j.g
    | none => s.contexts.findSome? fun x => if gkeyOf x.tm 0 = k.team_ then (x.groups.find? fun g => g.2.num == k.num).map (·.2) else none

/-- The children count of a group, with what is on its way to it (R325). -/
def State.childrenOf (s : State) (k : GKey) : Int :=
  (match s.locate k with
    | some g => (g.children : Int)
    | none => 0) + ((s.receipts.filter fun r => r.gk == k).map (·.child)).sum

/-- A LAUNCH record enters the pool as a grid of its own (R324, R325, R347). -/
def State.poolLaunch (s : State) (r : LaunchReq) : State :=
  let part := r.gk.part
  let (s1, id) := s.newGridId part
  let p := (s.grid part r.gk.grid).getD {}
  let g : Grid :=
    { d := { slot := r.asSlot }, teams := r.teams, tag := r.tag, root := p.root, queue := p.queue, packet := p.packet,
      parent := some r.gk }
  { s1 with grids := tput s1.grids (gridKey part id) g,
            pool := s1.pool ++ [{ part := part, grid := id, req := some r, left := r.teams }] }

/-- An overflow-list entry as memory holds it (R324, R346): the fields of the launch record. -/
def LaunchReq.bytes (r : LaunchReq) : List Byte :=
  bytesOf r.desc 8 ++ bytesOf r.param 8 ++ bytesOf r.teams 4 ++ bytesOf r.tag 4 ++ bytesOf 0 8

/-- A LAUNCH record joins its grid's overflow list, which is kept in the grid and written at OVFVA where that translates. -/
def State.overflowLaunch (s : State) (r : LaunchReq) : State :=
  match s.grid r.gk.part r.gk.grid with
  | none => s
  | some g =>
    let s1 := (s.frontPut r.gk.part g.d.slot (g.d.ovfva + 32 * (g.ovfPut % g.d.ovflen)) r.bytes 2).1
    s1.modGrid r.gk.part r.gk.grid fun x => { x with ovf := x.ovf ++ [r], ovfPut := x.ovfPut + 1 }

/-- LAUNCH_PLACE: a LAUNCH record is placed in the pool or on the overflow list, or refused, and its group is answered (R324,
R325). -/
def execLaunchPlace (idx : Nat) (s : State) : Host.Outcome State Fault Refusal :=
  match s.launches[idx]? with
  | none => .next s
  | some r =>
    if !s.frontMayTake r.gk r.pan r.issue r.rc r.lanes || (s.launches.take idx).any (fun e => e.gk == r.gk) then .next s
    else
      let s1 := { s with launches := listDrop s.launches idx }
      let room := match s1.grid r.gk.part r.gk.grid with
        | some g => decide (g.ovf.length < g.d.ovflen)
        | none => false
      let ok := r.ok && decide (1 ≤ r.teams) && decide (r.teams ≤ 2 ^ 24) && decide (s1.childrenOf r.gk < 65535)
      let answer (st : State) (placed : Bool) : State :=
        st.deliver { gk := r.gk, pan := r.pan, issue := r.issue, load := false, rc := r.rc, child := if placed then 1 else 0,
                     vals := r.lanes.map fun l => { lane := l, val := placed.toNat } }
      if !ok then .next (answer s1 false)
      else if s1.poolRoom r.gk.part then .next (answer (s1.poolLaunch r) true)
      else if room then .next (s.orWait (answer (s1.overflowLaunch r) true))
      else .next (answer s1 false)

/-- A completed grid leaves the table once its overflow list is empty. -/
def State.dropGrid (s : State) (part id : Nat) : State :=
  match s.grid part id with
  | some g => if g.done && g.ovf.isEmpty then { s with grids := tdel s.grids (gridKey part id) } else s
  | none => s

/-- OVERFLOW_LIST_MOVE: the first entry of a grid's overflow list moves to the pool as room frees (R324). -/
def execOverflowListMove (part grid : Nat) (s : State) : Host.Outcome State Fault Refusal :=
  match s.grid part grid with
  | none => .next s
  | some g => match g.ovf with
    | [] => .next s
    | r :: rest =>
      if s.poolRoom part then
        .next (((s.poolLaunch r).modGrid part grid fun x => { x with ovf := rest }).dropGrid part grid)
      else .next s

/-! ## Queues' result words, R327 and R348 -/

/-- Queue `n`. -/
def State.queue (s : State) (n : Nat) : Queue := tgetD s.queues n {}

/-- The state with a queue changed. -/
def State.modQueue (s : State) (n : Nat) (f : Queue → Queue) : State := { s with queues := tput s.queues n (f (s.queue n)) }

/-- POST_WORD_ACCEPT: the front end holds a result word, and EV falls (R327, R348). -/
def execPostWordAccept (idx : Nat) (s : State) : Host.Outcome State Fault Refusal :=
  match s.posts[idx]? with
  | none => .next s
  | some r =>
    if !s.frontMayTake r.gk r.pan r.issue r.rc r.lanes || (s.posts.take idx).any (fun e => e.gk == r.gk) then .next s
    else
      let s1 := { s with posts := listDrop s.posts idx }
      let s2 := match (s1.grid r.gk.part r.gk.grid).bind (·.queue) with
        | some q => s1.modQueue q fun x =>
          { x with res := tputD 0 x.res r.word r.val, fresh := setBit x.fresh r.word true }
        | none => s1
      .next (s2.deliver { gk := r.gk, pan := r.pan, issue := r.issue, load := false, rc := r.rc,
                          vals := r.lanes.map fun l => { lane := l } })

/-! ## Work graphs, R349 to R351 -/

/-- What offering a record to a node comes to (R350): it enters, the graph has no such node, it waits for room, or it waits on
a translation fault. -/
inductive Offer where
  | entered (s : State)
  | noNode
  | full
  | fault (s : State) (slot : Nat)

/-- A record cut or padded to a node's length (R350). -/
def fitRecord (ws : List Word) (n : Nat) : List Word := (ws ++ List.replicate 8 0).take n

/-- A record offered to node `k` of the graph of root `root` (R350). -/
def State.offerRecord (s : State) (part root k : Nat) (ws : List Word) : Offer :=
  match s.grid part root with
  | none => .noNode
  | some g => match tget g.nodes k with
    | none => .noNode
    | some n =>
      if g.status = 6 then .noNode
      else if 2 ^ n.qlog ≤ n.recs.length then .full
      else
        let rec_ := fitRecord ws n.recw
        let bytes := ((rec_ ++ List.replicate 8 0).take 8).flatMap fun (w : Word) => bytesOf w.toNat 4
        match s.frontPut part g.d.slot (n.qva + 32 * (n.entered % 2 ^ n.qlog)) bytes 2 with
        | (s1, some f) =>
          .fault (if f.kind = 0 then s1.postFront part g.d.slot 2 f
            else s1.fatal part g.d.slot fun st => st.postFront part g.d.slot 2 f) g.d.slot
        | (s1, none) => .entered (s1.modGrid part root fun x =>
            { x with nodes := tput x.nodes k { n with entered := n.entered + 1, recs := n.recs ++ [(s.clock.nowNs, rec_)] } })

/-- A node fires where its rule holds and the pool has room (R351): its oldest records go to one team of its descriptor. -/
def State.fireNode (s : State) (part root k : Nat) : State :=
  match s.grid part root with
  | none => s
  | some g => match tget g.nodes k with
    | none => s
    | some n =>
      let due := match n.recs with
        | [] => false
        | (t0, _) :: _ => decide (32 ≤ n.recs.length) || decide (t0 + 1000 * n.timer ≤ s.clock.nowNs)
      if !due || !s.poolRoom part || g.status == 6 then s
      else
        let e : PoolEntry :=
          { part := part, grid := root, d := n.d, paramva := n.d.paramva, next := g.teams + g.fired, left := 1, fired := true,
            recs := (n.recs.take 32).map (·.2), recoff := n.recoff }
        { s.modGrid part root fun x =>
            { x with fired := x.fired + 1, nodes := tput x.nodes k { n with recs := n.recs.drop 32 } } with
          pool := s.pool ++ [e] }

/-- NODE_RECORD_ENQUEUE: a record of RECX enters its node queue once room exists, or is discarded; its thread is answered; a
node with 32 records fires (R328, R350, R351). -/
def execNodeRecordEnqueue (idx : Nat) (s : State) : Host.Outcome State Fault Refusal :=
  match s.recs[idx]? with
  | none => .next s
  | some r =>
    if s.frontWaits r.gk.part r.wait || !s.frontMayTake r.gk r.pan r.issue r.rc [r.lane] ||
        (s.recs.take idx).any (fun e => e.gk == r.gk && e.node == r.node) then .next s
    else
      let root := match s.grid r.gk.part r.gk.grid with
        | some g => g.root
        | none => 0
      let answer (st : State) (ok : Bool) : State :=
        ({ st with recs := listDrop st.recs idx } : State).deliver
          { gk := r.gk, pan := r.pan, issue := r.issue, load := false, rc := r.rc, vals := [{ lane := r.lane, val := ok.toNat }] }
      match s.offerRecord r.gk.part root r.node r.words with
      | .entered s1 => .next (s.orWait ((answer s1 true).fireNode r.gk.part root r.node))
      | .noNode => .next (answer s false)
      | .full => .next s
      | .fault s1 k => .next (s.orWait { s1 with recs := listMod s1.recs idx fun x => { x with wait := some k } })

/-- NODE_TIMER_EXPIRY: a node whose oldest record has waited TIMER µs fires, and so does one with 32 records that found the
pool full (R351). -/
def execNodeTimerExpiry (part grid node : Nat) (s : State) : Host.Outcome State Fault Refusal :=
  .next (s.fireNode part grid node)

/-! ## Completion, R325, R347, R352 -/

/-- Nothing of a grid is left to run, and no power loss can bring a team of it back (R325, log 9). -/
def State.gridIdle (s : State) (part id : Nat) (g : Grid) : Bool :=
  g.exited == g.landed && !(s.pool.any fun e => e.part == part && e.grid == id) &&
  s.pans.all fun e => e.2.undo.all fun c => c.teams.all fun t => !(t.2.part == part && t.2.grid == id)

/-- A graph has ended (R352): its node queues are empty, no record waits for it, and every grid of it has completed. -/
def State.graphIdle (s : State) (part id : Nat) (g : Grid) : Bool :=
  g.nodes.isEmpty ||
  ((g.nodes.all fun n => n.2.recs.isEmpty) && g.ovf.isEmpty &&
    !(s.recs.any fun r => r.gk.part == part && match s.grid part r.gk.grid with
      | some x => x.root == id
      | none => false) &&
    s.grids.all fun e => !(e.1 / 2 ^ 32 == part && e.2.root == id) || e.1 % 2 ^ 32 == id)

/-- A completion record (R347). -/
def completionRecord (id : Nat) (g : Grid) : List Byte :=
  bytesOf id 4 ++ bytesOf g.tag 4 ++
  bytesOf (g.status * 2 ^ 28 + (if g.parent.isSome then 2 ^ 26 else 0) + Nat.min g.exited (2 ^ 24 - 1)) 4 ++
  bytesOf (match g.parent with
    | some k => k.grid
    | none => 0) 4

/-- A grid has completed: its launching group's children count falls (R325). -/
def State.gridDone (s : State) (part id : Nat) : State :=
  match s.grid part id with
  | none => s
  | some g =>
    let s1 := (s.modGrid part id fun x => { x with ending := false, done := true }).dropGrid part id
    match g.parent with
    | some k => ({ s1 with nextId := s1.nextId + 1 } : State).deliver
        { gk := k, pan := 0, issue := s1.nextId, load := false, vals := [], child := -1 }
    | none => s1

/-- GRID_COMPLETE: a grid with nothing left completes; its record waits for the completion ring of its queue, where there is
one (R325, R347, R352). -/
def execGridComplete (part grid : Nat) (s : State) : Host.Outcome State Fault Refusal :=
  match s.grid part grid with
  | none => .next s
  | some g =>
    if g.ending || g.done || !s.gridIdle part grid g || !s.graphIdle part grid g then .next s
    else match g.queue with
      | none => .next (s.gridDone part grid)
      | some q =>
        if (s.queue q).cmpBase = 0 then .next (s.gridDone part grid)
        else .next ((s.modGrid part grid fun x => { x with ending := true }).modQueue q fun x =>
          { x with cmpWait := x.cmpWait ++ [(gridKey part grid, completionRecord grid g)] })

/-- COMPLETION_RING_POST: the oldest completion record of a queue is written, where the ring has room (R347). -/
def execCompletionRingPost (q : Nat) (s : State) : Host.Outcome State Fault Refusal :=
  let x := s.queue q
  match x.cmpWait with
  | [] => .next s
  | (key, rec_) :: rest =>
    if (x.chead + 2 ^ 32 - x.ctail) % 2 ^ 32 < 2 ^ x.cmpLog then
      let s1 := s.unitWrites x.part 0 (x.cmpBase + 16 * (x.chead % 2 ^ x.cmpLog)) false 0 rec_ 2
      .next (s.orWait ((s1.modQueue q fun y => { y with chead := (y.chead + 1) % 2 ^ 32, cmpWait := rest }).gridDone (key / 2 ^ 32)
        (key % 2 ^ 32)))
    else .next s

end Sys2Proof.Machine
end

