-- ==== Sys2Proof/Machine/Queue.lean ====
section
/-! DEFINITION. Queues and queue programs: the load check, packets, the bytecodes, staged effects and waits (R336 to R345,
R348, rows of the queue bytecodes). -/

namespace Sys2Proof.Machine

/-! ## Where a queue's words stand, R337, R338, R341 -/

/-- Bytes of a ring. -/
def Queue.ringBytes (x : Queue) : Nat := x.size * 64

/-- QWINk. -/
def Queue.win (x : Queue) (k : Nat) : Nat := tgetD x.wins k 0

def winBase (w : Nat) : Nat := bitsOf w 12 40 * 4096
def winBytes (w : Nat) : Nat := 2 ^ (12 + bitsOf w 5 4)
def winWr (w : Nat) : Bool := bitOf w 1
def winV (w : Nat) : Bool := bitOf w 0

/-- The physical address of Word(k, o) (R341). -/
def Queue.wordPa (x : Queue) (k o : Nat) : Nat :=
  if k = 0 then x.ring + o % x.ringBytes / 4 * 4 else winBase (x.win k) + o % winBytes (x.win k) / 4 * 4

/-- The physical address of word `i` of the packet in progress (R338). -/
def Queue.packetPa (x : Queue) (i : Nat) : Nat := x.wordPa 0 ((x.rptr + 4 * i) % 2 ^ 32)

/-- The front end may reach an address for a queue: its partition owns the extent (R46, R419). -/
def State.queueOwns (s : State) (x : Queue) (pa : Nat) : Bool := ownsRange s x.part pa 4

/-- Bytes written and not consumed (R337). -/
def Queue.written (x : Queue) : Nat := (x.wptr + 2 ^ 32 - x.rptr) % 2 ^ 32

/-- Register w[n]. -/
def Queue.reg (x : Queue) (n : BitVec 4) : Word := tgetD x.w n.toNat 0

/-- w[n] set. -/
def Queue.setReg (x : Queue) (n : BitVec 4) (v : Word) : Queue := { x with w := tputD 0 x.w n.toNat v }

/-- Bsrc (R341). -/
def Queue.bsrc (x : Queue) (imm : Bool) (i : BitVec 16) : Word :=
  if imm then i.signExtend 32 else x.reg (i.setWidth 4)

/-! ## Halts, R339 -/

/-- QFAULT as the register holds it. -/
def queueFault (code info off : Nat) : Nat := code * 2 ^ 60 + info * 2 ^ 32 + off

/-- A packet given up with none of its effects; one whose program has ended has its effects still applied, whole (R345). -/
def Queue.giveUp (x : Queue) : Queue :=
  if x.phase = .applying then x
  else { x with phase := .idle, waiting := false, interp := false, stuck := none, staged := [], loops := [],
                w := if x.phase = .running then x.saved else x.w }

/-- A queue halts: HALTD and QFAULT are set, the packet's effects are discarded, w2 to w15 return to their values at its
start, and the host is told (R339, R345). -/
def State.haltQueue (s : State) (q code info : Nat) : State :=
  let x := s.queue q
  let f := queueFault code info x.rptr
  (s.modQueue q fun x => { x.giveUp with haltd := true, fault := f }).notify x.part (.queueFault q f)

/-! ## The load check, R340 and R343 -/

/-- A queue program as its image holds it: entries and code. -/
structure Image where
  ents : List (Nat × Nat)
  code : List Word

/-- A word of physical memory as the front end sees it. -/
def State.wordAt (s : State) (pa : Nat) : Nat := mnat s.mem pa 4

/-- The line of a word that the front end reads by physical address, at its home bed (R86, R89). -/
def State.frontLine (s : State) (part pa : Nat) : State := s.unitTouch 0 part 0 (lineOf pa) false 0 true false

/-- The lines of the image at an address, read at their home beds at once (R86). -/
def State.imageLines (s : State) (part img : Nat) : State :=
  let n := 4 * (2 + bitsOf (s.wordAt img) 8 8 + Nat.min (s.wordAt (img + 4) % 2 ^ 16) 4096)
  if !ownsRange s part img n then s
  else (List.range (n / 128 + 2)).foldl (fun st k =>
    if lineOf img + 128 * k < img + n then st.pursue (.line part 0 (lineOf img + 128 * k) false 0) else st) s

/-- The image at an address; none where reason 1 holds (R340, R343). -/
def State.readImage (s : State) (part img : Nat) : Option Image :=
  let h := s.wordAt img
  let nent := bitsOf h 8 8
  let clen := s.wordAt (img + 4) % 2 ^ 16
  if bitsOf h 16 16 = 0x5150 ∧ 1 ≤ nent ∧ 1 ≤ clen ∧ clen ≤ 4096 ∧ ownsRange s part img (4 * (2 + nent + clen)) then
    some { ents := (List.range nent).map fun k =>
             let e := s.wordAt (img + 8 + 4 * k)
             (bitsOf e 24 8, e % 2 ^ 16)
           code := (List.range clen).map fun k => BitVec.ofNat 32 (s.wordAt (img + 8 + 4 * nent + 4 * k)) }
  else none

/-- The instruction at a place of the code. -/
def codeAt (code : List Word) (k : Nat) : Option Instr := (code[k]?).bind decodeQueue

/-- The loop bodies of a code: the first word and the word after the body. -/
def loopBodies (code : List Word) : List (Nat × Nat) :=
  code.zipIdx.filterMap fun e => match decodeQueue e.1 with
    | some (.qLoop body _) => some (e.2 + 1, e.2 + 1 + body.toNat)
    | _ => none

/-- Reason 3: a window, a TIMEAT pair or a NODE range (R343). -/
def Queue.badUse (x : Queue) : Instr → Bool
  | .qLdw _ _ k _ | .qDispatch _ _ k _ => k != 0 && !winV (x.win k.toNat)
  | .qStw _ _ k _ | .qSignal _ _ k _ => k == 0 || !winV (x.win k.toNat) || !winWr (x.win k.toNat)
  | .qWaitw _ _ _ k _ => k == 0 || !winV (x.win k.toNat)
  | .qTimeat a => a.toNat % 2 == 1
  | .qNode d _ n _ => decide (15 < d.toNat + n.toNat)
  | _ => false

/-- Reason 4: a branch at a place of the code (R343). -/
def badBranch (len : Nat) (bodies : List (Nat × Nat)) (pc : Nat) : Instr → Bool
  | .qBr _ _ i =>
    let t := (pc : Int) + i.toInt
    decide (i.toInt < 1) || decide ((len : Int) ≤ t) ||
    bodies.any fun b => decide (b.1 ≤ pc) && decide (pc < b.2) && decide ((b.2 : Int) < t)
  | _ => false

/-- Reason 5: a loop at a place of the code (R343). -/
def badLoop (len : Nat) (bodies : List (Nat × Nat)) (pc : Nat) : Instr → Bool
  | .qLoop body n =>
    let b := (pc + 1, pc + 1 + body.toNat)
    n.toNat == 0 || decide (1024 < n.toNat) || body == 0 || decide (len < b.2) ||
    (bodies.any fun o => decide (o.1 ≤ pc) && decide (pc < o.2) && decide (o.2 < b.2)) ||
    decide (2 ≤ (bodies.filter fun o => decide (o.1 ≤ pc) && decide (pc < o.2)).length)
  | _ => false

/-- The worst-case steps of the last `n` words of a region that ends before word `e`: of each, the most words executed from it
to a HALT, an ERR or the region's end (R343). -/
def worstSteps (code : List Word) (depth e n : Nat) : List Nat :=
  match depth with
  | 0 => List.replicate n 0
  | depth + 1 =>
    (List.range n).foldl (fun rest k =>
      let pc := e - 1 - k
      let after (t : Nat) : Nat := if e ≤ t then 0 else rest.getD (t - (pc + 1)) 0
      (match codeAt code pc with
        | some .qHalt => 1
        | some (.qErr _) => 1
        | some (.qBr _ c i) =>
          let t := pc + i.toNat
          1 + if c = 0 then after t else Nat.max (after t) (after (pc + 1))
        | some (.qLoop body m) =>
          1 + m.toNat * (worstSteps code depth (pc + 1 + body.toNat) body.toNat).headD 0 + after (pc + 1 + body.toNat)
        | _ => 1 + after (pc + 1)) :: rest) []

/-- From which words a path can run past the last code word (R343). -/
def runsPast (code : List Word) : List Bool :=
  (List.range code.length).foldl (fun rest k =>
    let pc := code.length - 1 - k
    let after (t : Nat) : Bool := decide (code.length ≤ t) || rest.getD (t - (pc + 1)) false
    (match codeAt code pc with
      | some .qHalt => false
      | some (.qErr _) => false
      | some (.qBr _ c i) => after (pc + i.toNat) || (c != 0 && after (pc + 1))
      | _ => after (pc + 1)) :: rest) []

/-- The ring and the valid windows lie in extents of the partition (R336, R343). -/
def State.queueRanges (s : State) (x : Queue) : Bool :=
  ownsRange s x.part x.ring x.ringBytes &&
  [1, 2, 3].all fun k => !winV (x.win k) || ownsRange s x.part (winBase (x.win k)) (winBytes (x.win k))

/-- The load check: the image, or the reason for which it is rejected, the least of those that hold (R343). -/
def State.loadCheck (s : State) (x : Queue) : Except Nat Image :=
  match s.readImage x.part x.prog with
  | none => .error 1
  | some m =>
    let is := m.code.map decodeQueue
    let len := m.code.length
    let bodies := loopBodies m.code
    let each (f : Nat → Instr → Bool) : Bool := is.zipIdx.any fun e => match e.1 with
      | some i => f e.2 i
      | none => false
    let dup := m.ents.zipIdx.any fun e => (m.ents.take e.2).any fun o => o.1 == e.1.1
    let steps := worstSteps m.code 4 len len
    let past := runsPast m.code
    if is.any (·.isNone) then .error 2
    else if each fun _ i => x.badUse i then .error 3
    else if each (badBranch len bodies) then .error 4
    else if each (badLoop len bodies) then .error 5
    else if m.ents.any fun e => decide (256 < steps.getD e.2 0) then .error 6
    else if dup || m.ents.any (fun e => decide (len ≤ e.2)) then .error 7
    else if !s.queueRanges x || m.ents.any (fun e => past.getD e.2 false) then .error 8
    else .ok m

/-- QUEUE_ENABLE: EN is written 1: the image is read and checked, and the queue starts, or halts with LOAD (R343, R344, R348). -/
def execQueueEnable (q : Nat) (s : State) : Host.Outcome State Fault Refusal :=
  let x := s.queue q
  if x.en || x.phase == .applying then .next s
  else match s.loadCheck x with
    | .error r => .next ((s.imageLines x.part x.prog).haltQueue q 7 r)
    | .ok m => .next ((s.imageLines x.part x.prog).modQueue q fun x =>
        { x with en := true, ents := m.ents, code := m.code, w := [], res := [], fresh := 0, phase := .idle, loops := [],
                 waiting := false, interp := false, stuck := none, staged := [], saved := [] })

/-- QUEUE_DISABLE: EN is written 0, which clears HALTD; a packet that runs is given up with none of its effects (R336, R339,
R345). -/
def execQueueDisable (q : Nat) (s : State) : Host.Outcome State Fault Refusal :=
  .next (s.modQueue q fun x => { x.giveUp with en := false, haltd := false })

/-- QWPTR_WRITE (R336, R337): a value that is not a multiple of 4 is ignored; one too far ahead halts the queue with OVERRUN. -/
def execQwptrWrite (q : Nat) (value : Word) (s : State) : Host.Outcome State Fault Refusal :=
  if value.toNat % 4 ≠ 0 then .next s
  else
    let s1 := s.modQueue q fun x => { x with wptr := value.toNat }
    let x := s1.queue q
    .next (if x.ringBytes < x.written then s1.haltQueue q 6 0 else s1)

/-! ## Packets, R338, R339, R344 -/

/-- PACKET_HEADER_READ: the header of the next packet is read once its 4 bytes are written, and checked (R338, R339). -/
def execPacketHeaderRead (q : Nat) (s : State) : Host.Outcome State Fault Refusal :=
  let x := s.queue q
  if !x.en || x.haltd || x.phase != .idle || decide (x.written < 4) then .next s
  else
    let pa := x.packetPa 0
    let h := s.wordAt pa
    let len := bitsOf h 16 8
    let s1 := s.frontLine x.part pa
    if !s.queueOwns x pa then .next (s.haltQueue q 5 0)
    else .next (s.orWait (
      if s.badLine pa then s1.haltQueue q 5 0
      else if len = 0 then s1.haltQueue q 1 0
      else if x.ringBytes < 4 * len then s1.haltQueue q 2 len
      else match x.ents.lookup (bitsOf h 24 8) with
        | none => s1.haltQueue q 3 (bitsOf h 24 8)
        | some _ => s1.modQueue q fun x => { x with phase := .header, len := len, tag := h % 2 ^ 16 }))

/-- A queue with a packet that an interpreter can take: its words are all written (R338, R344). -/
def Queue.startable (x : Queue) : Bool := x.en && !x.haltd && x.phase == .header && decide (4 * x.len ≤ x.written)

/-- A queue that waits for an interpreter: a packet that can start, or a wait that has ended. -/
def Queue.wantsInterp (x : Queue) : Bool := x.startable || (x.phase == .running && !x.waiting && !x.interp)

/-- The queue to which the next free interpreter goes: ascending after the one served last (R344). -/
def State.nextServed (s : State) : Option Nat :=
  ((List.range 256).map fun k => (s.lastServed + 1 + k) % 256).find? fun q => (s.queue q).wantsInterp

/-- An interpreter is free and goes to this queue. -/
def State.mayServe (s : State) (q : Nat) : Bool :=
  decide ((s.queues.filter fun e => e.2.interp).length < 16) && s.nextServed == some q

/-- PACKET_START: a queue with a ready packet takes a free interpreter, and its program begins (R344). -/
def execPacketStart (q : Nat) (s : State) : Host.Outcome State Fault Refusal :=
  let x := s.queue q
  if !x.startable || !s.mayServe q then .next s
  else
    let h := s.wordAt (x.packetPa 0)
    let w := tputD 0 (tputD 0 x.w 0 (BitVec.ofNat 32 h)) 1 (BitVec.ofNat 32 (x.rptr % x.ringBytes))
    .next { s.modQueue q fun x =>
        { x with phase := .running, interp := true, waiting := false, packet := x.packet + 1, w := w, saved := w, staged := [],
                 loops := [], pc := (x.ents.lookup (bitsOf h 24 8)).getD 0 } with
      lastServed := q }

/-! ## Bytecodes, R341 and R342 -/

/-- The loops whose body's end the program has reached: it turns back, or leaves them (R342). -/
def Queue.turn (x : Queue) (pc : Nat) (ls : List (Nat × Nat × Nat)) : Queue :=
  match ls with
  | [] => { x with pc := pc, loops := [] }
  | (a, e, n) :: r =>
    if pc = e then (if 1 < n then { x with pc := a, loops := (a, e, n - 1) :: r } else x.turn pc r)
    else { x with pc := pc, loops := (a, e, n) :: r }

/-- The program goes on at the next word. -/
def Queue.step (x : Queue) : Queue := x.turn (x.pc + 1) x.loops

/-- The program goes on at another word; loops whose body that leaves end (R343). -/
def Queue.jump (x : Queue) (t : Nat) : Queue :=
  { x with pc := t, loops := x.loops.dropWhile fun l => !(decide (l.1 ≤ t) && decide (t < l.2.1)) }

/-- A bytecode of the queue whose turn it is, where its program runs. -/
def execQueueOp (s : State) (f : Nat → Queue → State) : Host.Outcome State Fault Refusal :=
  let q := s.actor.1
  let x := s.queue q
  if x.phase != .running || !x.interp || x.waiting then .next s else .next (f q x)

/-- A bytecode that changes the queue alone and goes on. -/
def execQueueSet (s : State) (f : Queue → Queue) : Host.Outcome State Fault Refusal :=
  execQueueOp s fun q x => s.modQueue q fun _ => (f x).step

/-- A wait: the program goes on where the condition holds; else the queue waits and gives its interpreter up (R342, R344). -/
def State.queueWait (s : State) (q : Nat) (x : Queue) (ok : Bool) (f : Queue → Queue) : State :=
  s.modQueue q fun _ => if ok then (f x).step else { x with waiting := true, interp := false }

/-- The offset w[A] + SignExtend(IMM). -/
def Queue.offset (x : Queue) (a : BitVec 4) (i : BitVec 16) : Nat := (x.reg a + i.signExtend 32).toNat

/-- The latest store that the packet has staged to a word. -/
def Queue.stagedStore (x : Queue) (pa : Nat) : Option Word :=
  x.staged.foldl (fun a e => match e with
    | .store p v => if p = pa then some v else a
    | _ => a) none

/-- An effect staged. -/
def Queue.stage (x : Queue) (e : Staged) : Queue := { x with staged := x.staged ++ [e] }

/-- LDW. -/
def execQLdw (d a : BitVec 4) (w : BitVec 2) (i : BitVec 16) (s : State) : Host.Outcome State Fault Refusal :=
  execQueueOp s fun q x =>
    let pa := x.wordPa w.toNat (x.offset a i)
    match x.stagedStore pa with
    | some v => s.modQueue q fun _ => (x.setReg d v).step
    | none =>
      let s1 := s.frontLine x.part pa
      if !s.queueOwns x pa then s.haltQueue q 5 0
      else s.orWait (if s.badLine pa then s1.haltQueue q 5 0
        else s1.modQueue q fun _ => (x.setReg d (BitVec.ofNat 32 (s.wordAt pa))).step)

/-- STW. -/
def execQStw (d a : BitVec 4) (w : BitVec 2) (i : BitVec 16) (s : State) : Host.Outcome State Fault Refusal :=
  execQueueSet s fun x => x.stage (.store (x.wordPa w.toNat (x.offset a i)) (x.reg d))

/-- MOVI. -/
def execQMovi (d : BitVec 4) (i : BitVec 16) (s : State) : Host.Outcome State Fault Refusal :=
  execQueueSet s fun x => x.setReg d (i.signExtend 32)

/-- MOVI.hi. -/
def execQMoviHi (d : BitVec 4) (i : BitVec 16) (s : State) : Host.Outcome State Fault Refusal :=
  execQueueSet s fun x => x.setReg d (i ++ (x.reg d).setWidth 16)

/-- ADD. -/
def execQAdd (d a : BitVec 4) (x : Bool) (i : BitVec 16) (s : State) : Host.Outcome State Fault Refusal :=
  execQueueSet s fun y => y.setReg d (y.reg a + y.bsrc x i)

/-- SUB. -/
def execQSub (d a : BitVec 4) (x : Bool) (i : BitVec 16) (s : State) : Host.Outcome State Fault Refusal :=
  execQueueSet s fun y => y.setReg d (y.reg a - y.bsrc x i)

/-- AND. -/
def execQAnd (d a : BitVec 4) (x : Bool) (i : BitVec 16) (s : State) : Host.Outcome State Fault Refusal :=
  execQueueSet s fun y => y.setReg d (y.reg a &&& y.bsrc x i)

/-- OR. -/
def execQOr (d a : BitVec 4) (x : Bool) (i : BitVec 16) (s : State) : Host.Outcome State Fault Refusal :=
  execQueueSet s fun y => y.setReg d (y.reg a ||| y.bsrc x i)

/-- SHL: an amount of 32 or more gives 0. -/
def execQShl (d a : BitVec 4) (x : Bool) (i : BitVec 16) (s : State) : Host.Outcome State Fault Refusal :=
  execQueueSet s fun y => y.setReg d (if 32 ≤ (y.bsrc x i).toNat then 0 else y.reg a <<< (y.bsrc x i).toNat)

/-- SHR: an amount of 32 or more gives 0. -/
def execQShr (d a : BitVec 4) (x : Bool) (i : BitVec 16) (s : State) : Host.Outcome State Fault Refusal :=
  execQueueSet s fun y => y.setReg d (if 32 ≤ (y.bsrc x i).toNat then 0 else y.reg a >>> (y.bsrc x i).toNat)

/-- The comparisons of CMP. -/
def queueCompare (c : BitVec 2) (a b : Word) : Bool :=
  match c.toNat with
  | 0 => a == b
  | 1 => a != b
  | 2 => decide (a.toNat < b.toNat)
  | _ => decide (b.toNat ≤ a.toNat)

/-- CMP. -/
def execQCmp (d a : BitVec 4) (x : Bool) (c : BitVec 2) (i : BitVec 16) (s : State) : Host.Outcome State Fault Refusal :=
  execQueueSet s fun y => y.setReg d (if queueCompare c (y.reg a) (y.bsrc x i) then 1 else 0)

/-- SEL. -/
def execQSel (d a : BitVec 4) (x : Bool) (i : BitVec 16) (s : State) : Host.Outcome State Fault Refusal :=
  execQueueSet s fun y => y.setReg d (if y.reg d != 0 then y.reg a else y.bsrc x i)

/-- BR. -/
def execQBr (a : BitVec 4) (c : BitVec 2) (i : BitVec 16) (s : State) : Host.Outcome State Fault Refusal :=
  execQueueOp s fun q x =>
    let taken := c == 0 || (c == 1 && x.reg a != 0) || (c == 2 && x.reg a == 0)
    s.modQueue q fun _ => if taken then x.jump ((x.pc : Int) + i.toInt).toNat else x.step

/-- LOOP. -/
def execQLoop (body : Byte) (n : BitVec 16) (s : State) : Host.Outcome State Fault Refusal :=
  execQueueOp s fun q x =>
    s.modQueue q fun _ => { x with pc := x.pc + 1, loops := (x.pc + 1, x.pc + 1 + body.toNat, n.toNat) :: x.loops }

/-- DISPATCH: the grid's identifier is taken now, and the grid is staged (R342, R347). -/
def execQDispatch (d a : BitVec 4) (w : BitVec 2) (t : BitVec 4) (s : State) : Host.Outcome State Fault Refusal :=
  execQueueOp s fun q x =>
    let (s1, id) := s.newGridId x.part
    s1.modQueue q fun _ =>
      ((x.stage (.dispatch id w.toNat (x.reg a).toNat (x.reg t).toNat)).setReg d (BitVec.ofNat 32 id)).step

/-- NODE. -/
def execQNode (d a : BitVec 4) (n : BitVec 2) (g : BitVec 4) (s : State) : Host.Outcome State Fault Refusal :=
  execQueueSet s fun x =>
    x.stage (.node (x.reg a).toNat (x.reg g).toNat ((List.range (n.toNat + 1)).map fun k => tgetD x.w (d.toNat + k) 0))

/-- WAITW. -/
def execQWaitw (d a : BitVec 4) (geu : Bool) (w : BitVec 2) (i : BitVec 16) (s : State) : Host.Outcome State Fault Refusal :=
  execQueueOp s fun q x =>
    let pa := x.wordPa w.toNat (x.offset a i)
    let v := s.wordAt pa
    let met := if geu then decide ((x.reg d).toNat ≤ v) else v == (x.reg d).toNat
    let s1 := if s.queueOwns x pa then s.frontLine x.part pa else s
    s.orWait (s1.queueWait q x (met && !s.badLine pa && s.queueOwns x pa) id)

/-- SIGNAL. -/
def execQSignal (d a : BitVec 4) (w : BitVec 2) (i : BitVec 16) (s : State) : Host.Outcome State Fault Refusal :=
  execQueueSet s fun x => x.stage (.signal (x.wordPa w.toNat (x.offset a i)) (x.reg d))

/-- Every grid that earlier packets of the queue dispatched has completed, descendants included (R342, R352). -/
def State.earlierDone (s : State) (q : Nat) (x : Queue) : Bool :=
  !(s.grids.any fun e => e.2.queue == some q && decide (e.2.packet < x.packet)) &&
  !(s.launches.any fun r => match s.grid r.gk.part r.gk.grid with
      | some g => g.queue == some q && decide (g.packet < x.packet)
      | none => false)

/-- FENCE. -/
def execQFence (s : State) : Host.Outcome State Fault Refusal :=
  execQueueOp s fun q x => s.queueWait q x (s.earlierDone q x) id

/-- A result word read, and the clearing of its FRESH staged. -/
def Queue.readResult (x : Queue) (d : BitVec 4) (i : BitVec 3) : Queue :=
  (x.setReg d (tgetD x.res i.toNat 0)).stage (.unfresh i.toNat)

/-- POSTRD. -/
def execQPostrd (d : BitVec 4) (i : BitVec 3) (s : State) : Host.Outcome State Fault Refusal :=
  execQueueSet s fun x => x.readResult d i

/-- POSTRD.wait. -/
def execQPostrdWait (d : BitVec 4) (i : BitVec 3) (s : State) : Host.Outcome State Fault Refusal :=
  execQueueOp s fun q x => s.queueWait q x (x.fresh.getLsbD i.toNat) fun x => x.readResult d i

/-- TIMEAT: the pair w[A], w[A+1] holds a time in the format of %time. -/
def execQTimeat (a : BitVec 4) (s : State) : Host.Outcome State Fault Refusal :=
  execQueueOp s fun q x => s.queueWait q x (decide (regsNat (fun k => tgetD x.w k 0) a.toNat 2 ≤ s.clock.time)) id

/-- INTR. -/
def execQIntr (a : BitVec 4) (i : BitVec 16) (s : State) : Host.Outcome State Fault Refusal :=
  execQueueSet s fun x => x.stage (.intr i.toNat (x.reg a))

/-- ERR. -/
def execQErr (i : BitVec 16) (s : State) : Host.Outcome State Fault Refusal :=
  execQueueOp s fun q _ => s.haltQueue q 4 i.toNat

/-- HALT: the packet's program ends, and its staged effects are to be applied (R345). -/
def execQHalt (s : State) : Host.Outcome State Fault Refusal :=
  execQueueOp s fun q x => s.modQueue q fun _ => { x with phase := .applying, interp := false, loops := [] }

/-- NOPB. -/
def execQNopb (s : State) : Host.Outcome State Fault Refusal := execQueueSet s id

/-- QUEUE_WAIT_RECHECK: a queue that waits takes a free interpreter, and its wait is evaluated again at its next turn (R342,
R344). -/
def execQueueWaitRecheck (q : Nat) (s : State) : Host.Outcome State Fault Refusal :=
  let x := s.queue q
  if x.phase == .running && x.waiting && decide ((s.queues.filter fun e => e.2.interp).length < 16) then
    .next (s.modQueue q fun x => { x with waiting := false, interp := true })
  else .next s

/-- TIMEAT_EXPIRY: the time that a queue's TIMEAT waits for has come (R342). -/
def execTimeatExpiry (q : Nat) (s : State) : Host.Outcome State Fault Refusal :=
  let x := s.queue q
  match codeAt x.code x.pc with
  | some (.qTimeat a) =>
    if x.waiting && decide (regsNat (fun k => tgetD x.w k 0) a.toNat 2 ≤ s.clock.time) &&
        decide ((s.queues.filter fun e => e.2.interp).length < 16) then
      .next (s.modQueue q fun x => { x with waiting := false, interp := true })
    else .next s
  | _ => .next s

/-! ## Staged effects, R345 -/

/-- The front end's party in a scope note: the pan number after the last (R89, R107, log 33). -/
def frontNote : Note := { scope := 3, pan := 192, team := 0, slot := 0 }

/-- What applying an effect comes to: it is done, it waits for room, or it waits on a translation fault. -/
inductive Applied where
  | done (s : State)
  | wait
  | stuck (s : State) (slot : Nat)

/-- A DISPATCH applied (R345, R346, R347): the grid enters the pool, or has completed at once. -/
def State.applyDispatch (s : State) (q : Nat) (x : Queue) (id win off teams : Nat) : Applied :=
  if !s.poolRoom x.part then .wait
  else
    let ws := (List.range 24).map fun k => s.wordAt (x.wordPa win ((off + 4 * k) % 2 ^ 32))
    let bad := (List.range 24).any fun k =>
      let pa := x.wordPa win ((off + 4 * k) % 2 ^ 32)
      s.badLine pa || !s.queueOwns x pa
    let d := parseDescr (ofBytes (ws.flatMap fun w => bytesOf w 4))
    let g : Grid := { d := d, teams := teams, tag := x.tag, root := id, queue := some q, packet := x.packet }
    let s0 := (List.range 24).foldl (fun (st : State) k =>
      let pa := x.wordPa win ((off + 4 * k) % 2 ^ 32)
      if s.queueOwns x pa then st.frontLine x.part pa else st) s
    let s1 : State := { s0 with grids := tput s.grids (gridKey x.part id) g }
    if bad || teams == 0 || decide (2 ^ 24 < teams) then .done (s1.endGrid x.part id 1)
    else match s1.readyWith { part := x.part, grid := id, left := teams } d d.paramva with
      | .yes s2 e => .done { s2 with pool := s2.pool ++ [e] }
      | .wait s2 k => .stuck { s2 with grids := s.grids } k
      | .over_ s2 => .done s2

/-- A staged effect applied (R345). -/
def State.applyStaged (s : State) (q : Nat) (x : Queue) : Staged → Applied
  | .store pa v =>
    if !s.queueOwns x pa then .done s
    else if s.frontBusy pa 4 then .wait else .done (s.frontWrite x.part pa (bytesOf v.toNat 4))
  | .signal pa v =>
    if s.queueOwns x pa && s.frontBusy pa 4 then .wait
    else .done (if !s.queueOwns x pa || s.badLine pa then s
      else
        let line := lineOf pa
        let s1 := ((s.dropCleans pa 4).closeConflict line).unitTouch 0 x.part 0 line false 0 true true
        let s2 := ((s1.takeTag (homeBed line) x.part).1.bedAtomic x.part 0 pa false 0 v.toNat).1
        s2.setNote x.part line false (some frontNote))
  | .dispatch id win off teams => s.applyDispatch q x id win off teams
  | .node g k ws =>
    let root := match s.grid x.part g with
      | some y => y.root
      | none => 0
    match s.offerRecord x.part root k ws with
    | .entered s1 => .done (s1.fireNode x.part root k)
    | .noNode => .done s
    | .full => .wait
    | .fault s1 j => .stuck s1 j
  | .intr code v => .done (s.notify x.part (.intr code v))
  | .unfresh i => .done (s.modQueue q fun y => { y with fresh := setBit y.fresh i false })

/-- STAGED_EFFECT_APPLY: the next staged effect of a packet is applied; with none left, RPTR passes the packet, and the next
may begin (R345). -/
def execStagedEffectApply (q : Nat) (s : State) : Host.Outcome State Fault Refusal :=
  let x := s.queue q
  if x.phase != .applying || s.frontWaits x.part x.stuck then .next s
  else match x.staged with
    | [] => .next (s.modQueue q fun x => { x with phase := .idle, stuck := none, rptr := (x.rptr + 4 * x.len) % 2 ^ 32 })
    | e :: r => .next (s.orWait (match s.applyStaged q x e with
      | .done s1 => s1.modQueue q fun x => { x with staged := r, stuck := none }
      | .wait => s
      | .stuck s1 k => s1.modQueue q fun x => { x with stuck := some k }))

end Sys2Proof.Machine
end

