-- ==== Sys2Proof/Machine/Contexts.lean ====
section
/-! DEFINITION. Pre-emption, sealed contexts and their restores, and the admission of chains (R253, R281, R326, R360 to R363,
R382, R383, R417). -/

namespace Sys2Proof.Machine

/-! ## Requests, R362 -/

/-- A binding of a team's address space. -/
def Team.binds (tm : Team) (r : Rake) (b : Nat) : Bool :=
  match tget r.binds b with
  | some x => x.part == tm.part && x.asSlot == tm.slot
  | none => false

/-- A tier-2 request: the context begins to seal, unless it is being sealed; its groups stop, the writes that their trailers left in
flight complete, and the visits of its bindings are saved (R21, R281, R362, R382). -/
def State.requestSeal (s : State) (pan team : Nat) (cause : SealCause) : State :=
  match s.team pan team with
  | none => s
  | some tm =>
    let n := s.pan pan
    if n.isSealing team then s
    else
      let s1 := s.modPan pan fun n =>
        { n with
          pre := tput n.pre team { n.preempt team with drain := none, sealing := some (s.clock.nowNs, cause) }
          core := { n.core with groups := tmap n.core.groups fun _ g => if g.team = team then g.stopped else g } }
      s1.modRake pan fun r => r.saveVisits (tm.binds r)

/-! ## Contexts -/

/-- The pan without what belongs to a team: its slot, groups, waiters, rings, queued copies, and graphics commands. With `stay` what
runs on without the team is kept: the copies from global to global memory, and the entries of the assembly table, under the team's key
(R131, R142, log 34). -/
def PanCore.withoutTeam (c : PanCore) (k : Nat) (tm : Team) (now : Nat) (stay : Bool) : PanCore :=
  let mine (g : GKey) : Bool := g.team_ == gkeyOf tm 0
  let left := c.groups.filter fun e => e.2.team == k
  let c1 := { c with
    teams := tdel c.teams k
    groups := c.groups.filter fun e => e.2.team != k
    semq := tmap c.semq fun _ l => l.filter fun j => !(left.any fun e => e.1 == j)
    rings := c.rings.filter fun r => r.1 / 8 != k
    asm := if stay then c.asm.map fun a => if a.team = k ∧ a.away.isNone then { a with away := some (gkeyOf tm 0) } else a
           else c.asm.filter fun a => !a.slices.any fun x => mine x.gk
    squeue := c.squeue.filter fun cmd => cmd.all fun x => !mine x.gk || (stay && x.roams)
    sready := c.sready.filter fun x => !mine x.gk || (stay && x.roams)
    sluices := c.sluices.filter fun e => !mine e.2.slice.gk || (stay && e.2.slice.roams)
    gfx := c.gfx.filter fun x => !mine x.gk }
  (left.filter fun e => e.2.active).foldl (fun c e => c.fillPlace (quarterOf e.1) now) c1

/-- Bytes of a scratchpad from `base`, `size` of them, at offsets from 0. -/
def takeScratch (m : Memory) (base size : Nat) : Memory :=
  (m.filter fun e => decide (base ≤ e.1) && decide (e.1 < base + size)).map fun e => (e.1 - base, e.2)

/-- What runs on without its team stays on the pan when a context seals, unless the pan is being fenced. -/
def SealCause.stays (c : SealCause) : Bool := c != .fenced

/-- A team's context as it stands (R376). -/
def State.contextOf (s : State) (pan k : Nat) (tm : Team) (cause : SealCause) : Context :=
  let c := (s.pan pan).core
  let mine (g : GKey) : Bool := g.team_ == gkeyOf tm 0
  let goes (x : Slice) : Bool := mine x.gk && !(cause.stays && x.roams)
  { pan := pan, team := k, cause := cause, go := cause == .admission || cause == .fenced, tm := tm,
    groups := c.groups.filter fun e => e.2.team == k
    rings := (c.rings.filter fun r => r.1 / 8 == k).map fun r => (r.1 % 8, r.2)
    scratch := takeScratch c.scratch tm.base tm.size
    sems := (c.sems.filter fun x => x.1 / 8 == k).map fun x => (x.1 % 8, x.2)
    asm := if cause.stays then [] else c.asm.filter fun a => a.slices.any fun x => mine x.gk
    squeue := c.squeue.filter fun cmd => cmd.any goes
    sready := ((c.sluices.filter fun e => goes e.2.slice).map fun e => e.2.slice) ++ c.sready.filter goes
    gfx := c.gfx.filter fun x => mine x.gk }

/-- A command of the team holds scratchpad or its arrays: it has begun and waits on no fault (R266, R382, log 34). -/
def PanCore.working (c : PanCore) (tm : Team) (stay : Bool) : Bool :=
  let mine (g : GKey) : Bool := g.team_ == gkeyOf tm 0
  (c.arrays.any fun e => e.2.any fun x => mine x.gk) || (c.rqueue.any fun x => mine x.gk && x.opc == 0xB5) ||
  c.sluices.any fun e => mine e.2.slice.gk && !(stay && e.2.slice.roams) && match e.2.st with
    | .page => false
    | .block _ => false
    | _ => true

/-- A visit of the team's bindings that is being saved can post its record: its save ring has room (R281). -/
def State.savesYet (s : State) (pan : Nat) (tm : Team) : Bool :=
  let r := (s.pan pan).rake
  r.visits.any fun e => tm.binds r e.2.bslot && match e.2.st, tget r.binds e.2.bslot with
    | .posting _, _ => true
    | .saving _ _ _, some b => match walk s b.part b.asSlot b.save with
      | .leaf x _ => b.ringRoom (mnat s.mem (leafPa x b.save) 12)
      | _ => false
    | _, _ => false

/-- A context is lost (R362, R375): its grid ends with CANCEL, its chain is replayed, and a KIND 5 record is posted, but for a torn
slot, whose first record stands alone (R62). -/
def State.contextLost (s : State) (tm : Team) : State :=
  let lost (g : GKey) : Bool := g.team_ == gkeyOf tm 0
  let s1 := s.modGrid tm.part tm.grid fun d => { d with exited := d.exited + 1, status := 6 }
  let s2 := { s1 with
    joined := s1.joined.filter fun j => !lost j.gk
    receipts := s1.receipts.filter fun r => !lost r.gk
    eventReceipts := s1.eventReceipts.filter fun r => !lost r.1
    queries := s1.queries.filter fun q => !lost q.gk }
  let s3 := (s2.replayChains lost).dropWatches lost
  if (s3.asSlot tm.part tm.slot).torn then s3
  else s3.logError (errRecord 5 Config.noUnit.toNat 0 tm.part (asid tm.part tm.slot) 0 0 0 0)

/-- A resident context is torn down (R362): nothing of it is left on its pan, now or after a power loss. Its slices are cut off, each with
its record, and the visits of its bindings are saved (R146, R281). -/
def State.loseTeam (s : State) (pan k : Nat) : State :=
  match s.team pan k with
  | none => s
  | some tm =>
    let mine (g : GKey) : Bool := g.team_ == gkeyOf tm 0
    let s0 := (s.cutSlices mine).modRake pan fun r => r.saveVisits (tm.binds r)
    let s1 := s0.modPan pan fun n =>
      let c := n.core.withoutTeam k tm s.clock.cycles false
      { n with core := { c with arrays := tmap c.arrays fun _ l => l.filter fun x => !mine x.gk,
                                rqueue := c.rqueue.filter fun x => !mine x.gk },
               undo := [], drc := n.rc }
    (s1.contextLost tm).synced pan

/-- A sealed context is lost, and with it its slices, wherever they stand, each with its record (R146). -/
def State.loseContext (s : State) (idx : Nat) : State :=
  match s.contexts[idx]? with
  | none => s
  | some x =>
    let s1 := ({ s with contexts := listDrop s.contexts idx } : State).cutSlices fun g => g.team_ == gkeyOf x.tm 0
    let s2 := if x.slices.isEmpty then s1 else s1.modCore x.pan fun c => c.postAll (x.slices.map fun y => y.cancelRecord 0 0 0)
    s2.contextLost x.tm

/-- CONTEXT_SEALED: the context's state is durable, its visits are saved where their ring has room, and its slots, cells and places are
free, its bed watches dropped (R250, R281, R362, R382). A held teardown then takes it to LOST; the teardown of its slot ends the save
early (R375). Its SEAL record is an event of its own, which is durable with the save (R378). -/
def execContextSealed (pan team : Nat) (s : State) : Host.Outcome State Fault Refusal :=
  let n := s.pan pan
  match s.team pan team, (n.preempt team).sealing with
  | some tm, some (_, cause) =>
    if n.off then .next s
    else if (s.asSlot tm.part tm.slot).torn then .next (s.loseTeam pan team)
    else if !n.caughtUp || n.core.working tm cause.stays || s.savesYet pan tm then .next s
    else if (n.preempt team).held then .next (s.loseTeam pan team)
    else
      let noted (n : Pan) : Pan := { n.record [sealRecord (n.rc + 1) team] with rc := n.rc + 1, drc := n.rc + 1 }
      let s0 := s.modPan pan fun n => { noted n with core := n.core.withoutTeam team tm s.clock.cycles cause.stays }
      let s1 := s0.dropWatches fun g => g.team_ == gkeyOf tm 0
      .next (({ s1 with contexts := s1.contexts ++ [s.contextOf pan team tm cause] } : State).synced pan)
  | _, _ => .next s

/-! ## Where a context fits, R361, R383, R417 -/

/-- The v-register budget of a role in a context's team. -/
def Context.shape (x : Context) : List (Nat × Role) := x.groups.map fun e => (e.2.num, e.2.role)

/-- Where a context would stand on a pan: in the slots it held, on its own pan, else in the lowest free ones (R163, R383). -/
def Context.fits (x : Context) (n : Pan) (p : Nat) : Option (Nat × Nat × List Seat) :=
  let home := x.pan == p && x.cause != .fenced && x.target.isNone
  let own (num : Nat) : List Nat := (x.groups.filter fun e => e.2.num == num).map (·.1)
  n.fits x.shape x.tm.budget x.tm.l1seg x.tm.fused x.tm.size (if home then [x.team] else List.range 8)
    (fun k num => if home then own num else freshSlots k num)

/-- A sealed class-3 team is to come to a pan for a chain. -/
def State.awaited (s : State) (p : Nat) : Bool := s.contexts.any fun x => x.cause == .idle && x.go && x.target == some p

/-- A context that may be restored to a pan now (R361, R417): it may return there and fits, and no older one does. -/
def State.restorable (s : State) (idx p : Nat) : Option (Context × Nat × Nat × List Seat) :=
  let n := s.pan p
  let ready (x : Context) : Bool := s.mayReturn x p && !(x.cause == .admission && s.awaited p)
  match s.contexts[idx]? with
  | none => none
  | some x =>
    if n.off || !n.caughtUp || !ready x ||
        (s.contexts.take idx).any (fun y => ready y && (y.cause == x.cause) && (y.fits n p).isSome) then none
    else (x.fits n p).map fun r => (x, r.1, r.2.1, r.2.2)

/-- A group as a restore leaves it (R253, R373, R383): its waits are taken up again from its instruction's boundary. -/
def Group.restored (g : Group) (team now : Nat) (bank : Nat) : Group :=
  let g1 := { g with team := team, bank := bank, watching := false, pwait := 0, walks := [], blocks := [], posted := 0,
                     readySince := now, barr := g.barr.map fun x => { x with rc := 0 } }
  if g1.st = .faultw then g1.unfault now else g1

/-- The slot that a group of a context has now. -/
def seatSlot (xs : List Seat) (num : Nat) : Nat := match xs.find? fun x => x.num == num with
  | some x => x.slot
  | none => 0

/-- A queued copy of a context where it now stands; nothing of its issue waits for the journal any more. -/
def Slice.moved (x : Slice) (xs : List Seat) (k base : Nat) : Slice :=
  { x with slot := seatSlot xs x.gk.num, team := k, base := base, rc := 0 }

def GfxCmd.moved (x : GfxCmd) (xs : List Seat) (k base : Nat) : GfxCmd :=
  { x with slot := seatSlot xs x.gk.num, team := k, base := base, rc := 0 }

/-- The pan with a context in it (R383). -/
def PanCore.withContext (c : PanCore) (x : Context) (k base now : Nat) (xs : List Seat) : PanCore :=
  let c1 := { c with
    teams := tput c.teams k { x.tm with base := base }
    rings := x.rings.foldl (fun t r => tput t (8 * k + r.1) r.2) c.rings
    scratch := x.scratch.foldl (fun m e => mput m (base + e.1) e.2)
      (c.scratch.filter fun e => !(decide (base ≤ e.1) && decide (e.1 < base + x.tm.size)))
    sems := x.sems.foldl (fun t e => tput t (8 * k + e.1) e.2) (c.sems.filter fun e => e.1 / 8 != k)
    semq := c.semq.filter fun e => e.1 / 8 != k
    asm := c.asm ++ x.asm.map fun a => { a with team := k, away := none, slices := a.slices.map fun y => y.moved xs k base }
    squeue := c.squeue ++ x.squeue.map fun cmd => cmd.map fun y => y.moved xs k base
    sready := c.sready ++ x.sready.map fun y => y.moved xs k base
    gfx := c.gfx ++ x.gfx.map fun y => y.moved xs k base }
  xs.foldl (fun c y => match x.groups.find? fun e => e.2.num == y.num with
    | some (_, g) => c.seatGroup y.slot (g.restored k now (y.bank.getD 0))
    | none => c) c1

/-- The receipts of some groups applied in arrival order, and their event records posted (R131, R383, R416). -/
def State.applyReceipts (s : State) (pan : Nat) (mine : GKey → Bool) : State :=
  let rs := s.receipts.filter fun r => mine r.gk
  let es := (s.eventReceipts.filter fun e => mine e.1).map (·.2)
  let s1 := { s with receipts := s.receipts.filter fun r => !mine r.gk, eventReceipts := s.eventReceipts.filter fun e => !mine e.1 }
  (rs.foldl (fun st r => st.deliver r) s1).modCore pan fun c => { c with held := c.held ++ es }.postHeld (c.held ++ es)

/-- The registers %dline and %rung of a restored team: 0 where its chain has ended meanwhile (R301, R307). -/
def State.settleChain (s : State) (k : GKey) : State := if s.holdsChain k then s else s.chainRegs k 0 0

/-- The entries of the assembly table that a sealed team has left on its pans (R142). -/
def State.awayFor (s : State) (key : GKey) : List AsmEntry :=
  s.pans.flatMap fun e => e.2.core.asm.filter fun a => a.away == some key

/-- A context back on a pan (R363, R383), with its entries of the assembly table. Its threads meet no line of an L1 that could be older than
what they have seen (R113). -/
def State.restoreContext (s : State) (idx p : Nat) (x : Context) (k base : Nat) (xs : List Seat) : State :=
  let mine (g : GKey) : Bool := g.team_ == gkeyOf x.tm 0
  let key := gkeyOf x.tm 0
  let y := { x with asm := x.asm ++ s.awayFor key }
  let s0 := { s with
    contexts := listDrop s.contexts idx
    pans := tmap s.pans fun _ n => { n with core := { n.core with asm := n.core.asm.filter fun a => a.away != some key } } }
  let s1 := s0.dropWatches mine
  let s2 := xs.foldl (fun (st : State) z => st.acquireAt p (quarterOf z.slot) 2) (s1.modPan p fun n =>
    let m := n.split x.tm.l1seg x.tm.fused
    { m with core := m.core.withContext y k base s.clock.cycles xs, pw := { m.pw with gated := false } })
  ((s2.applyReceipts p mine).settleChain (gkeyOf x.tm 0)).synced p

/-- A group that JOIN swapped out, back on its team's pan once its children have ended, an acquire at .dev (R138, R326). -/
def State.restoreJoined (s : State) (idx p : Nat) : State :=
  match s.joined[idx]? with
  | none => s
  | some j =>
    let n := s.pan p
    match n.core.teams.find? fun t => gkeyOf t.2 0 == j.gk.team_ with
    | none => s
    | some (k, tm) =>
      if j.g.children ≠ 0 ∨ n.off ∨ !n.caughtUp ∨ n.isSealing k then s
      else match seatAll n.fen n.seats [(j.g.num, j.g.role)] tm.budget (freshSlots k) with
        | some [y] =>
          let s0 := ({ s with joined := listDrop s.joined idx } : State).acquireAt p (quarterOf y.slot) 2
          let s1 := s0.modCore p fun c =>
            c.seatGroup y.slot (j.g.restored k s.clock.cycles (y.bank.getD 0))
          (s1.applyReceipts p fun g => g == j.gk).synced p
        | _ => s

/-- CONTEXT_RESTORE: a sealed context, or past the last of them a group that JOIN swapped out, returns to a pan that can hold
it; a context with an uncorrectable image word is lost (R326, R361, R383, R389, R417). -/
def execContextRestore (idx pan : Nat) (s : State) : Host.Outcome State Fault Refusal :=
  if s.contexts.length ≤ idx then .next (s.restoreJoined (idx - s.contexts.length) pan)
  else match s.restorable idx pan with
    | some (x, k, b, xs) => .next (if x.bad then s.loseContext idx else s.restoreContext idx pan x k b xs)
    | none => .next s

/-! ## SCHED_CMD, R362 and R417 -/

/-- The resident context that a command names: a team of the partition. -/
def State.residentFor (s : State) (part pan team : Nat) : Bool :=
  bitOf (s.part part).pans pan && match s.team pan team with
    | some tm => tm.part == part
    | none => false

/-- The context that a command with SLD 1 names: the one of the partition sealed last that held the pan and team slot. -/
def State.sealedFor (s : State) (part pan team : Nat) : Option Nat :=
  if bitOf (s.part part).pans pan then
    ((s.contexts.zipIdx.filter fun e => e.1.pan == pan && e.1.team == team && e.1.tm.part == part).getLast?).map (·.2)
  else none

/-- SCHED_DRAIN (OP 00): the team's grid lands no more groups on the pan; with DTMO 0 it is sealed at once. -/
def execSchedDrain (part pan team : Nat) (sld : Bool) (s : State) : Host.Outcome State Fault Refusal :=
  if sld || !s.residentFor part pan team || (s.pan pan).isSealing team then .next s
  else if (s.part part).dtmo = 0 then .next (s.requestSeal pan team .host)
  else .next (s.modPan pan fun n =>
    let x := n.preempt team
    { n with pre := tput n.pre team { x with drain := some (x.drain.getD s.clock.nowNs) } })

/-- SCHED_SEAL (OP 01). -/
def execSchedSeal (part pan team : Nat) (sld : Bool) (s : State) : Host.Outcome State Fault Refusal :=
  if sld || !s.residentFor part pan team then .next s else .next (s.requestSeal pan team .host)

/-- SCHED_TEARDOWN (OP 10): the context is lost; one that is being sealed, once it is SEALED. -/
def execSchedTeardown (part pan team : Nat) (sld : Bool) (s : State) : Host.Outcome State Fault Refusal :=
  if sld then
    match s.sealedFor part pan team with
    | some i => .next (s.loseContext i)
    | none => .next s
  else if !s.residentFor part pan team then .next s
  else if (s.pan pan).isSealing team then
    .next (s.modPan pan fun n => { n with pre := tput n.pre team { n.preempt team with held := true } })
  else .next (s.loseTeam pan team)

/-- SCHED_RESTORE (OP 11): a context sealed by a host request or because it hung may return. -/
def execSchedRestore (part pan team : Nat) (sld : Bool) (s : State) : Host.Outcome State Fault Refusal :=
  if !sld then .next s
  else match s.sealedFor part pan team with
    | none => .next s
    | some i => .next { s with contexts := listMod s.contexts i fun x =>
        if x.cause = .host ∨ x.cause = .hung then { x with go := true } else x }

/-! ## Timers, R361 and R362 -/

/-- DRAIN_TIMEOUT: DTMO has lapsed. -/
def execDrainTimeout (pan team : Nat) (s : State) : Host.Outcome State Fault Refusal :=
  match s.team pan team, ((s.pan pan).preempt team).drain with
  | some tm, some t =>
    if t + 1000 * (s.part tm.part).dtmo ≤ s.clock.nowNs then .next (s.requestSeal pan team .host) else .next s
  | _, _ => .next s

/-- SEAL_TIMEOUT: the 50 µs seal timer has lapsed: the partial save is discarded and the context is lost. -/
def execSealTimeout (pan team : Nat) (s : State) : Host.Outcome State Fault Refusal :=
  match ((s.pan pan).preempt team).sealing with
  | some (t, _) => if t + 50000 ≤ s.clock.nowNs then .next (s.loseTeam pan team) else .next s
  | none => .next s

/-- WATCHDOG_EXPIRY: nothing of a running context has moved for WDOG µs: it is sealed as HUNG, and the host is told. -/
def execWatchdogExpiry (pan team : Nat) (s : State) : Host.Outcome State Fault Refusal :=
  let x := (s.pan pan).preempt team
  match s.team pan team with
  | none => .next s
  | some tm =>
    let w := (s.part tm.part).wdog
    if w ≠ 0 ∧ x.sealing.isNone ∧ x.drain.isNone ∧ x.work + 1000 * w ≤ s.clock.nowNs then
      .next ((s.requestSeal pan team .hung).notify tm.part (.hung pan team))
    else .next s

/-- A group has exited, or waits in SEMACQ, BAR, TBWAIT, SGGET or BINPOP (R361). -/
def PanCore.idleGroup (c : PanCore) (tm : Team) (g : Group) : Bool :=
  g.allExited ||
  (g.th.all fun e => e.2.st == .exited || match e.2.park with
    | some (.bar _ _ _ _) => true
    | _ => false) ||
  (c.gfx.any fun x => x.gk == gkeyOf tm g.num && x.opc == 0xC0) ||
  match g.run with
  | some r => [0x94, 0x9A, 0x9D].contains ((r.words.getD r.pos 0).toNat % 256)
  | none => false

/-- TEAM_IDLE_SEAL: a class-3 team without a chain has only waited for 10 µs: it is sealed (R361). -/
def execTeamIdleSeal (pan team : Nat) (s : State) : Host.Outcome State Fault Refusal :=
  let n := s.pan pan
  match s.team pan team with
  | none => .next s
  | some tm =>
    if tm.cls == 3 && !s.holdsChain (gkeyOf tm 0) && !n.off && !s.panChain pan && (s.joinedOf tm).isEmpty &&
        (n.core.groups.all fun e => e.2.team != team || n.core.idleGroup tm e.2) &&
        decide ((n.preempt team).work + 10000 ≤ s.clock.nowNs) then
      .next (s.requestSeal pan team .idle)
    else .next s

/-! ## Admission of chains, R294, R359, R360 -/

/-- A class-3 team waits in BINPOP for a stream. -/
def waitsFor (gfx : List GfxCmd) (k : GKey) (stream : Nat) : Bool :=
  gfx.any fun x => x.gk.team_ == k && x.opc == 0xC0 && x.a == stream

/-- A team for which a chain has been admitted that it has not claimed. -/
def State.reserved (s : State) (k : GKey) : Bool :=
  s.streams.any fun e => e.2.chains.any fun c => (c.2.st == .admitted || c.2.st == .claimable) && c.2.team == k

/-- The pan without the teams of these slots. -/
def Pan.clear (n : Pan) (ks : List Nat) : Pan :=
  { n with core := { n.core with teams := n.core.teams.filter fun t => !ks.contains t.1,
                                 groups := n.core.groups.filter fun g => !ks.contains g.2.team } }

/-- The team slots of class 0 to 2 of a pan, highest first. -/
def Pan.lowTeams (n : Pan) : List Nat := ((n.core.teams.filter fun t => t.2.cls != 3).map (·.1)).reverse

/-- A deadline pan of a partition that holds no chain and is not fenced (R360). -/
def State.deadlinePan (s : State) (part p : Nat) : Bool :=
  let x := s.part part
  bitOf x.dlPans p && bitOf x.pans p && !bitOf x.leaving p && !s.panChain p && !(s.pan p).fen.whole && !(s.pan p).off

/-- The teams to seal, of those given, so that a context fits (R360); none where it does not fit even then. -/
def Pan.toSeal (n : Pan) (fits : Pan → Bool) (done : List Nat) (ks : List Nat) : Option (List Nat) :=
  if fits (n.clear done) then some done
  else match ks with
    | [] => none
    | k :: r => n.toSeal fits (done ++ [k]) r

/-- Where a chain of a stream is admitted (R360): the team, its pan, the team slots to seal there, and the place of its context
where it is sealed. -/
def State.admissionPlan (s : State) (i : Nat) : Option (GKey × Nat × List Nat × Option Nat) :=
  let part := (s.stream i).part
  let resident := (s.pans.filter fun e => s.deadlinePan part e.1).findSome? fun e =>
    (e.2.core.teams.find? fun t => t.2.part == part && t.2.cls == 3 && waitsFor e.2.core.gfx (gkeyOf t.2 0) i &&
      !s.reserved (gkeyOf t.2 0) && !s.holdsChain (gkeyOf t.2 0) && !e.2.isSealing t.1).map fun t =>
      (gkeyOf t.2 0, e.1, ([] : List Nat), (none : Option Nat))
  match resident with
  | some r => some r
  | none =>
    match s.contexts.zipIdx.find? fun e => e.1.cause == .idle && !e.1.go && e.1.tm.part == part &&
        waitsFor e.1.gfx (gkeyOf e.1.tm 0) i && !s.reserved (gkeyOf e.1.tm 0) with
    | none => none
    | some (x, idx) =>
      let plans := ((List.range 192).filter fun p => s.deadlinePan part p).filterMap fun p =>
        let n := s.pan p
        (n.toSeal (fun m => (({ x with target := some p } : Context).fits m p).isSome) [] n.lowTeams).map fun ks => (p, ks)
      match (plans.find? fun e => e.2.isEmpty).orElse fun _ => plans.head? with
      | some (p, ks) => some (gkeyOf x.tm 0, p, ks, some idx)
      | none => none

/-- CHAIN_ADMISSION: at its wake time a chain is admitted, or refused (R360). -/
def execChainAdmission (stream chain : Nat) (s : State) : Host.Outcome State Fault Refusal :=
  let x := s.stream stream
  let now : Int := s.clock.nowNs
  if !x.en || (tget x.chains chain).isSome || decide (x.frameOf chain < x.frame0) || decide (now < x.start chain - 5000) ||
      decide (x.deadline chain < now) then .next s
  else
    let put (st : State) (c : Chain) : State := st.modStream stream fun y => { y with chains := tput y.chains chain c }
    let wce := x.wce.toNat
    match (if (s.part x.part).dlr < wce then none else s.admissionPlan stream) with
    | none =>
      .next ((put s { st := .refused, shadow := [] }).modPart x.part fun p => { p with refused := (p.refused + 1) % 2 ^ 32 })
    | some (k, p, ks, idx) =>
      let s1 := (put s { pan := p, team := k }).modPart x.part fun y => { y with dlr := y.dlr - wce }
      let s2 := s1.modPan p fun n => { n with pw := { n.pw with grant := n.pw.grant + wce } }
      let s3 := ks.foldl (fun (st : State) t => st.requestSeal p t .admission) s2
      .next (match idx with
        | some i => { s3 with contexts := listMod s3.contexts i fun y => { y with go := true, target := some p } }
        | none => s3)

/-- CHAIN_CLAIMABLE: at its start time an admitted chain becomes claimable (R360). -/
def execChainClaimable (stream chain : Nat) (s : State) : Host.Outcome State Fault Refusal :=
  let x := s.stream stream
  match tget x.chains chain with
  | some c =>
    if c.st = .admitted ∧ x.start chain ≤ (s.clock.nowNs : Int) then
      .next (s.modStream stream fun y => { y with chains := tput y.chains chain { c with st := .claimable } })
    else .next s
  | none => .next s

end Sys2Proof.Machine
end

