-- ==== Sys2Proof/Machine/Egress.lean ====
section
/-! DEFINITION. Egress flows: endpoint stores, packets, and received PAUSE frames (R234, R390, R391). -/

namespace Sys2Proof.Machine

/-- A flow of a port; front ports are numbered 0 and 1, side ports 2 to 17. -/
def State.flow (s : State) (port flow : Nat) : Flow := tgetD s.flows (256 * port + flow) {}

/-- The state with a flow changed. -/
def State.modFlow (s : State) (port flow : Nat) (f : Flow → Flow) : State :=
  { s with flows := tput s.flows (256 * port + flow) (f (s.flow port flow)) }

/-! ## Endpoint stores, R234 -/

/-- The flow of an endpoint address: its port and number. -/
def flowOf (pa : Nat) : Nat × Nat := (windowOf pa, bitsOf (pa - endpointBase) 16 8)

/-- A thread's bytes reach a flow, and close its packet where LAST is 1 (R234). A store by another partition, or to a flow that is
not enabled, is discarded and counted. -/
def Flow.append (f : Flow) (part : Nat) (bs : List Byte) (last : Bool) : Flow :=
  if !f.en || f.part != part then { f with disc := (f.disc + 1) % 2 ^ 64 }
  else
    let over_ := f.overlong || decide (9216 < f.open_.length + bs.length)
    if over_ then
      { f with open_ := [], overlong := !last, ovs := if f.overlong then f.ovs else (f.ovs + 1) % 2 ^ 64 }
    else if last then { f with open_ := [], closed := f.closed ++ [f.open_ ++ bs] }
    else { f with open_ := f.open_ ++ bs }

/-- One lane's bytes at an address of a window. -/
def State.appendLane (s : State) (part : Nat) (e : Nat × LaneAcc) : State :=
  let pa := e.1 + e.2.off
  let (port, flow) := flowOf pa
  s.modFlow port flow fun f => f.append part (bytesOf e.2.val e.2.len) (bitOf (pa - endpointBase) 15)

/-- Lane accesses, each with its line, in ascending lane order. -/
def insertLane (l : List (Nat × LaneAcc)) (x : Nat × LaneAcc) : List (Nat × LaneAcc) :=
  match l with
  | [] => [x]
  | h :: r => if x.2.lane < h.2.lane then x :: h :: r else h :: insertLane r x

/-- The requests of a store instruction to one flow: its threads append together, in lane order. -/
def State.sameFlow (s : State) (q : Req) : List Req :=
  s.fabric.filter fun e => e.gk == q.gk && e.issue == q.issue && flowOf e.line == flowOf q.line

/-- ENDPOINT_STORE_ACCEPT: the threads of a store to a flow append their bytes, after what they stored to it before, and the port
acknowledges (R234). -/
def execEndpointStoreAccept (req : Nat) (s : State) : Host.Outcome State Fault Refusal :=
  match s.request req with
  | none => .next s
  | some q =>
    let rs := s.sameFlow q
    let held := rs.any fun r => !s.maySend r || (s.earlier r).any fun e =>
      isEndpoint e.line && flowOf e.line == flowOf r.line && r.shares e
    if q.op != .store || !isEndpoint q.line || held then .next s
    else
      let es := rs.flatMap fun r => r.accs.map fun a => (r.line, a)
      let s1 := (es.foldl insertLane []).foldl (fun (st : State) e => st.appendLane q.gk.part e)
        { s with fabric := s.fabric.filter fun e => !(rs.any fun r => r.id == e.id) }
      .next (rs.foldl (fun (st : State) r => st.respond (r.answer false r.blanks none none)) s1)

/-! ## Packets, R391 (the layout of the protocol headers: log 40) -/

/-- A number in network byte order. -/
def bigBytes (x n : Nat) : List Byte := (bytesOf x n).reverse

/-- The number that bytes hold in network byte order. -/
def ofBig (bs : List Byte) : Nat := ofBytes bs.reverse

/-- Bytes from an offset on replaced by others. -/
def patch (bs : List Byte) (off : Nat) (x : List Byte) : List Byte := bs.take off ++ x ++ bs.drop (off + x.length)

/-- Sixteen-bit words summed for an Internet checksum. -/
def wordSum (bs : List Byte) (acc : Nat) : Nat :=
  match bs with
  | [] => acc
  | [b] => acc + b.toNat * 256
  | a :: b :: r => wordSum r (acc + a.toNat * 256 + b.toNat)

/-- The one's complement checksum of a sum. -/
def foldSum (x : Nat) : Nat :=
  let y := x / 65536 + x % 65536
  65535 - (y / 65536 + y % 65536)

/-- Where the network header begins: after the Ethernet header and one 802.1Q tag. -/
def networkAt (h : List Byte) : Nat := if ofBig ((h.drop 12).take 2) = 0x8100 then 18 else 14

/-- A template filled for UDP over IPv4: total length, header checksum, UDP length, and a UDP checksum of 0. -/
def fillIpv4 (h : List Byte) (n : Nat) : List Byte :=
  let at_ := networkAt h
  let ihl := 4 * ((h.getD at_ 0).toNat % 16)
  let udp := at_ + ihl
  let h1 := patch (patch h (at_ + 2) (bigBytes (h.length - at_ + n) 2)) (at_ + 10) (bigBytes 0 2)
  let h2 := patch h1 (at_ + 10) (bigBytes (foldSum (wordSum ((h1.drop at_).take ihl) 0)) 2)
  patch (patch h2 (udp + 4) (bigBytes (h.length - udp + n) 2)) (udp + 6) (bigBytes 0 2)

/-- A template filled for UDP over IPv6: payload length, UDP length and UDP checksum. -/
def fillIpv6 (h body : List Byte) : List Byte :=
  let at_ := networkAt h
  let udp := at_ + 40
  let len := h.length - udp + body.length
  let h1 := patch (patch (patch h (at_ + 4) (bigBytes (h.length - udp + body.length) 2)) (udp + 4) (bigBytes len 2)) (udp + 6)
    (bigBytes 0 2)
  let sum := foldSum (wordSum (h1.drop udp ++ body) (wordSum ((h1.drop (at_ + 8)).take 32) (len + 17)))
  patch h1 (udp + 6) (bigBytes (if sum = 0 then 65535 else sum) 2)

/-- A packet as its port frames it: the template, filled, and the packet's bytes (R391). -/
def Flow.frame (f : Flow) (body : List Byte) : List Byte :=
  let h := mread f.tpl 0 f.hlen
  (match f.kind with
    | 1 => fillIpv4 h body.length
    | 2 => fillIpv6 h body
    | _ => h) ++ body

/-- A port's link carries traffic: a side port's is up, and a front port is neither fenced nor tested (R387, R395). -/
def State.portUp (s : State) (port : Nat) : Bool :=
  if port < 2 then !bitOf s.fenFront port && !s.testing .frontPort port (fun _ => true) else (s.link (port - 2)).up

/-- EGRESS_PACKET_SEND: the packet of a flow that closed first leaves (R234, R391). -/
def execEgressPacketSend (port flow : Nat) (s : State) : Host.Outcome State Fault Refusal :=
  let f := s.flow port flow
  match f.closed with
  | [] => .next s
  | p :: rest =>
    if !s.portUp port then .next s
    else .next ((s.modFlow port flow fun f =>
      { f with closed := rest, pkt := (f.pkt + 1) % 2 ^ 64, byte := (f.byte + p.length) % 2 ^ 64 }).emit (.packet port flow (f.frame p)))

/-- PAUSE_FRAME_RECEIVE: counted and discarded (R390). -/
def execPauseFrameReceive (port : Nat) (s : State) : Host.Outcome State Fault Refusal :=
  .next { s with pauses := tput s.pauses port (tgetD s.pauses port 0 + 1) }

end Sys2Proof.Machine
end

