-- ==== Sys2Proof/Machine/Persist.lean ====
section
/-! DEFINITION. The journal's events, power loss and recovery, boot, recovered contexts, hardware errors, self-tests and fences
(R134, R135, R377 to R389, R401). -/

namespace Sys2Proof.Machine

/-! ## Durability, R377 to R379 -/

/-- The writes of SAL_DSTAT of a pan that a count covers take effect (R129, R334). -/
def State.clearDstats (s : State) (pan upto : Nat) : State :=
  let due := s.dstatClears.filter fun e => e.1 == pan && decide (e.2.2.2 ≤ upto)
  let s1 := { s with dstatClears := s.dstatClears.filter fun e => !(e.1 == pan && decide (e.2.2.2 ≤ upto)) }
  due.foldl (fun (st : State) e => st.modPart e.2.1 fun p => { p with dstat := p.dstat &&& notw e.2.2.1 32 }) s1

/-- JOURNAL_RECORD_DURABLE: the oldest event of a pan that is not durable becomes so (R377, R379). -/
def execJournalRecordDurable (pan : Nat) (s : State) : Host.Outcome State Fault Refusal :=
  let n := s.pan pan
  match n.undo with
  | [] => .next s
  | _ :: rest =>
    if n.off || s.testing .shadow pan (fun _ => true) then .next s
    else
      let d := n.drc + 1
      .next ((s.modPan pan fun n => { n with drc := d, undo := rest, replies := n.replies.filter fun r => decide (d < r.1) }).clearDstats
        pan d)

/-! ## Loss of power, R134, R135, R380, R384 -/

/-- Recover(pan) of R380: the journalled state after `keep` of the events that are not durable, and its count. -/
def Pan.recovered (n : Pan) (keep : Nat) : PanCore × Nat :=
  match n.undo[keep]? with
  | some c => (c, n.drc + keep)
  | none => (n.core, n.drc + n.undo.length)

/-- A visit after a loss of power: it stands at its micro-step boundary, and reads NODE again (R280). -/
def Visit.afterLoss (v : Visit) : Visit :=
  match v.st with
  | .ready => { v with bytes := [], st := .reading v.node v.mpc false }
  | _ => v

/-- A rake after a loss of power: its node cache is empty (R280). -/
def Rake.afterLoss (r : Rake) : Rake := { r with cache := [], visits := tmap r.visits fun _ v => v.afterLoss }

/-- A pan that power has left, recovered: its caches, TLBs and misses are empty, its SRAM is what its image holds, no event is pending, and
every journal slot is free. -/
def Pan.lost (n : Pan) (keep : Nat) : Pan :=
  let (c, d) := n.recovered keep
  { n with core := c, drc := d, rc := d, undo := [], jring := [], replies := [], sync := false, misses := [], walked := [], full := [],
           l1tlb := [], l2tlb := [], walkCache := [], decoded := [], l1 := [], behind := [], paid := 0, spoilt := [],
           rake := n.rake.afterLoss, off := true }

/-- The teams that stand in a recovered state and had left since: their exits are undone. -/
def State.undoExits (s : State) (before after : PanCore) : State :=
  (after.teams.filter fun t => !(before.teams.any fun u => gkeyOf u.2 0 == gkeyOf t.2 0)).foldl
    (fun (st : State) t => st.modGrid t.2.part t.2.grid fun d => { d with exited := d.exited - 1 }) s

/-- One pan loses power (R380, R384): what left it after its last surviving event is gone, and responses that undone events had
applied wait in receipts (R131). -/
def State.losePan (s : State) (pan keep : Nat) : State :=
  let n := s.pan pan
  let m := n.lost keep
  let late (p rc : Nat) : Bool := p == pan && decide (m.rc < rc)
  let back := (n.replies.filter fun r => decide (m.rc < r.1) && decide (r.2.rc ≤ m.rc)).map (·.2)
  let s1 := (s.modPan pan fun _ => m).undoExits n.core m.core
  { s1 with
    receipts := s1.receipts ++ back
    resps := s1.resps.filter fun r => !late r.pan r.rc
    fabric := s1.fabric.filter fun q => !late q.pan q.rc
    launches := s1.launches.filter fun r => !late r.pan r.rc
    posts := s1.posts.filter fun r => !late r.pan r.rc
    recs := s1.recs.filter fun r => !late r.pan r.rc
    dstatClears := s1.dstatClears.filter fun e => !late e.1 e.2.2.2 }

/-- PAN_POWER_LOSS: `keep` is how many of the events that are not durable verify (R379, R380, R384). One KIND 6 record is posted,
and the chains of the pan's teams are replayed. -/
def execPanPowerLoss (pan keep : Nat) (s : State) : Host.Outcome State Fault Refusal :=
  let n := s.pan pan
  if n.off then .next s
  else
    let teams := (n.core.teams ++ (n.recovered keep).1.teams).map fun t => gkeyOf t.2 0
    .next (((s.losePan pan keep).replayChains fun k => teams.contains k.team_).logError
      (errRecord 6 Config.noUnit.toNat 0 0 0 0 0 0 0))

/-- PAN_POWER_RESTORE: power has returned, and every unit of the pan is tested (R384, R387). -/
def execPanPowerRestore (pan : Nat) (s : State) : Host.Outcome State Fault Refusal :=
  if (s.pan pan).off && !s.tests.contains (.pan pan) then .next { s with tests := s.tests ++ [.pan pan] } else .next s

/-- A context may be restored after a whole-device power loss (R385): every counter of its groups is 0, and no command of it stands
in an engine queue. -/
def State.restartable (s : State) (x : Context) : Bool :=
  let mine (g : GKey) : Bool := g.team_ == gkeyOf x.tm 0
  let busy (c : PanCore) : Bool :=
    (c.arrays.any fun e => e.2.any fun y => mine y.gk) || (c.rqueue.any fun y => mine y.gk) || (c.gfx.any fun y => mine y.gk) ||
    (c.asm.any fun a => a.slices.any fun y => mine y.gk) || (c.squeue.any fun cmd => cmd.any fun y => mine y.gk) ||
    (c.sready.any fun y => mine y.gk) || c.sluices.any fun e => mine e.2.slice.gk
  (x.groups.all fun e => e.2.ctr.list.all (· == 0) && e.2.children == 0) && x.slices.isEmpty && x.gfx.isEmpty &&
  !s.pans.any fun e => busy e.2.core

/-- A context as it stands recovered, in the pan and team slot that it held. -/
def State.recover (s : State) (t : Tbl Context) (x : Context) : Tbl Context :=
  let out := (s.joinedOf x.tm).isEmpty
  tput t (8 * x.pan + x.team)
    { x with cause := .host, go := s.restartable x && out, target := none, key := (s.part x.tm.part).key }

/-- The contexts that a device without power leaves: those sealed in brine, and those of each pan after its recovery (R385). -/
def State.recoverAll (s : State) : Tbl Context :=
  let t0 := s.contexts.foldl (fun t x => s.recover t x) s.rcv
  s.pans.foldl (fun t e => e.2.core.teams.foldl
    (fun t u => s.recover t (s.contextOf e.1 u.1 u.2 .host)) t) t0

/-- The brine-window part of a memory. -/
def brineOnly (m : Memory) : Memory := m.filter fun e => isBrine e.1

/-- The rake work of an address space, and the rest. -/
def Rake.ofSpace (r : Rake) (part slot : Nat) (mine : Bool) : Rake :=
  let here (b : RkBind) : Bool := (b.part == part && b.asSlot == slot) == mine
  let keep (k : Nat) : Bool := match tget r.binds k with
    | some b => here b
    | none => false
  { r with binds := r.binds.filter fun b => here b.2, visits := r.visits.filter fun v => keep v.2.bslot,
           claims := r.claims.filter fun c => keep c.bslot }

/-- A rake with the work of another, whose binding slots are free in it. -/
def Rake.join (r x : Rake) : Rake :=
  let bs := x.binds.filter fun b => (tget r.binds b.1).isNone
  let ok (k : Nat) : Bool := bs.any fun b => b.1 == k
  let next (t : Tbl Visit) : Nat := ((List.range 256).find? fun k => (tget t k).isNone).getD 0
  { r with binds := bs.foldl (fun t b => tput t b.1 b.2) r.binds
           visits := (x.visits.filter fun v => ok v.2.bslot).foldl (fun t v => tput t (next t) v.2) r.visits
           claims := r.claims ++ x.claims.filter fun c => ok c.bslot }

/-- What a pan's shadow keeps beside the contexts when the device loses power: its event queue and the records held for it, and the
rake work, which sleeps until its contexts are restored (R132, R135, R280, R385). -/
def Pan.shadow (n : Pan) : Pan :=
  { core := { evq := n.core.evq, held := n.core.held }, asleep := n.asleep.join n.rake, fen := n.fen }

/-- The device without power (R135, R385): what brine holds, pan shadows and receipts among it, and what the agenda and the numbering of
this model need. `mem` is what memory then holds, and `bad` its uncorrectable lines. -/
def State.powerDown (s : State) (keep : Nat) (mem durable : Memory) (bad : List Nat) : State :=
  let s1 := (s.pans.filter fun e => !e.2.off).foldl (fun (st : State) e => st.losePan e.1 keep) s
  { State.reset with
    agenda := s.agenda, freeCtr := s.freeCtr, actor := s.actor, nextId := s.nextId, mem := mem, durable := durable,
    bad := bad
    pans := tmap s1.pans fun _ n => n.shadow
    receipts := s1.receipts, eventReceipts := s1.eventReceipts
    beds := tmap s.beds fun _ b => { fenced := b.fenced }
    fenFront := s.fenFront, fenSide := s.fenSide, wire := s.wire
    boot := { s.boot with running := false }, rcv := s1.recoverAll }

/-- DEVICE_POWER_LOSS: the brine window keeps what had reached it, and asset memory, the Saltern, windows and overflow entries are
lost (R135). -/
def execDevicePowerLoss (keep : Nat) (s : State) : Host.Outcome State Fault Refusal :=
  .next (s.powerDown keep (brineOnly s.durable) (brineOnly s.durable) (s.bad.filter isBrine))

/-! ## Boot, R401 -/

/-- The ROM loader accepts an image (R401). -/
def imageOk (x : FwImage) : Bool := x.sigOk && x.digestOk && decide (Config.minVersion ≤ x.version)

/-- DEVICE_RESET: registers take their reset values and every pan is recovered; the boot self-test, where it passes, lifts the
fences; and the image that brine holds runs, where the loader accepts it (R385, R388, R401, log 37). -/
def execDeviceReset (s : State) : Host.Outcome State Fault Refusal :=
  let all := (s.pans.map fun e => e.2.undo.length).sum
  let d := s.powerDown all s.mem (brineOnly s.mem) s.bad
  let run := match d.boot.image with
    | some x => imageOk x
    | none => false
  let d1 := { d with freeCtr := d.freeCtr + 1, boot := { d.boot with running := run } }
  .next (if Config.bootTest s.freeCtr then
    { d1 with pans := tmap d1.pans fun _ n => { n with fen := {} }, beds := [], fenFront := 0, fenSide := 0 } else d1)

/-- FIRMWARE_IMAGE_RECEIVE: with no firmware running, an image that the loader accepts is stored and runs, and its sender is the
manager (R401). -/
def execFirmwareImageReceive (img : FwImage) (source : Nat) (s : State) : Host.Outcome State Fault Refusal :=
  if !s.boot.running && imageOk img then .next { s with boot := { image := some img, running := true, mgr := source } }
  else .next s

/-! ## RCV_CMD, R385 -/

/-- The sleeping rake work of a context's address space leaves its pans' shadows, to go on where `wake` says so (R280, R385). -/
def State.endSleep (s : State) (x : Context) (wake : Bool) : State :=
  { s with pans := tmap s.pans fun _ n =>
      { n with asleep := n.asleep.ofSpace x.tm.part x.tm.slot false
               rake := if wake then n.rake.join (n.asleep.ofSpace x.tm.part x.tm.slot true) else n.rake } }

/-- RCV_RESTORE (OP 00): a recovered context of a partition that has been created again with its key waits to be restored. -/
def execRcvRestore (pan team : Nat) (s : State) : Host.Outcome State Fault Refusal :=
  match tget s.rcv (8 * pan + team) with
  | none => .next s
  | some x =>
    let p := s.part x.tm.part
    if x.go && p.en && p.key == x.key then
      let s1 := { s with rcv := tdel s.rcv (8 * pan + team), contexts := s.contexts ++ [{ x with key := none }] }
      .next ((s1.endSleep x true).modPart x.tm.part fun y => { y with nextGrid := Nat.max y.nextGrid (x.tm.grid + 1) })
    else .next s

/-- RCV_DISCARD (OP 01). -/
def execRcvDiscard (pan team : Nat) (s : State) : Host.Outcome State Fault Refusal :=
  match tget s.rcv (8 * pan + team) with
  | none => .next s
  | some x =>
    let s1 := { s with rcv := tdel s.rcv (8 * pan + team) }
    .next (if s1.rcv.any fun e => e.2.tm.part == x.tm.part && e.2.tm.slot == x.tm.slot then s1 else s1.endSleep x false)

/-! ## Hardware errors, R386 and R387 -/

/-- UNIT of R386. -/
def unitCode : UnitKind → Nat
  | .sram => 0
  | .regBank => 1
  | .datapath => 2
  | .matrix => 3
  | .rake => 4
  | .panCtl => 5
  | .sluice => 6
  | .salWay => 7
  | .shadow => 8
  | .frontPort => 9
  | .sidePort => 10
  | .channel => 11

/-- KIND of an error of a unit (R386): corrected, a link error of a port, or uncorrectable. -/
def errKind (r : ErrReport) : Nat :=
  if r.corrected then 0 else match r.unit with
    | .frontPort | .sidePort => 4
    | _ => 1

/-- INST of an error's record: the channel of a line of asset memory is the one that holds it (R45). -/
def errInst (r : ErrReport) : Nat := if r.unit = .channel ∧ r.pa ≠ 0 ∧ isAsset r.pa = true then channelOf r.pa else r.inst

/-- The record of an error with its RESULT (R386). -/
def errPosted (r : ErrReport) (result : Nat) : List Byte :=
  errRecord (errKind r) (unitCode r.unit * 2 ^ 16 + errInst r % 256 * 2 ^ 8 + r.sub % 256) result (r.part % 8) 0 r.pa 0 0 0

/-- A unit's number among all, for the time of its last passed test. -/
def errUnit (r : ErrReport) : Nat := (unitCode r.unit * 256 + r.inst) * 256 + r.sub

/-- A line whose stored datum is uncorrectable: a dirty way that holds it keeps it, pinned (R389). -/
def State.spoil (s : State) (pa : Nat) : State :=
  let line := lineOf pa
  let pin (w : Way) : Way := if w.line = line ∧ w.st = .dirty then { w with st := .pinned } else w
  let s1 := if s.bad.contains line then s else { s with bad := line :: s.bad }
  s1.modBed (homeBed line) fun b => { b with sets := tmap b.sets fun _ ws => tmap ws fun _ w => pin w }

/-- A way of a bed that is to be tested or fenced gives up its lines, the dirty ones written back (R387). -/
def State.emptyWay (s : State) (bed way : Nat) : State :=
  let held := ((s.bed bed).sets.filterMap fun e => tget e.2 way).filter fun w => w.st == .clean || w.st == .dirty
  let s1 := held.foldl (fun (st : State) w => st.writeBack w) s
  s1.modBed bed fun b => { b with sets := tmap b.sets fun _ ws => ws.filter fun e =>
    !(e.1 == way && (e.2.st == .clean || e.2.st == .dirty)) }

/-- What a test does to its unit as it begins (R387): a sluice gives its copy back, a way its lines, and a port's link goes
down. -/
def State.beginTest (s : State) (r : ErrReport) : State :=
  match r.unit with
  | .sluice => match tget (s.pan r.inst).core.sluices r.sub with
    | some x => match x.st with
      | .fresh | .page | .block _ | .ready =>
        (s.modCore r.inst fun c => { c with sluices := tdel c.sluices r.sub, sready := x.slice :: c.sready }).synced r.inst
      | _ => s
    | none => s
  | .salWay => s.emptyWay r.inst r.sub
  | .sidePort => s.dropLink r.inst
  | _ => s

/-- A quarter of B that an error has struck (R264). -/
def PanCore.strikeBuffer (c : PanCore) (array bank key : Nat) : PanCore :=
  { c with groups := tmap c.groups fun k g =>
      if g.role = .matrix ∧ quarterOf k = array ∧ g.bank = bank then
        { g with mx := { g.mx with bufs := tmod g.mx.bufs key fun q => { q with bad := true } } }
      else g }

/-- The damage that an uncorrectable error does (R389): a datum of a Saltern way or of asset memory, an image word, a byte of scratchpad or
a quarter of B (R264, log 110). -/
def State.strike (s : State) (r : ErrReport) : State :=
  if r.corrected then s
  else match r.unit with
    | .salWay | .channel => if r.pa = 0 then s else s.spoil r.pa
    | .shadow =>
      { s with freeCtr := s.freeCtr + 1, contexts := s.contexts.zipIdx.map fun e =>
          if e.1.pan = r.inst ∧ Config.imageHit s.freeCtr e.2 = true then { e.1 with bad := true } else e.1 }
    | .sram =>
      { s with freeCtr := s.freeCtr + 1 }.modPan r.inst fun n =>
        { n with spoilt := (r.sub * 32768 + Config.sramByte s.freeCtr % 32768) :: n.spoilt }
    | .matrix =>
      let s1 := { s with freeCtr := s.freeCtr + 1 }
      match Config.bufferHit s.freeCtr with
      | some (bank, key) => (s1.modCore r.inst fun c => c.strikeBuffer r.sub bank key).synced r.inst
      | none => s1
    | _ => s

/-- UNIT_ERROR: a unit reports an error. It is tested, but for a memory channel, and for a corrected error of a unit whose test has
passed within 1 ms; those are posted at once (R386, R387). -/
def execUnitError (r : ErrReport) (s : State) : Host.Outcome State Fault Refusal :=
  let s1 := s.strike r
  let fresh : Bool := match tget s.passed (errUnit r) with
    | some t => r.corrected && decide (s.clock.nowNs < t + 1000000)
    | none => false
  if r.unit = .channel ∨ fresh = true then .next (s1.logError (errPosted r 0))
  else .next { s1.beginTest r with tests := s1.tests ++ [.unit r] }

/-! ## Fences, R387 and R388 -/

/-- A team that stands on a fenced part of its pan (R387). -/
def Pan.hurt (n : Pan) (k : Nat) (tm : Team) : Bool :=
  n.fen.whole || decide (scratchCap n.fen tm.l1seg < tm.base + tm.size) ||
  n.core.groups.any fun e => e.2.team == k &&
    ((decide (e.1 < 128) && bitOf n.fen.qtr (quarterOf e.1)) || (e.2.role == .matrix && bitOf n.fen.arr (quarterOf e.1)))

/-- The contexts that a fence strikes are sealed by tier 2, to be restored where they fit (R387). -/
def State.sealHurt (s : State) (pan : Nat) : State :=
  let n := s.pan pan
  (n.core.teams.filter fun t => n.hurt t.1 t.2).foldl (fun (st : State) t => st.requestSeal pan t.1 .fenced) s

/-- A pan with a fence more. A fourth sluice fences the pan, a second datapath its quarter (R388). -/
def Fence.add (f : Fence) (u : UnitKind) (sub : Nat) : Fence :=
  match u with
  | .sram => { f with seg := f.seg ||| 2 ^ sub }
  | .regBank => { f with qtr := f.qtr ||| 2 ^ sub }
  | .datapath => if bitOf f.dpq (sub % 4) then { f with qtr := f.qtr ||| 2 ^ (sub % 4) } else { f with dpq := f.dpq ||| 2 ^ (sub % 4) }
  | .matrix => { f with arr := f.arr ||| 2 ^ sub }
  | .sluice =>
    let m := f.nsl ||| 2 ^ sub
    if m = 15 then { f with nsl := m, whole := true } else { f with nsl := m }
  | _ => { f with whole := true }

/-- A unit is fenced (R387, R388). -/
def State.fenceUnit (s : State) (r : ErrReport) : State :=
  match r.unit with
  | .salWay => s.modBed r.inst fun b => { b with fenced := b.fenced ||| 2 ^ r.sub }
  | .frontPort => ({ s with fenFront := s.fenFront ||| 2 ^ r.inst } : State).notify 8 (.portFenced false r.inst)
  | .sidePort => ({ s with fenSide := s.fenSide ||| 2 ^ r.inst } : State).notify 8 (.portFenced true r.inst)
  | .channel => s
  | u => (s.modPan r.inst fun n => { n with fen := n.fen.add u r.sub }).sealHurt r.inst

/-- FEN_PAN with the failing units of a pan's test (R384, R388). -/
def Fence.merge (f : Fence) (x : Nat) : Fence :=
  let m := f.nsl ||| (2 ^ bitsOf x 2 2 - 1)
  { seg := f.seg ||| bitsOf x 16 16, qtr := f.qtr ||| bitsOf x 12 4, dpq := f.dpq ||| bitsOf x 8 4, arr := f.arr ||| bitsOf x 4 4,
    nsl := m, whole := f.whole || bitOf x 1 }

/-- A slice that had not completed when its pan lost power starts again from its pre-pass (R146). -/
def SliceRun.again (r : SliceRun) (scratch : Memory) : SliceRun :=
  match r.st with
  | .ended _ _ _ => r
  | _ => r.slice.start scratch

/-- A pan whose power has returned goes on: its groups stand where they stood, take their receipts and register their waits again, and its
slices start again from their pre-passes (R146, R381, R383, R384). -/
def State.resumePan (s : State) (pan : Nat) : State :=
  let n := s.pan pan
  let keys := n.core.teams.map fun t => gkeyOf t.2 0
  let mine (k : GKey) : Bool := keys.contains k.team_
  let now := s.clock.nowNs
  let again (g : Group) : Group := g.restored g.team s.clock.cycles g.bank
  let s1 := s.modPan pan fun n =>
    { n with off := false, core := { n.core with groups := tmap n.core.groups fun _ g => again g
                                                 sluices := tmap n.core.sluices fun _ r => r.again n.core.scratch }
             pre := tmap n.pre fun _ x => { x with drain := x.drain.map fun _ => now, sealing := x.sealing.map fun c => (now, c.2), work := now } }
  (keys.foldl (fun (st : State) k => st.settleChain k) ((s1.dropWatches mine).applyReceipts pan mine)).synced pan

/-- What a test of a unit leaves: an SRAM segment is reloaded from the image (R387). -/
def State.endTest (s : State) (r : ErrReport) : State :=
  match r.unit with
  | .sram => s.modPan r.inst fun n => { n with spoilt := n.spoilt.filter fun a => a / 32768 != r.sub }
  | _ => s

/-- SELF_TEST_COMPLETE: a test has ended. A unit's record is posted with its RESULT, and a unit that failed is fenced; a pan whose
power has returned goes on, its failing units fenced (R384, R387, R388). -/
def execSelfTestComplete (idx : Nat) (pass : Bool) (s : State) : Host.Outcome State Fault Refusal :=
  match s.tests[idx]? with
  | none => .next s
  | some t =>
    let s1 := { s with tests := listDrop s.tests idx }
    match t with
    | .unit r =>
      let s2 := s1.endTest r
      if pass then .next (({ s2 with passed := tput s2.passed (errUnit r) s2.clock.nowNs } : State).logError (errPosted r 1))
      else .next ((s2.fenceUnit r).logError (errPosted r 2))
    | .pan p =>
      if pass then .next (s1.resumePan p)
      else
        let s2 := { s1 with freeCtr := s1.freeCtr + 1 }
        .next (((s2.modPan p fun n => { n with fen := n.fen.merge (Config.failingUnits s.freeCtr).toNat }).resumePan p).sealHurt p)

/-- ERROR_LOG_POST: the oldest waiting record is written, where the log has room (R386). -/
def execErrorLogPost (s : State) : Host.Outcome State Fault Refusal :=
  let (s1, r) := s.postRing 8 s.err
  .next (s.orWait { s1 with err := r })

end Sys2Proof.Machine
end

