-- ==== Sys2Proof/Machine/Shoot.lean ====
section
/-! DEFINITION. Walk completion, shootdowns and address-space slot registers (R47, R53, R57 to R61). -/

namespace Sys2Proof.Machine

/-! ## Walks, R53, R58 -/

/-- Groups that a walk's fault awaits: the waiters of a miss that belong to its address space. -/
def PanCore.tellWalk (c : PanCore) (m : Miss) (f : WalkFault) : PanCore :=
  { c with groups := tmap c.groups fun k g =>
      if m.waiters.contains k && c.inSlot g (m.asid / 16) (m.asid % 16) then { g with walks := g.walks ++ [f] } else g }

/-- WALK_COMPLETE: one of the eight oldest misses has its walker's answer. A leaf enters the L2 TLB and satisfies every miss
that it covers; a fault reaches the groups that wait, which meet it when their instruction's checks run again (R53, R58,
R60), and the pan's engines. It reads its tables at their home beds, each read a request of the pan (R53, R105). A walk that an
invalidation has overtaken inserts nothing and starts again (R61). -/
def execWalkComplete (pan idx : Nat) (s : State) : Host.Outcome State Fault Refusal :=
  match (if idx < 8 then (s.pan pan).misses[idx]? else none) with
  | none => .next s
  | some m =>
    let part := m.asid / 16
    let slot := m.asid % 16
    let va := m.vpn * 4096
    if m.stale then .next (s.modPan pan fun n => { n with misses := listMod n.misses idx fun x => { x with stale := false } })
    else
      let gone (st : State) : State := st.modPan pan fun n => { n with misses := listDrop n.misses idx, full := [] }
      if (s.asSlot part slot).torn || !(s.asSlot part slot).en then .next (gone s)
      else
        let lines := s.linesOfWalk (some pan) part slot va
        let s1 := (lines.foldl (fun (st : State) _ => st.lineRequest pan) s).walkReads part lines
        .next (s.orWait (match s.walkAt pan part slot va with
          | .leaf e _ =>
            s1.modPan pan fun n =>
              { n.fillL2 s part slot va e with
                walked := n.walked.filter fun w => !(w.1 == m.asid && (tlbOf m.asid va e).covers w.1 (w.2.vpn * 4096))
                misses := n.misses.filter fun x => !(x.asid == m.asid && (tlbOf m.asid va e).covers x.asid (x.vpn * 4096))
                full := [] }
          | .fault k l e =>
            let f : WalkFault := { vpn := m.vpn, kind := k, level := l, entry := e }
            (gone s1).modPan pan fun n =>
              { n with core := n.core.tellWalk m f, walked := if m.waiters.contains 256 then n.walked ++ [(m.asid, f)] else n.walked }
          | .dataError pa => (gone s1).walkData part slot pa va))

/-! ## Shootdowns, R61 -/

/-- Pans that a mask names. -/
def pansOf (mask : Nat) : List Nat := (List.range 192).filter fun p => bitOf mask p

/-- The range of a command overlaps a span. -/
def XinvCmd.hits (x : XinvCmd) (part a lo len : Nat) : Bool :=
  match x.kind with
  | 0 => a == asid part x.slot && decide (lo < x.va + x.len) && decide (x.va < lo + len)
  | 1 => a == asid part x.slot
  | _ => a / 16 == part

/-- A command accepted: it goes to every pan of the partition. A 65th waits (R61). -/
def State.issueXinv (s : State) (part : Nat) (x : XinvCmd) : State :=
  let p := s.part part
  if 64 ≤ p.xinvCmds.length then s
  else s.modPart part fun p =>
    { p with xinvIssued := (p.xinvIssued + 1) % 2 ^ 16, xinvCmds := p.xinvCmds ++ [{ x with todo := pansOf p.pans }] }

/-- XINV_RANGE: XINV_CMD with KIND 00; PAGES 0 is ignored (R61). -/
def execXinvRange (part slot pages : Nat) (s : State) : Host.Outcome State Fault Refusal :=
  if pages % 2 ^ 24 = 0 then .next s
  else .next (s.issueXinv part
    { kind := 0, slot := slot % 16, va := (s.part part).xinvVa, len := pages % 2 ^ 24 * 4096 })

/-- XINV_SLOT: XINV_CMD with KIND 01 (R61). -/
def execXinvSlot (part slot : Nat) (s : State) : Host.Outcome State Fault Refusal :=
  .next (s.issueXinv part { kind := 1, slot := slot % 16 })

/-- XINV_PARTITION: XINV_CMD with KIND 10 (R61). -/
def execXinvPartition (part : Nat) (s : State) : Host.Outcome State Fault Refusal := .next (s.issueXinv part { kind := 2 })

/-- A decoded run has words in the range of a command. -/
def XinvCmd.hitsRun (x : XinvCmd) (part : Nat) (d : DecodedRun) : Bool := x.hits part d.asid d.addr (4 * d.words.length)

/-- A pan when a command reaches it: its L2 TLB, walk cache, L1 TLBs and decoded runs lose what the command covers, and the
walks under way for it are stale (R61). -/
def Pan.shoot (n : Pan) (part : Nat) (x : XinvCmd) : Pan :=
  let keep (l : List TlbEntry) : List TlbEntry := l.filter fun e => !x.hits part e.asid e.va e.len
  { n with
    l2tlb := keep n.l2tlb
    walkCache := keep n.walkCache
    walked := n.walked.filter fun w => !x.hits part w.1 (w.2.vpn * 4096) 4096
    l1tlb := tmap n.l1tlb fun _ l => keep l
    decoded := tmap n.decoded fun _ l => l.filter fun d => !x.hitsRun part d
    misses := n.misses.zipIdx.map fun e =>
      if e.2 < 8 && x.hits part e.1.asid (e.1.vpn * 4096) 4096 then { e.1 with stale := true } else e.1 }

/-- The first command of a partition that a pan has yet to receive, marked as received. -/
def receive (cs : List XinvCmd) (pan now : Nat) : Option (XinvCmd × List XinvCmd) :=
  match cs with
  | [] => none
  | x :: r =>
    if x.todo.contains pan then
      some (x, { x with todo := x.todo.filter (· != pan), reached := x.reached ++ [(pan, now)] } :: r)
    else (receive r pan now).map fun y => (y.1, x :: y.2)

/-- INVALIDATION_ARRIVAL: the next command of a partition reaches a pan (R61). -/
def execInvalidationArrival (pan part : Nat) (s : State) : Host.Outcome State Fault Refusal :=
  match receive (s.part part).xinvCmds pan s.nextId with
  | none => .next s
  | some (x, cs) => .next ((s.modPart part fun p => { p with xinvCmds := cs }).modPan pan fun n => n.shoot part x)

/-- A slice that has been translated, and may still write through its leaves: its copy, its peers' answers or its completion is to come
(R61, R145). -/
def SliceSt.translated : SliceSt → Bool
  | .ready | .remote _ _ | .ended _ _ _ => true
  | .fresh | .page | .block _ => false

/-- Nothing of before a command's arrival is left at a pan: no walk that it overtook, no access that had passed its checks,
no slice that had been translated (R61). -/
def State.settledAt (s : State) (part : Nat) (x : XinvCmd) (pan since : Nat) : Bool :=
  let n := s.pan pan
  !(n.misses.any fun m => m.stale && x.hits part m.asid (m.vpn * 4096) 4096) &&
  !(s.fabric.any fun q => q.pan == pan && q.gk.part == part && decide (q.issue < since)) &&
  !(s.resps.any fun r => r.pan == pan && r.gk.part == part && decide (r.issue < since)) &&
  !(s.beds.any fun b => b.2.held.any fun e => e.pan == pan && e.part == part && decide (e.issue < since)) &&
  !(n.core.sluices.any fun r => r.2.slice.part == part && r.2.st.translated && decide (r.2.since < since))

/-- XINV_DONE: DONE advances past the oldest command of a partition (R61). -/
def execXinvDone (part : Nat) (s : State) : Host.Outcome State Fault Refusal :=
  match (s.part part).xinvCmds with
  | [] => .next s
  | x :: r =>
    if x.todo.isEmpty && x.reached.all fun e => s.settledAt part x e.1 e.2 then
      .next (s.modPart part fun p => { p with xinvDone := (p.xinvDone + 1) % 2 ^ 16, xinvCmds := r })
    else .next s

/-! ## Slot registers, R47 -/

/-- Every TLB entry of an address space dropped, in every pan, and the walk faults that its engines have yet to meet. -/
def State.dropSpace (s : State) (a : Nat) : State :=
  let keep (l : List TlbEntry) : List TlbEntry := l.filter fun e => e.asid != a
  { s with pans := tmap s.pans fun _ n =>
      { n with l1tlb := tmap n.l1tlb fun _ l => keep l, l2tlb := keep n.l2tlb, walkCache := keep n.walkCache
               walked := n.walked.filter fun w => w.1 != a } }

/-- ADDRESS_SPACE_SLOT_WRITE (R47): a write that changes ROOT while EN is 1 is ignored; EN 0 clears TORN and drops the slot's
TLB entries. -/
def execAddressSpaceSlotWrite (part slot : Nat) (value : DWord) (s : State) : Host.Outcome State Fault Refusal :=
  let v := value.toNat
  let root := bitsOf v 12 40 * 4096
  let old := s.asSlot part slot
  if old.en ∧ root ≠ old.root then .next s
  else
    let new : AsSlot := { en := bitOf v 63, torn := bitOf v 63 && old.torn, root := root }
    let s1 := s.modPart part fun p => { p with slots := tput p.slots slot new }
    .next (if new.en then s1 else s1.dropSpace (asid part slot))

end Sys2Proof.Machine
end

