-- ==== Sys2Proof/Machine/Side.lean ====
section
/-! DEFINITION. Side ports: dictionaries, links, frames, and the requests of peers (R56, R83, R89, R395, R396). -/

namespace Sys2Proof.Machine

/-! ## Dictionaries and links, R83 and R395 -/

/-- DICTIONARY_LOAD: this end's dictionary of a port is loaded, and its identifier goes to the peer (R83). -/
def execDictionaryLoad (port : Nat) (bytes : List Byte) (ident : BitVec 16) (s : State) : Host.Outcome State Fault Refusal :=
  let s1 := s.modLink port fun l => { l with dict := mwrite [] 0 (bytes.take 4096), dictOn := true, dictId := ident.toNat }
  .next (if (s.link port).up then s1.sideSend port false (.dict ident) else s1)

/-- LINK_UP: a side port's link comes up, and the ends exchange their identifiers and their dictionaries' (R83, R395). The port of a
fenced unit, or of one under test, stays down (R387). -/
def execLinkUp (port : Nat) (peer : DWord) (dict : BitVec 16) (s : State) : Host.Outcome State Fault Refusal :=
  if (s.link port).up || bitOf s.fenSide port || s.testing .sidePort port (fun _ => true) then .next s
  else .next (s.modLink port fun l => { l.drop with up := true, peer := peer, peerDict := dict.toNat })

/-- PORT_LINK_LOSS: a link that was up goes down (R395). -/
def execPortLinkLoss (port : Nat) (s : State) : Host.Outcome State Fault Refusal :=
  .next (if (s.link port).up then s.loseLink port else s)

/-! ## Frames, R395 -/

/-- The peer asks for a frame again: it is resent, and after 8 sendings, or once the replay buffer has lost it, the link goes
down. -/
def State.resend (s : State) (port lseq : Nat) : State :=
  let l := s.link port
  match l.replay.find? fun e => e.1 == lseq with
  | none => s.loseLink port
  | some (_, b, n, d) =>
    if 8 ≤ n then s.loseLink port
    else (s.modLink port fun l => { l with replay := l.replay.map fun e => if e.1 = lseq then (e.1, e.2.1, n + 1, d) else e }).emit
      (.side port lseq (l.coded d b) b)

/-- A frame's body with its data expanded; none where they do not decode (R83). -/
def SideLink.decode (l : SideLink) (f : SideFrame) : Option SideBody :=
  if !f.coded then some f.body
  else match (if l.sameDict then expandPayload l.dictBytes l.dictId f.payload else none) with
    | none => none
    | some d => some (match f.body with
      | .request id r => match r.op with
        | .write _ => .request id { r with op := .write d }
        | _ => .request id r
      | .answer id _ err => .answer id d err
      | b => b)

/-- The sluice that waits for an answer: its pan and number, the slice, and the part. -/
def State.asker (s : State) (id : Nat) : Option (Nat × Nat × SliceRun × RemoteMove) :=
  s.pans.findSome? fun e => e.2.core.sluices.findSome? fun x =>
    (x.2.waiting.find? fun m => m.id == id).map fun m => (e.1, x.1, x.2, m)

/-- The state of a slice once a part has been answered, `more` being what is asked in its stead. -/
def SliceRun.answered (r : SliceRun) (id n : Nat) (more : List RemoteMove) : SliceRun :=
  match r.st with
  | .remote ms bytes => { r with st := .remote (ms.filter (fun m => m.id != id) ++ more) (bytes + n) }
  | _ => { r with asked := r.asked.filter (fun m => m.id != id) ++ more, done := r.done + n }

/-- An answer reaches the slice that asked: what it read is put where it belongs, or is sent on to another peer; an error ends the
slice with status DATA (R396). -/
def State.remoteAnswer (s : State) (id : Nat) (data : List Byte) (err : Bool) : State :=
  match s.asker id with
  | none => s
  | some (p, k, r, m) =>
    let put (st : State) (x : SliceRun) : State := (st.modCore p fun c => { c with sluices := tput c.sluices k x }).synced p
    let ended (va : Nat) : SliceRun := { r with st := .ended 5 va r.written }
    if err then put s (ended m.va)
    else if !m.read then put s (r.answered id m.m.len [])
    else match m.m.writesWindow r.leaves with
      | none => put (s.movePut p r m.m (data.take m.m.len)) (r.answered id m.m.len [])
      | some pa => match s.askPeer pa m.m (some (data.take m.m.len)) false with
        | some (s1, ms) => put s1 (r.answered id 0 ms)
        | none => put s (ended m.m.dst)

/-- The pan that an answer is for takes it now: its events are durable (log 9). -/
def State.takesAnswer (s : State) : SideBody → Bool
  | .answer id _ _ => match s.asker id with
    | some (p, _, _, _) => (s.pan p).caughtUp
    | none => true
  | _ => true

/-- What a frame carries takes effect. -/
def State.takeFrame (s : State) (port : Nat) : SideBody → State
  | .request id r => s.modLink port fun l => { l with reqs := l.reqs ++ [(id, r)] }
  | .answer id data err => s.remoteAnswer id data err
  | .dict ident => s.modLink port fun l => { l with peerDict := ident.toNat }
  | .again lseq => s.resend port lseq

/-- SIDE_FRAME_RECEIVE: a frame that is damaged, that does not decode or that comes out of turn is asked for again; one that has been
taken is dropped; else it takes effect (R83, R395). -/
def execSideFrameReceive (port : Nat) (f : SideFrame) (s : State) : Host.Outcome State Fault Refusal :=
  let l := s.link port
  if !l.up then .next s
  else if !f.crcOk then .next (s.emit (.sideAgain port l.rx))
  else match f.body with
    | .again lseq => .next (s.resend port lseq)
    | _ =>
      if f.lseq < l.rx then .next s
      else if l.rx < f.lseq then .next (s.emit (.sideAgain port l.rx))
      else match l.decode f with
        | none => .next (s.emit (.sideAgain port l.rx))
        | some b =>
          .next (if s.takesAnswer b then s.orWait ((s.modLink port fun x => { x with rx := x.rx + 1 }).takeFrame port b) else s)

/-! ## Requests of peers, R56, R89, R395 -/

/-- What a request needs of its page (R54). -/
def remoteNeed : RemoteOp → Need
  | .read _ => .r
  | _ => .w

/-- The leaf of a peer's address in a slot of a partition; none where it is refused (R54, R56). A page in an endpoint window has no home
bed to serve it: R56 does not say what becomes of such a request, and it is refused (DESIGN CHOICE: log 97). -/
def State.remoteLeaf (s : State) (part slot va : Nat) (need : Need) : Option Nat :=
  if !addressOk s part slot va then none
  else match walk s part slot va with
    | .leaf e _ => if need.granted e && !pteDl e && !isEndpoint (leafPa e va) then some e else none
    | _ => none

/-- A peer's bytes written, page by page; none where a page is refused. -/
def State.remoteWrite (s : State) (part slot va : Nat) (bs : List Byte) (fuel : Nat) : State × Bool :=
  match fuel with
  | 0 => (s, true)
  | fuel + 1 =>
    if bs.isEmpty then (s, true)
    else match s.remoteLeaf part slot va .w with
      | none => (s, false)
      | some e =>
        let n := 128 - va % 128
        ((s.walkReads part (s.linesOfWalk none part slot va)).unitWrite part (pteCodec e) (leafPa e va) (cxOf e) (pteRet e) (bs.take n)).remoteWrite part slot (va + n) (bs.drop n) fuel

/-- Bytes that a peer reads, line by line, and whether they lie in a CODEC 3 page; none where a page is refused, a
line is uncorrectable, or a coded block does not verify (R73, R74). -/
def State.remoteRead (s : State) (part slot va n fuel : Nat) : State × Option (List Byte × Bool) :=
  match fuel with
  | 0 => (s, some ([], false))
  | fuel + 1 =>
    if n = 0 then (s, some ([], false))
    else match s.remoteLeaf part slot va .r with
      | none => (s, none)
      | some e =>
        let k := Nat.min n (128 - va % 128)
        match (s.walkReads part (s.linesOfWalk none part slot va)).unitRead part (pteCodec e) (leafPa e va) (cxOf e) (pteRet e) k with
        | (s1, .bad) => (s1, none)
        | (s1, .block _) => (s1, none)
        | (s1, .bytes bs) => match s1.remoteRead part slot (va + k) (n - k) fuel with
          | (s2, none) => (s2, none)
          | (s2, some (rest, c)) => (s2, some (bs ++ rest, c || pteCodec e == 3))

/-- A peer's exact add; none where it is refused. -/
def State.remoteAdd (s : State) (part slot va : Nat) (bf16_ : Bool) (x : Word) : State × Bool :=
  match s.remoteLeaf part slot va .w with
  | none => (s, false)
  | some e =>
    let line := lineOf (leafPa e va)
    let s0 := (s.walkReads part (s.linesOfWalk none part slot va)).closeConflict line
    if s0.badLine line then (s0, false)
    else
      let v := if bf16_ then decodeF bf16 (x.toNat % 2 ^ 16) else decodeF f32 x.toNat
      let s1 := s0.unitTouch 0 part (pteCodec e) line (cxOf e) (pteRet e) true true
      let s2 := (s1.takeTag (homeBed line) part).1
      match exactAdd (ofBytes (s2.viewRead (cxOf e) line 128)) v with
      | some cell => (s2.bedStore part (pteCodec e) line (cxOf e) (bytesOf cell 128), true)
      | none => (s2.setDstat part 4, true)

/-- The peer of a port is admitted by the partition that owns it (R395, R398). -/
def State.admits (s : State) (part port : Nat) : Bool :=
  let id := (s.link port).peer.toNat
  id != 0 && ((s.part part).peers.any fun e => e.2 == id)

/-- An acquire or a release of a peer, at its scope, by the rules of scope notes; a conflicting window drains before it (R94, R100). -/
def State.remoteNote (s : State) (part slot va : Nat) (r : RemoteReq) : State × Bool :=
  match s.remoteLeaf part slot va (remoteNeed r.op) with
  | none => (s, false)
  | some e =>
    let line := lineOf (leafPa e va)
    let s0 := if remoteNeed r.op = .w then s.closeConflict line else s
    let ok := !r.acq || match s0.noteOf part line (cxOf e) with
      | some n => noteOk n r.scope.toNat 192 0 0
      | none => true
    (if r.rel && ok then s0.setNote part line (cxOf e) (some { scope := r.scope.toNat, pan := 192, team := 0, slot := 0 }) else s0, ok)

/-- What a request does, and its answer: data, whether they may be coded, or a remote-access error, which one at a scope narrower than
.sys gets (R100). -/
def State.remoteServe (s : State) (part : Nat) (r : RemoteReq) : State × Option (List Byte × Bool) :=
  let va := r.va.toNat
  if r.scope ≠ 3 then (s, none) else match s.remoteNote part r.slot va r with
  | (s1, false) => (s1, none)
  | (s1, true) => match r.op with
    | .read n => s1.remoteRead part r.slot va n (n / 128 + 2)
    | .write bs => match s1.remoteWrite part r.slot va bs (bs.length / 128 + 2) with
      | (s2, true) => (s2, some ([], false))
      | (s2, false) => (s2, none)
    | .eadd b x => match s1.remoteAdd part r.slot va b x with
      | (s2, true) => (s2, some ([], false))
      | (s2, false) => (s2, none)

/-- REMOTE_REQUEST: a request of a side port's peer is served at its home beds and answered; it is answered with a remote-access
error where the peer is not admitted or its access is refused (R56, R395). -/
def execRemoteRequest (port idx : Nat) (s : State) : Host.Outcome State Fault Refusal :=
  let l := s.link port
  match l.reqs[idx]? with
  | none => .next s
  | some (id, r) =>
    let s1 := s.modLink port fun x => { x with reqs := listDrop x.reqs idx }
    let out : State × Option (List Byte × Bool) := match tget s.sideOwn port with
      | some part => if s.admits part port then s1.remoteServe part r else (s1, none)
      | none => (s1, none)
    .next (s.orWait (match out with
      | (s2, some (bs, c)) => s2.sideSend port c (.answer id bs false)
      | (s2, none) => s2.sideSend port false (.answer id [] true)))

end Sys2Proof.Machine
end

