-- ==== Sys2Proof/Machine/Partitions.lean ====
section
/-! DEFINITION. Partitions: their creation, sealing and end, what they own, its withdrawal, and quotes (R398 to R400, R419). -/

namespace Sys2Proof.Machine

/-! ## Creation and sealing, R398 and R399 -/

/-- PARTITION_ENABLE: EN is written 1: the partition exists, with the key that its nonce gives. The write waits while BUSY is 1 (R398,
R399). -/
def execPartitionEnable (part : Nat) (s : State) : Host.Outcome State Fault Refusal :=
  let p := s.part part
  if p.busy || p.en || decide (8 ≤ part) then .next s
  else .next (s.modPart part fun p => { p with en := true, sealed_ := false, key := some (Config.partKey (mread p.nonce 0 32)) })

/-- PARTITION_SEAL: SEAL is written 1 while the partition exists (R398). -/
def execPartitionSeal (part : Nat) (s : State) : Host.Outcome State Fault Refusal :=
  .next (if (s.part part).en then s.modPart part fun p => { p with sealed_ := true } else s)

/-! ## The end of a partition, R398 -/

/-- A physical address lies in an extent of a partition. -/
def State.inExtents (s : State) (part pa : Nat) : Bool :=
  (isAsset pa || isBrine pa) && tget s.pmOwn (extentOf pa) == some part

/-- The contexts of a partition that wait in brine, or stand recovered, are discarded. -/
def State.discardContexts (s : State) (part : Nat) : State :=
  { s with contexts := s.contexts.filter fun x => x.tm.part != part, rcv := s.rcv.filter fun e => e.2.tm.part != part
           joined := s.joined.filter fun j => j.gk.part != part }

/-- PARTITION_DISABLE: EN is written 0: every slot is torn down, the contexts are discarded and the key is erased; BUSY stays 1 until
the rest is done. A sealed partition ignores it (R398, log 41). -/
def execPartitionDisable (part : Nat) (s : State) : Host.Outcome State Fault Refusal :=
  let p := s.part part
  if !p.en || p.sealed_ then .next s
  else
    let s1 := (List.range 16).foldl (fun (st : State) k => st.teardown part k) s
    let s2 := s1.discardContexts part
    let mine := (s2.streams.filter fun e => e.2.part == part).map (·.1)
    let s3 := mine.foldl (fun (st : State) i => match execStreamDisable i st with
      | .next t => t
      | _ => st) s2
    let s4 := { s3 with queues := tmap s3.queues fun _ q => if q.part = part then { q.giveUp with en := false, haltd := false } else q }
    .next (s4.modPart part fun p => { p with en := false, sealed_ := false, key := none, busy := true, leaving := 0, taking := [] })

/-- Nothing of a partition runs or is under way. -/
def State.partIdle (s : State) (part : Nat) : Bool :=
  (s.pans.all fun e => (e.2.core.teams.all fun t => t.2.part != part) && (e.2.undo.all fun c => c.teams.all fun t => t.2.part != part) &&
    (e.2.core.sluices.all fun r => r.2.slice.part != part) && (e.2.core.sready.all fun x => x.part != part) &&
    (e.2.core.squeue.all fun c => c.all fun x => x.part != part) && (e.2.core.asm.all fun a => a.slices.all fun x => x.part != part) && (e.2.core.gfx.all fun c => c.part != part) &&
    (e.2.core.rqueue.all fun c => c.part != part) && (e.2.core.arrays.all fun a => a.2.all fun c => c.part != part)) &&
  (s.fabric.all fun q => q.gk.part != part) && (s.beds.all fun b => b.2.held.all fun e => e.part != part) &&
  s.blockFills.all fun b => b.part != part

/-- Lines of a partition, in an extent where one is named, leave a bed; `dirty` is done with each that is dirty. -/
def State.evictLines (s : State) (out : Way → Bool) (dirty : State → Way → State) : State :=
  let ws := s.beds.flatMap fun b => b.2.sets.flatMap fun e => (e.2.map (·.2)).filter out
  let s1 := ws.foldl (fun (st : State) w => if w.st = .dirty then dirty st w else st) s
  { s1 with beds := tmap s1.beds fun _ b => { b with sets := tmap b.sets fun _ t => t.filter fun e => !out e.2 } }

/-- A pan when a partition ends: rake work of the partition is gone, and the shadow area of a pan that it owned is zeroed (R398). -/
def Pan.freed (n : Pan) (part : Nat) (own : Bool) : Pan :=
  let cut (r : Rake) : Rake :=
    { r with binds := r.binds.filter fun b => b.2.part != part, cache := r.cache.filter fun c => c.1 / 16 != part }
  let m := { n with rake := cut n.rake }
  if own then { m with asleep := {}, jring := [], core := { n.core with evq := {}, held := [] } }
  else { m with asleep := (List.range 16).foldl (fun r k => r.ofSpace part k false) n.asleep }

/-- Everything that a partition owned is free, its brine-window extents are zeroed, and nothing of it is left in the shadow (R398). -/
def State.freePart (s : State) (part : Nat) : State :=
  let gone (pa : Nat) : Bool := s.inExtents part pa
  let s1 := s.evictLines (fun w => w.part == part) fun st _ => st
  let pans := tmap s1.pans fun k n => n.freed part (bitOf (s.part part).pans k)
  { s1 with
    mem := s1.mem.filter fun e => !(gone e.1 && isBrine e.1)
    durable := s1.durable.filter fun e => !gone e.1
    xmem := s1.xmem.filter fun e => !gone e.1
    brineWrites := s1.brineWrites.filter fun w => !gone w.line
    beds := tmap s1.beds fun _ b => { b with merge := b.merge.filter fun e => e.part != part, watch := b.watch.filter fun w => w.gk.part != part }
    overflow := s1.overflow.filter fun o => o.part != part
    blockOuts := s1.blockOuts.filter fun o => o.part != part
    receipts := s1.receipts.filter fun r => r.gk.part != part
    eventReceipts := s1.eventReceipts.filter fun e => e.1.part != part
    resps := s1.resps.filter fun r => r.gk.part != part
    launches := s1.launches.filter fun r => r.gk.part != part
    posts := s1.posts.filter fun r => r.gk.part != part
    recs := s1.recs.filter fun r => r.gk.part != part
    pool := s1.pool.filter fun e => e.part != part
    queries := s1.queries.filter fun q => q.asid / 16 != part
    finishes := s1.finishes.filter fun q => q.asid / 16 != part
    grids := s1.grids.filter fun e => e.1 / 2 ^ 32 != part
    queues := s1.queues.filter fun e => e.2.part != part
    flows := s1.flows.filter fun e => e.2.part != part
    apertures := s1.apertures.filter fun e => tget s1.sideOwn (e.1 / 64) != some part
    pmOwn := s1.pmOwn.filter fun e => e.2 != part
    sideOwn := s1.sideOwn.filter fun e => e.2 != part
    parts := tdel s1.parts part
    pans := pans }

/-! ## Withdrawal, R419 -/

/-- Pans that are leaving a partition leave it once no context of it stands on them. -/
def State.panLeaves (s : State) (part : Nat) : State :=
  let free (p : Nat) : Bool := bitOf (s.part part).leaving p && (s.pan p).core.teams.all fun t => t.2.part != part
  let out := (pansOf (s.part part).leaving).filter free
  s.modPart part fun p => out.foldl (fun (p : Part) k => { p with pans := p.pans ^^^ 2 ^ k, leaving := p.leaving ^^^ 2 ^ k }) p

/-- A line of an extent is still to leave the Saltern: a fill, a pinned line, or bytes in a merge buffer. -/
def State.extentHeld (s : State) (part x : Nat) : Bool :=
  s.beds.any fun b =>
    (b.2.sets.any fun e => e.2.any fun w =>
      w.2.part == part && (isAsset w.2.line || isBrine w.2.line) && extentOf w.2.line == x && (w.2.st == .filling || w.2.st == .pinned)) ||
    b.2.merge.any fun e => e.part == part && (isAsset e.line || isBrine e.line) && extentOf e.line == x

/-- The extents that are being taken go to their next owner once the shootdown is done and their lines, coded blocks among them, are
written back (R419). -/
def State.extentsLeave (s : State) (part : Nat) : State :=
  let p := s.part part
  if !p.xinvCmds.isEmpty || p.taking.any fun e => s.extentHeld part e.1 then s
  else
    let out (w : Way) : Bool := w.part == part && (isAsset w.line || isBrine w.line) && p.taking.any fun e => e.1 == extentOf w.line
    let s1 := s.evictLines out fun st w => st.writeBack w
    let there (o : BlockOut) : Bool := o.part == part && p.taking.any fun e => e.1 == extentOf o.pa
    if s1.blockOuts.any fun o => there o && s1.backing o.pa then s1 else
    let s2 := { s1 with blockOuts := s1.blockOuts.filter (fun o => !there o), pmOwn := p.taking.foldl (fun (t : Tbl Nat) (e : Nat × Option Nat) => match e.2 with
      | some q => tput t e.1 q
      | none => tdel t e.1) s1.pmOwn }
    s2.modPart part fun p => { p with taking := [] }

/-- PARTITION_BUSY_CLEAR: the end of a partition, or a withdrawal from it, goes on as far as it can; BUSY returns to 0 with the last
of it (R398, R419). -/
def execPartitionBusyClear (part : Nat) (s : State) : Host.Outcome State Fault Refusal :=
  let p := s.part part
  if !p.busy then .next s
  else if !p.en then .next (if s.partIdle part then s.freePart part else s)
  else
    let s1 := (s.panLeaves part).extentsLeave part
    .next (s1.modPart part fun p => { p with busy := p.leaving != 0 || !p.taking.isEmpty })

/-- The bits of a 64-pan mask word that a partition may not take: pans of other enabled partitions (R398). -/
def State.foreignPans (s : State) (part k : Nat) : Nat :=
  (s.parts.filter fun e => e.1 != part && e.2.en).foldl (fun m e => m ||| bitsOf e.2.pans (64 * k) 64) 0

/-- PM_PANS_WRITE: pans are given to a partition, or begin to be withdrawn from it, their contexts sealed by tier 2. The write waits
while BUSY is 1, and a sealed partition ignores it (R398, R419). -/
def execPmPansWrite (part k : Nat) (value : DWord) (s : State) : Host.Outcome State Fault Refusal :=
  let p := s.part part
  if p.busy || p.sealed_ || decide (3 ≤ k) || decide (8 ≤ part) then .next s
  else
    let old := bitsOf p.pans (64 * k) 64
    let new := value.toNat &&& notw (s.foreignPans part k) 64
    let gone := (old &&& notw new 64) * 2 ^ (64 * k)
    let used := (pansOf gone).filter fun c => (s.pan c).core.teams.any fun t => t.2.part == part
    let stay := used.foldl (fun m c => m ||| 2 ^ c) 0
    let s1 := s.modPart part fun p =>
      { p with pans := (p.pans ^^^ gone) ||| (new * 2 ^ (64 * k)) ||| stay, leaving := stay, busy := stay != 0 }
    let teams := used.flatMap fun c => ((s.pan c).core.teams.filter fun t => t.2.part == part).map fun t => (c, t.1)
    .next (teams.foldl (fun (st : State) e => st.requestSeal e.1 e.2 .fenced) s1)

/-- PM_OWN_WRITE: an extent gets an owner, or none. One that a partition owns is withdrawn from it first, by a whole-partition
shootdown and the write-back of its lines. The write waits while BUSY is 1, and sealed partitions ignore it (R398, R419). -/
def execPmOwnWrite (extent : Nat) (value : BitVec 4) (s : State) : Host.Outcome State Fault Refusal :=
  let new : Option Nat := if value.getLsbD 3 then some (value.toNat % 8) else none
  let shut (q : Option Nat) : Bool := match q with
    | some x => (s.part x).busy || (s.part x).sealed_
    | none => false
  if 132 ≤ extent ∨ shut new ∨ shut (tget s.pmOwn extent) then .next s
  else match tget s.pmOwn extent with
    | none => .next (match new with
      | some q => { s with pmOwn := tput s.pmOwn extent q }
      | none => s)
    | some old =>
      if new = some old ∨ 64 ≤ (s.part old).xinvCmds.length then .next s
      else .next ((s.issueXinv old { kind := 2 }).modPart old fun p => { p with busy := true, taking := [(extent, new)] })

/-! ## Attestation, R400 -/

/-- PM_PART of a partition (R398). -/
def State.pmPart (s : State) (part : Nat) : Nat :=
  let p := s.part part
  let side := (s.sideOwn.filter fun e => e.2 == part).foldl (fun m e => m ||| 2 ^ e.1) 0
  p.en.toNat * 2 ^ 63 + (p.en && p.sealed_).toNat * 2 ^ 62 + p.busy.toNat * 2 ^ 61 + side * 2 ^ 32 + p.poolShare * 2 ^ 24

/-- PM_OWN of an extent (R398). -/
def State.pmOwnWord (s : State) (x : Nat) : Nat := match tget s.pmOwn x with
  | some p => 8 + p
  | none => 0

/-- The ownership registers of a partition, in register order, as bytes (R400, log 13). -/
def State.ownership (s : State) (part : Nat) : List Byte :=
  bytesOf (s.pmPart part) 8 ++ bytesOf (s.part part).pans 24 ++ ((List.range 132).flatMap fun x => bytesOf (s.pmOwnWord x) 4) ++
  (List.range 16).flatMap fun k => bytesOf (tgetD (s.part part).peers k 0) 8

/-- ATTESTATION_QUOTE: a challenge of 32 bytes is answered by a signed quote (R400). -/
def execAttestationQuote (part : Nat) (challenge : List Byte) (s : State) : Host.Outcome State Fault Refusal :=
  let fw := match s.boot.image with
    | some x => x.digest
    | none => 0
  let nonce := mread (s.part part).nonce 0 32
  let fields := [bytesOf Config.deviceId.toNat 8, bytesOf fw 48, Config.sha384 (s.ownership part), Config.sha384 nonce, challenge]
  .next (if (s.part part).en && s.boot.running && challenge.length == 32 then
    s.emit (.quote part fields (Config.signQuote fw nonce fields.flatten)) else s)

end Sys2Proof.Machine
end

