-- ==== Sys2Proof/Machine/Ptp.lean ====
section
/-! DEFINITION. PTP: the servo that corrects station time, and the latch of its registers (R353 to R356). -/

namespace Sys2Proof.Machine

/-- The state with the servo changed. -/
def State.modPtp (s : State) (f : Ptp → Ptp) : State := { s with ptp := f s.ptp }

/-- A stream is enabled. -/
def State.streaming (s : State) : Bool := s.streams.any fun e => e.2.en

/-- PTP_ENABLE: EN of PTP_CFG is written. With EN 1 the servo runs free; with EN 0 it starts over, and so does station time, but while a
stream is enabled (R355, R356, log 36). -/
def execPtpEnable (en : Bool) (s : State) : Host.Outcome State Fault Refusal :=
  if en then .next (if s.ptp.en then s else s.modPtp fun p => { p with en := true, st := .freerun })
  else
    let c := if s.streaming then { s.clock with owed := 0 } else { s.clock.set 0 with owed := 0 }
    .next { s with clock := c, ptp := { s.ptp with en := false, st := .init, gm := none, ofs := 0, good := 0, sync := none, asked := none } }

/-- PTP_ANNOUNCE: a grandmaster is selected (R355). -/
def execPtpAnnounce (gm : DWord) (s : State) : Host.Outcome State Fault Refusal :=
  if !s.ptp.en then .next s
  else .next (s.modPtp fun p =>
    let fresh := p.st == .freerun || p.st == .holdover || p.gm != some gm
    { p with gm := some gm, announce := s.clock.nowNs, st := if fresh then .uncal else p.st, good := if fresh then 0 else p.good })

/-- The correction of a measured offset, in ns, the device's time less the grandmaster's: a step, or a rate that removes it (R356). -/
def Clock.correct (c : Clock) (ofs : Int) (streaming : Bool) : Clock :=
  if 1000000 ≤ ofs.natAbs ∧ !streaming then { c.set ((c.fine : Int) - ofs * 2 ^ 16).toNat with owed := 0 }
  else { c with owed := -ofs * 2 ^ 16 }

/-- A servo that has measured an offset (R355). -/
def Ptp.measured (p : Ptp) (ofs : Int) : Ptp :=
  let n := if ofs.natAbs < 100 then p.good + 1 else 0
  { p with ofs := ofs, good := Nat.min n 16, sync := none, st := if p.st == .uncal && decide (16 ≤ n) then .locked else p.st }

/-- A Sync's two times are known: the offset is what the arrival exceeds the departure by, less the path delay (R354, R356). -/
def State.measure (s : State) (master arrival : Int) : State :=
  let ofs := arrival - master - s.ptp.delay
  let s1 := s.modPtp fun p => { p.measured ofs with down := arrival - master }
  { s1 with clock := s1.clock.correct ofs s.streaming }

/-- The servo takes Sync messages. -/
def Ptp.synced (p : Ptp) : Bool := p.en && (p.st == .uncal || p.st == .locked)

/-- PTP_SYNC: a Sync arrives; in one-step mode it carries its departure (R354). -/
def execPtpSync (seq : Nat) (master arrival : Int) (s : State) : Host.Outcome State Fault Refusal :=
  if !s.ptp.synced then .next s
  else if s.ptp.two then .next (s.modPtp fun p => { p with sync := some (seq, arrival) })
  else .next (s.measure master arrival)

/-- PTP_FOLLOW_UP: the departure of a two-step Sync (R354). -/
def execPtpFollowUp (seq : Nat) (master : Int) (s : State) : Host.Outcome State Fault Refusal :=
  match s.ptp.sync with
  | some (n, arrival) => .next (if s.ptp.synced && s.ptp.two && n == seq then s.measure master arrival else s)
  | none => .next s

/-- PTP_DELAY_REQ: a Delay_Req leaves (R354). -/
def execPtpDelayReq (s : State) : Host.Outcome State Fault Refusal :=
  if !s.ptp.synced then .next s
  else .next ((s.modPtp fun p => { p with asked := some (s.clock.nanos : Int) }).emit (.delayReq s.clock.nanos))

/-- PTP_DELAY_RESP: the path delay is the mean of the two directions' differences (R354). -/
def execPtpDelayResp (received : Int) (s : State) : Host.Outcome State Fault Refusal :=
  match s.ptp.asked with
  | some t => .next (if s.ptp.synced then s.modPtp fun p => { p with asked := none, delay := (p.down + (received - t)) / 2 } else s)
  | none => .next s

/-- ANNOUNCE_TIMEOUT: three announce intervals without Announce (R355). -/
def execAnnounceTimeout (s : State) : Host.Outcome State Fault Refusal :=
  if s.ptp.synced && decide (s.ptp.announce + 3 * Config.announceInterval ≤ s.clock.nowNs) then
    .next { s.modPtp fun p => { p with st := .holdover, good := 0, gm := none, sync := none, asked := none } with
            clock := { s.clock with owed := 0 } }
  else .next s

/-- STM_SEC_READ: a read of STM_SEC latches STM_SUB (R353). -/
def execStmSecRead (s : State) : Host.Outcome State Fault Refusal :=
  .next { s with subLatch := s.clock.ns * 2 ^ 16 + s.clock.frac }

end Sys2Proof.Machine
end

