-- ==== Sys2Proof/Machine/Registers.lean ====
section
/-! DEFINITION. The device registers by name: who may reach each, what a read gives, and what a write does (R6, R47, R61, R64, R71,
R77, R106, R136, R148, R292, R336, R353, R359, R362, R364, R369, R385, R386, R388, R391, R392, R396, R398). -/

namespace Sys2Proof.Machine

/-- The state that a meaning leaves. -/
def after (s : State) (o : Host.Outcome State Fault Refusal) : State :=
  match o with
  | .next t => t
  | _ => s

/-! ## Who reaches a register, R392 -/

/-- A flow that a virtual function reaches: one of a side port that its partition owns, or a front-port flow whose PART it is
(log 42). -/
def State.flowReach (s : State) (p port flow : Nat) : Bool :=
  if port < 2 then (s.flow port flow).part == p else tget s.sideOwn (port - 2) == some p

/-- The partition of a virtual function reaches a register (R392). -/
def State.partReach (s : State) (p : Nat) : Reg → Bool
  | .asSlot q _ | .xinvVa q | .xinvCmd q | .xinvStat q | .xfrBase q | .xfrHead q | .xfrTail q | .xfrRetry q | .xprTbl q _ _
  | .xprBase q | .xprHead q | .xprTail q | .xprRetry q | .xprOvfPa q | .xprOvfCmd q | .xprOvfStat q | .salWays q | .salDstat q
  | .dlPans q _ | .dlPlan q | .dlStat q | .schedCmd q | .schedTmo q | .plan q => q == p
  | .salPbud k | .enBal k | .enGrant k | .enRefill k | .enDef k | .fll k => bitOf (s.part p).pans k
  | .pkgPlim => true
  | .strmCfg i | .strmFmt i | .strmFp i | .strmBase i | .strmLead i | .strmBinva i | .strmRing i | .strmStat i | .strmWce i =>
    (s.stream i).part == p
  | .qctl n | .qring n | .qrsize n | .qprog n | .qwin n _ | .qwptr n | .qrptr n | .qfault n | .qcmp n | .qchead n | .qctail n =>
    (s.queue n).part == p
  | .epfCtl q f | .epfTpl q f _ | .epcPkt q f | .epcByte q f | .epcOvs q f | .epcDisc q f => s.flowReach p q f
  | .aptCtl q _ | .aptBase q _ => tget s.sideOwn q == some p
  | _ => false

/-- A virtual function reaches a register: its partition's own, or, for the manager, every one (R392). -/
def State.reaches (s : State) (vf : Nat) (r : Reg) : Bool := vf == 8 || (decide (vf < 8) && (s.part vf).en && s.partReach vf r)

/-- Registers that only the manager writes (R392). -/
def managerOnly : Reg → Bool
  | .salWays _ | .salPbud _ | .pkgPlim => true
  | _ => false

/-- The partition whose seal keeps a register as it is (R398): of the registers of that rule, its ways, its shares and its FLOOR, its
pans' budgets. -/
def State.sealedBy (s : State) (r : Reg) : Bool :=
  match r with
  | .pmPart p | .pmPans p _ | .pmPeer p _ | .pmNonce p _ | .salWays p => (s.part p).sealed_
  | .salPbud k => match s.ownerOf k with
    | some p => (s.part p).sealed_
    | none => false
  | _ => false

/-! ## Fields of rings and tails -/

/-- A ring's BASE and LOG written; a LOG outside 4 to 12 leaves the field (R64, R77, R386). -/
def RecRing.setBase (r : RecRing) (v : Nat) : RecRing :=
  let l := bitsOf v 0 4
  { r with base := bitsOf v 12 40 * 4096, log := if 4 ≤ l ∧ l ≤ 12 then l else r.log }

/-- A ring's TAIL written; a value beyond HEAD is ignored (R64, R77, R386). -/
def RecRing.setTail (r : RecRing) (v : Nat) : RecRing :=
  let d := (v % 2 ^ 32 + 2 ^ 32 - r.tail % 2 ^ 32) % 2 ^ 32
  if d ≤ r.head - r.tail then { r with tail := r.tail + d } else r

/-- BASE and LOG of a ring as they read. -/
def RecRing.word (r : RecRing) : Nat := r.base + r.log

/-! ## Reads, R6 -/

/-- FEN_PAN (R388). -/
def Fence.word (f : Fence) : Nat :=
  let n := ((List.range 4).filter fun k => bitOf f.nsl k).length
  f.seg * 2 ^ 16 + f.qtr * 2 ^ 12 + f.dpq * 2 ^ 8 + f.arr * 2 ^ 4 + Nat.min n 3 * 4 + f.whole.toNat * 2

/-- SCRFREE (R136): what the teams of a pan leave of its scratchpad, in KiB. -/
def Pan.scrFree (n : Pan) : Nat := (scratchCap n.fen n.l1seg - (n.core.teams.map fun t => t.2.size).sum) / 1024

/-- STATE of PTP_STAT (R353). -/
def PtpSt.code : PtpSt → Nat
  | .init => 0
  | .freerun => 1
  | .uncal => 2
  | .locked => 3
  | .holdover => 4

/-- A signed number of ns saturated to 32 bits. -/
def clip32 (x : Int) : Nat := wrap (max (-(2 ^ 31)) (min x (2 ^ 31 - 1))) 32

/-- RCV_CTX (R385). -/
def rcvWord (x : Option Context) : Nat :=
  match x with
  | some c => 2 ^ 63 + c.go.toNat * 2 ^ 62 + c.tm.part * 2 ^ 59 + c.tm.slot * 2 ^ 55 + c.tm.grid % 2 ^ 32
  | none => 0

/-- EPF_CTL (R391). -/
def Flow.word (f : Flow) : Nat := f.en.toNat * 2 ^ 63 + f.part * 2 ^ 60 + f.kind * 2 ^ 58 + f.hlen * 2 ^ 32

/-- The value that a register reads as; a write-only one reads as 0 (R6). -/
def State.readReg (s : State) (r : Reg) : Nat :=
  match r with
  | .asSlot p k => (s.asSlot p k).bits
  | .xinvVa p => (s.part p).xinvVa
  | .xinvStat p => (s.part p).xinvIssued % 2 ^ 16 * 2 ^ 16 + (s.part p).xinvDone % 2 ^ 16
  | .xfrBase p => (s.part p).xfr.word
  | .xfrHead p => (s.part p).xfr.head % 2 ^ 32
  | .xfrTail p => (s.part p).xfr.tail % 2 ^ 32
  | .xprBase p => (s.part p).xpr.word
  | .xprHead p => (s.part p).xpr.head % 2 ^ 32
  | .xprTail p => (s.part p).xpr.tail % 2 ^ 32
  | .xprOvfPa p => (s.part p).ovfPa
  | .xprOvfStat p => (s.part p).ovfDone % 2 ^ 16 * (2 ^ 16 + 1)
  | .salWays p => (s.part p).salBusy.toNat * 2 ^ 31 + (s.part p).salMask
  | .salDstat p => (s.part p).dstat
  | .salPbud k => (s.pan k).pbud
  | .panMem k => (s.pan k).fused.toNat * 2 ^ 16 + (s.pan k).scrFree * 2 ^ 5 + (s.pan k).l1seg
  | .evqCfg k => (s.pan k).core.evq.read 0x18
  | .evqHead k => (s.pan k).core.evq.read 0x19
  | .evqTail k => (s.pan k).core.evq.read 0x1A
  | .evqRec k j => (s.pan k).core.evq.read (0x20 + j % 8)
  | .strmCfg i => (s.stream i).cfg.toNat
  | .strmFmt i => (s.stream i).fmt.toNat
  | .strmFp i => (s.stream i).fp.toNat
  | .strmBase i => (s.stream i).base.toNat
  | .strmLead i => (s.stream i).lead.toNat
  | .strmBinva i => (s.stream i).binva.toNat
  | .strmRing i => (s.stream i).ring.toNat
  | .strmStat i => (s.stream i).sr % 8 * 2 ^ 32 + (s.stream i).last % 2 ^ 32
  | .strmWce i => (s.stream i).wce.toNat
  | .qctl n => (s.queue n).en.toNat * 2 ^ 31 + (s.queue n).haltd.toNat * 2 ^ 30 + (s.queue n).part * 2 ^ 24 + (s.queue n).slot * 2 ^ 20
  | .qring n => (s.queue n).ring
  | .qrsize n => (s.queue n).size
  | .qprog n => (s.queue n).prog
  | .qwin n k => (s.queue n).win k
  | .qwptr n => (s.queue n).wptr
  | .qrptr n => (s.queue n).rptr
  | .qfault n => (s.queue n).fault
  | .qcmp n => (s.queue n).cmpBase + (s.queue n).cmpLog
  | .qchead n => (s.queue n).chead
  | .qctail n => (s.queue n).ctail
  | .stmSec => s.clock.sec
  | .stmSub => s.subLatch
  | .ptpCfg => s.ptp.en.toNat * 2 ^ 31 + s.ptp.two.toNat * 2 ^ 30 + s.ptp.prof * 2 ^ 28 + s.ptp.port * 2 ^ 27 +
      s.ptp.ip6.toNat * 2 ^ 26 + s.ptp.dom * 2 ^ 18
  | .ptpStat => s.ptp.st.code * 2 ^ 29
  | .ptpOfs => clip32 s.ptp.ofs
  | .dlPans p k => bitsOf (s.part p).dlPans (64 * k) 64
  | .dlPlan p => (s.part p).dlRef
  | .dlStat p => (s.part p).refused
  | .schedTmo p => (s.part p).dtmo * 2 ^ 16 + (s.part p).wdog
  | .enBal k => wrap (s.pan k).pw.bal 32
  | .enGrant k => (s.pan k).pw.grant
  | .enRefill k => (s.pan k).pw.refill
  | .enDef k => (s.pan k).pw.deficit
  | .plan p => (s.part p).share * 2 ^ 48 + (s.part p).floor * 2 ^ 32 + (s.part p).res * 2 ^ 16 + (s.part p).dlfk
  | .pkgPlim => s.plim
  | .ec k => (Config.ecCmd k).toNat * 2 ^ 32 + (Config.ecUnit k).toNat
  | .fll k => (s.pan k).pw.cur * 2 ^ 8 + (s.pan k).pw.tgt
  | .rcvCtx k t => rcvWord (tget s.rcv (8 * k + t))
  | .errBase => s.err.word
  | .errHead => s.err.head % 2 ^ 32
  | .errTail => s.err.tail % 2 ^ 32
  | .errLost => s.errLost
  | .fenPan k => (s.pan k).fen.word
  | .fenBed b => (s.bed b).fenced
  | .fenPort => s.fenSide * 4 + s.fenFront
  | .epfCtl p f => (s.flow p f).word
  | .epcPkt p f => (s.flow p f).pkt
  | .epcByte p f => (s.flow p f).byte
  | .epcOvs p f => (s.flow p f).ovs
  | .epcDisc p f => (s.flow p f).disc
  | .aptCtl p e =>
    let a := tgetD s.apertures (64 * p + e) {}
    a.en.toNat * 2 ^ 63 + a.op * 2 ^ 61 + a.rslot * 2 ^ 57
  | .aptBase p e => (tgetD s.apertures (64 * p + e) {}).base
  | .pmPart p => s.pmPart p
  | .pmPans p k => bitsOf (s.part p).pans (64 * k) 64
  | .pmOwn e => s.pmOwnWord e
  | .pmPeer p k => tgetD (s.part p).peers k 0
  | .xinvCmd _ | .xfrRetry _ | .xprTbl _ _ _ | .xprRetry _ | .xprOvfCmd _ | .schedCmd _ | .rcvCmd | .epfTpl _ _ _ | .pmNonce _ _ => 0

/-! ## Writes -/

/-- XINV_CMD (R61). A reserved KIND or field makes it ignored. -/
def State.writeXinv (s : State) (p v : Nat) : State :=
  if bitsOf v 24 2 ≠ 0 then s
  else match bitsOf v 30 2 with
    | 0 => after s (execXinvRange p (bitsOf v 26 4) (bitsOf v 0 24) s)
    | 1 => after s (execXinvSlot p (bitsOf v 26 4) s)
    | 2 => after s (execXinvPartition p s)
    | _ => s

/-- The port kind that XPR_OVF_CMD names; none for a reserved one, or with a nonzero reserved field (R77). -/
def ovfKind (v : Nat) : Option PortKind :=
  if v % 2 ^ 17 ≠ 0 then none
  else match bitsOf v 22 2 with
    | 0 => some .asset
    | 1 => some .brine
    | 2 => some .side
    | _ => none

/-- XPR_OVF_CMD (R77, R80). -/
def State.writeOvf (s : State) (p v : Nat) : State :=
  let port := bitsOf v 24 6
  let entry := bitsOf v 17 5
  match ovfKind v, bitsOf v 30 2 with
  | some k, 0 => after s (execOverflowMove p k port entry s)
  | some k, 1 => after s (execOverflowRelease p k port entry s)
  | some k, 2 => after s (execOverflowRetry p k port entry s)
  | _, _ => s

/-- PAN_MEM (R136): ignored while a team is resident, and with another L1SEG. -/
def State.writePanMem (s : State) (k v : Nat) : State :=
  let l := bitsOf v 0 5
  if !(s.pan k).core.teams.isEmpty || !([0, 4, 8, 12, 16].contains l) then s
  else s.modPan k fun n => n.split l (bitOf v 16)

/-- A register of a stream other than STRM_CFG: ignored while EN is 1 (R292, R359). -/
def State.writeStream (s : State) (i : Nat) (f : Stream → Stream) : State :=
  if (s.stream i).en || decide (16 ≤ i) then s else s.modStream i f

/-- STRM_CFG (R292, R293). -/
def State.writeStrmCfg (s : State) (i v : Nat) : State :=
  if (s.stream i).en then (if bitOf v 63 then s else after s (execStreamDisable i s))
  else
    let s1 := s.writeStream i fun x => { x with cfg := BitVec.ofNat 64 (v % 2 ^ 63 &&& notw (2 ^ 44) 64) }
    if bitOf v 63 then after s1 (execStreamEnable i s1) else s1

/-- A register of a queue that is ignored while EN is 1 (R336). -/
def State.writeQueue (s : State) (n : Nat) (f : Queue → Queue) : State :=
  if (s.queue n).en || decide (256 ≤ n) then s else s.modQueue n f

/-- QCTL (R336). -/
def State.writeQctl (s : State) (n v : Nat) : State :=
  if !bitOf v 31 then after s (execQueueDisable n s) |>.modQueue n fun x => { x with part := bitsOf v 24 3, slot := bitsOf v 20 4 }
  else
    let s1 := s.writeQueue n fun x => { x with part := bitsOf v 24 3, slot := bitsOf v 20 4 }
    after s1 (execQueueEnable n s1)

/-- QCTAIL (R336): a value beyond HEAD is ignored. -/
def Queue.setTail (x : Queue) (v : Nat) : Queue :=
  if (v % 2 ^ 32 + 2 ^ 32 - x.ctail) % 2 ^ 32 ≤ (x.chead + 2 ^ 32 - x.ctail) % 2 ^ 32 then { x with ctail := v % 2 ^ 32 } else x

/-- PTP_CFG (R353): fields other than EN are ignored while EN is 1. -/
def State.writePtpCfg (s : State) (v : Nat) : State :=
  let dom := bitsOf v 18 8
  let s1 := if s.ptp.en then s else s.modPtp fun p =>
    { p with two := bitOf v 30, prof := if bitsOf v 28 2 < 2 then bitsOf v 28 2 else p.prof, port := bitsOf v 27 1, ip6 := bitOf v 26,
             dom := if dom < 128 then dom else p.dom }
  after s1 (execPtpEnable (bitOf v 31) s1)

/-- SCHED_CMD (R362). -/
def State.writeSched (s : State) (p v : Nat) : State :=
  let pan := bitsOf v 22 8
  let team := bitsOf v 19 3
  let sld := bitOf v 18
  if bitsOf v 0 18 ≠ 0 then s
  else match bitsOf v 30 2 with
    | 0 => after s (execSchedDrain p pan team sld s)
    | 1 => after s (execSchedSeal p pan team sld s)
    | 2 => after s (execSchedTeardown p pan team sld s)
    | _ => after s (execSchedRestore p pan team sld s)

/-- PLAN (R364, R398): SHARE and FLOOR are the manager's, and stand while the partition is sealed; a SHARE that would take the sum
beyond PLIM is ignored, and so is a DLFK outside 28 to 44. -/
def State.writePlan (s : State) (vf p v : Nat) : State :=
  let own := vf == 8 && !(s.part p).sealed_
  let share := bitsOf v 48 16
  let others := ((s.parts.filter fun e => e.1 != p).map fun e => e.2.share).sum
  let k := bitsOf v 0 6
  s.modPart p fun x =>
    { x with share := if own && decide (others + share ≤ s.plim) then share else x.share, floor := if own then bitsOf v 32 16 else x.floor,
             res := bitsOf v 16 16, dlfk := if 28 ≤ k ∧ k ≤ 44 then k else x.dlfk }

/-- PKG_PLIM (R364). -/
def State.writePlim (s : State) (v : Nat) : State :=
  let w := bitsOf v 0 16
  if 600 ≤ w ∧ w ≤ 1300 ∧ (s.parts.map fun e => e.2.share).sum ≤ w then { s with plim := w } else s

/-- RCV_CMD (R385): a reserved OP or field makes it ignored. -/
def State.writeRcv (s : State) (v : Nat) : State :=
  let pan := bitsOf v 22 8
  let team := bitsOf v 19 3
  if bitsOf v 0 19 ≠ 0 then s
  else match bitsOf v 30 2 with
    | 0 => after s (execRcvRestore pan team s)
    | 1 => after s (execRcvDiscard pan team s)
    | _ => s

/-- EPF_CTL (R391). -/
def State.writeEpf (s : State) (port flow v : Nat) : State :=
  let part := bitsOf v 60 3
  let hlen := bitsOf v 32 8
  if !bitOf v 63 then
    s.modFlow port flow fun f => if f.en then { f with en := false } else { f with part := part, kind := bitsOf v 58 2, hlen := hlen }
  else if (s.flow port flow).en || bitsOf v 58 2 == 3 || decide (hlen < 14) || decide (128 < hlen) || decide (18 ≤ port) ||
      (decide (2 ≤ port) && tget s.sideOwn (port - 2) != some part) then s
  else s.modFlow port flow fun f => { f with en := true, part := part, kind := bitsOf v 58 2, hlen := hlen }

/-- PM_PART (R398): EN, SEAL, and, while neither BUSY nor SEAL holds them, SIDE without the ports of others, and POOL. -/
def State.writePmPart (s : State) (p v : Nat) : State :=
  let pool := bitsOf v 24 8
  let others := ((s.parts.filter fun e => e.1 != p).map fun e => e.2.poolShare).sum
  if (s.part p).sealed_ || (s.part p).busy || decide (8 ≤ p) || decide (256 < others + pool) then s
  else
    let mine := (List.range 16).filter fun k => bitOf v (32 + k) && (match tget s.sideOwn k with
      | some q => q == p
      | none => true)
    let side := mine.foldl (fun (t : Tbl Nat) k => tput t k p) (s.sideOwn.filter fun e => e.2 != p)
    let s1 := ({ s with sideOwn := side } : State).modPart p fun x => { x with poolShare := pool }
    let s2 := if bitOf v 63 then after s1 (execPartitionEnable p s1) else after s1 (execPartitionDisable p s1)
    if bitOf v 62 then after s2 (execPartitionSeal p s2) else s2

/-- DL_PANS (R359): bits for pans that the partition does not own are ignored. -/
def State.writeDlPans (s : State) (p k v : Nat) : State :=
  s.modPart p fun x =>
    let own := bitsOf x.pans (64 * k) 64
    { x with dlPans := x.dlPans - bitsOf x.dlPans (64 * k) 64 * 2 ^ (64 * k) + (v % 2 ^ 64 &&& own) * 2 ^ (64 * k) }

/-- An entry of a side port's aperture table changed (R396). -/
def State.modAperture (s : State) (port e : Nat) (f : Aperture → Aperture) : State :=
  { s with apertures := tput s.apertures (64 * port + e) (f (tgetD s.apertures (64 * port + e) {})) }

/-- What a write of a register does; a read-only one ignores it (R6). -/
def State.writeReg (s : State) (vf : Nat) (r : Reg) (v : Nat) : State :=
  match r with
  | .asSlot p k => after s (execAddressSpaceSlotWrite p k (BitVec.ofNat 64 v) s)
  | .xinvVa p => s.modPart p fun x => { x with xinvVa := bitsOf v 12 44 * 4096 }
  | .xinvCmd p => s.writeXinv p v
  | .xfrBase p => s.modPart p fun x => { x with xfr := x.xfr.setBase v }
  | .xfrTail p => s.modPart p fun x => { x with xfr := x.xfr.setTail v }
  | .xfrRetry p => after s (execXfrRetry p (bitsOf v 0 4) s)
  | .xprTbl p k off => after s (execXprTblWrite p k off (bytesOf v 4) s)
  | .xprBase p => s.modPart p fun x => { x with xpr := x.xpr.setBase v }
  | .xprTail p => s.modPart p fun x => { x with xpr := x.xpr.setTail v }
  | .xprRetry p => after s (if bitOf v 4 then execXprRetryFail p (bitsOf v 0 4) s else execXprRetry p (bitsOf v 0 4) s)
  | .xprOvfPa p => s.modPart p fun x => { x with ovfPa := bitsOf v 12 40 * 4096 }
  | .xprOvfCmd p => s.writeOvf p v
  | .salWays p => after s (execSalWaysWrite p (BitVec.ofNat 16 v) s)
  | .salDstat p => s.modPart p fun x => { x with dstat := x.dstat &&& notw v 32 }
  | .salPbud k => s.modPan k fun n => { n with pbud := bitsOf v 0 16 }
  | .panMem k => s.writePanMem k v
  | .evqCfg k => if (s.pan k).off then s else s.modCore k fun c => { c with evq := c.evq.write 0x18 v }
  | .evqTail k => after s (execEvqTailWrite k (BitVec.ofNat 32 v) s)
  | .strmCfg i => s.writeStrmCfg i v
  | .strmFmt i => s.writeStream i fun x => { x with fmt := BitVec.ofNat 64 (v &&& notw (63 * 2 ^ 30) 64) }
  | .strmFp i => s.writeStream i fun x => { x with fp := BitVec.ofNat 32 v }
  | .strmBase i => s.writeStream i fun x => { x with base := BitVec.ofNat 64 v }
  | .strmLead i => s.writeStream i fun x => { x with lead := BitVec.ofNat 64 (v &&& notw (65535 * 2 ^ 32) 64) }
  | .strmBinva i => s.writeStream i fun x => { x with binva := BitVec.ofNat 64 (bitsOf v 4 52 * 16) }
  | .strmRing i => s.writeStream i fun x => { x with ring := BitVec.ofNat 64 (bitsOf v 32 16 * 2 ^ 32 + bitsOf v 0 16) }
  | .strmWce i => s.writeStream i fun x => { x with wce := BitVec.ofNat 32 v }
  | .qctl n => s.writeQctl n v
  | .qring n => s.writeQueue n fun x => { x with ring := bitsOf v 6 46 * 64 }
  | .qrsize n =>
    let z := bitsOf v 0 19
    s.writeQueue n fun x => if 1 ≤ z ∧ z ≤ 262144 then { x with size := z } else x
  | .qprog n => s.writeQueue n fun x => { x with prog := bitsOf v 2 50 * 4 }
  | .qwin n k => s.writeQueue n fun x => { x with wins := tput x.wins k (bitsOf v 12 40 * 4096 + bitsOf v 5 4 * 32 + bitsOf v 0 2) }
  | .qwptr n => after s (execQwptrWrite n (BitVec.ofNat 32 v) s)
  | .qrptr n => s.writeQueue n fun x => { x with rptr := bitsOf v 0 32 }
  | .qcmp n =>
    let l := bitsOf v 0 4
    s.writeQueue n fun x => { x with cmpBase := bitsOf v 12 40 * 4096, cmpLog := if 4 ≤ l ∧ l ≤ 12 then l else x.cmpLog }
  | .qctail n => s.modQueue n fun x => x.setTail v
  | .ptpCfg => s.writePtpCfg v
  | .dlPans p k => s.writeDlPans p k v
  | .dlPlan p => s.modPart p fun x => { x with dlRef := bitsOf v 0 32 }
  | .schedCmd p => s.writeSched p v
  | .schedTmo p => s.modPart p fun x => { x with dtmo := bitsOf v 16 16, wdog := bitsOf v 0 16 }
  | .plan p => s.writePlan vf p v
  | .pkgPlim => s.writePlim v
  | .fll k => if bitsOf v 0 6 ≤ 44 then s.modPan k fun n => { n with pw := { n.pw with tgt := bitsOf v 0 6 } } else s
  | .rcvCmd => s.writeRcv v
  | .errBase => { s with err := s.err.setBase v }
  | .errTail => { s with err := s.err.setTail v }
  | .epfCtl p f => s.writeEpf p f v
  | .epfTpl p f k => s.modFlow p f fun x => if x.en then x else { x with tpl := mwrite x.tpl (4 * (k % 32)) (bytesOf v 4) }
  | .aptCtl p e => s.modAperture p e fun a => { a with en := bitOf v 63, op := bitsOf v 61 2, rslot := bitsOf v 57 4 }
  | .aptBase p e => s.modAperture p e fun a => { a with base := bitsOf v 0 56 }
  | .pmPart p => s.writePmPart p v
  | .pmPans p k => after s (execPmPansWrite p k (BitVec.ofNat 64 v) s)
  | .pmOwn e => after s (execPmOwnWrite e (BitVec.ofNat 4 v) s)
  | .pmPeer p k => s.modPart p fun x => { x with peers := tputD 0 x.peers k (v % 2 ^ 64) }
  | .pmNonce p k => s.modPart p fun x => { x with nonce := mwrite x.nonce (8 * (k % 4)) (bytesOf v 8) }
  | .xinvStat _ | .xfrHead _ | .xprHead _ | .xprOvfStat _ | .evqHead _ | .evqRec _ _ | .strmStat _ | .qfault _ | .qchead _
  | .stmSec | .stmSub | .ptpStat | .ptpOfs | .dlStat _ | .enBal _ | .enGrant _ | .enRefill _ | .enDef _ | .ec _
  | .rcvCtx _ _ | .errHead | .errLost | .fenPan _ | .fenBed _ | .fenPort
  | .epcPkt _ _ | .epcByte _ _ | .epcOvs _ _ | .epcDisc _ _ => s

/-- A write waits: a 65th shootdown, ownership while BUSY is 1, and a MOVE whose bytes a bed does not take yet (R61, R90, R398, R419). -/
def State.writeWaits (s : State) (r : Reg) (v : Nat) : Bool :=
  let busy (q : Option Nat) : Bool := match q with
    | some p => (s.part p).busy
    | none => false
  match r with
  | .xinvCmd p => decide (64 ≤ (s.part p).xinvCmds.length)
  | .xprOvfCmd p => bitsOf v 30 2 == 0 && match ovfKind v with
      | some k => !(s.overflowMoved p k (bitsOf v 24 6) (bitsOf v 17 5)).wants.isEmpty
      | none => false
  | .pmPart p | .pmPans p _ => (s.part p).busy
  | .pmOwn e =>
    busy (tget s.pmOwn e) || (bitOf v 3 && busy (some (v % 8))) || match tget s.pmOwn e with
      | some p => decide (64 ≤ (s.part p).xinvCmds.length)
      | none => false
  | _ => false

/-- A virtual function may write a register: it reaches it, and it is not the manager's alone (R392). -/
def State.mayWrite (s : State) (vf : Nat) (r : Reg) : Bool := s.reaches vf r && (vf == 8 || !managerOnly r)

/-- REGISTER_WRITE: a virtual function writes a register (R6, R392, R398). It waits for firmware to run (R401). -/
def execRegisterWrite (vf : Nat) (r : Reg) (value : DWord) (s : State) : Host.Outcome State Fault Refusal :=
  if !s.boot.running || !s.mayWrite vf r || s.sealedBy r || s.writeWaits r value.toNat then .next s
  else .next (s.writeReg vf r value.toNat)

end Sys2Proof.Machine
end

