-- ==== Sys2Proof/Machine/Slt.lean ====
section
/-! DEFINITION. SLT, the host transport (R392 to R394). -/

namespace Sys2Proof.Machine

/-! ## What a packet names, R392 -/

/-- An address of the device registers (R44). -/
def isRegister (pa : Nat) : Bool := decide (0x30000000000 ≤ pa) && decide (pa < 0x30000000000 + 2 ^ 28)

/-- The registers that a packet's bytes name, in order, each with its width: none where some byte lies outside the device registers of the
physical map, in no register of it, or in a part of one only (R44, log 12). -/
def regsAt (addr len fuel : Nat) : Option (List (Reg × Nat)) :=
  match fuel with
  | 0 => none
  | fuel + 1 =>
    if len = 0 then some []
    else match if isRegister addr then Config.regAt addr else none with
      | none => none
      | some (r, n) => if n = 0 ∨ len < n then none else (regsAt (addr + n) (len - n) fuel).map fun l => (r, n) :: l

/-- A packet's bytes lie in memory that a virtual function reaches: extents of its partition, and for the manager every owned extent
but those of a sealed partition (R392, R398). -/
def State.memReach (s : State) (vf addr len : Nat) : Bool :=
  if vf = 8 then (List.range 8).any fun p => !(s.part p).sealed_ && ownsRange s p addr len
  else (s.part vf).en && ownsRange s vf addr len

/-- Whose lines a front-end access of a virtual function uses: its partition's, and for the manager the owner's. -/
def State.memPart (s : State) (vf addr : Nat) : Nat := if vf = 8 then tgetD s.pmOwn (extentOf addr) 8 else vf

/-- A packet of a form that is served: no reserved value, a length in range, an aligned address (R392). -/
def sltForm (p : SltPacket) : Bool :=
  p.ok && decide (p.vf ≤ 8) && decide (p.conn < 64) && decide (4 ≤ p.len) && decide (p.len ≤ 8192) && p.len % 4 == 0 && p.addr % 4 == 0

/-! ## Sequence numbers, R393 -/

/-- Where a SEQ stands to the one expected: 0 it is it, 1 above it, 2 below it. -/
def sltOrder (rx seq : Nat) : Nat :=
  let d := (seq % 2 ^ 32 + 2 ^ 32 - rx % 2 ^ 32) % 2 ^ 32
  if d = 0 then 0 else if d < 2 ^ 31 then 1 else 2

/-- A reply to a packet: an ACK, or a NACK with its code. -/
def State.sltReply (s : State) (p : SltPacket) (nack : Option Nat) : State :=
  s.emit (.sltReply p.vf p.conn (s.conn p.vf p.conn).rx freeCredit nack)

/-- The peer has all of a connection's packets below a SEQ. -/
def State.sltAcked (s : State) (vf conn ackseq : Nat) : State :=
  s.modConn vf conn fun c => { c with sent := c.sent.filter fun x => sltOrder ackseq x.seq != 2 }

/-- A packet that is due counts as received. -/
def State.sltTake (s : State) (p : SltPacket) : State :=
  (s.modConn p.vf p.conn fun c => { c with rx := (c.rx + 1) % 2 ^ 32 }).sltAcked p.vf p.conn p.ackseq

/-- A packet in its turn is handled by `f`, where `waits` does not hold it back; one above its turn is answered by a NACK, a duplicate
by an ACK (R393; the code of that NACK: log 14). Nothing is served before firmware runs (R401). -/
def execSlt (p : SltPacket) (s : State) (waits : Bool) (f : State → State) : Host.Outcome State Fault Refusal :=
  if !s.boot.running then .next s
  else match sltOrder (s.conn p.vf p.conn).rx p.seq with
    | 0 => .next (if waits then s else s.orWait (f (s.sltTake p)))
    | 1 => .next (s.sltReply p (some 0))
    | _ => .next (s.sltReply p none)

/-! ## WRITE and READ, R392 and R394 -/

/-- The values of a packet's data, register by register. -/
def regValues (rs : List (Reg × Nat)) (data : List Byte) : List (Reg × Nat) :=
  match rs with
  | [] => []
  | (r, n) :: l => (r, ofBytes (data.take n)) :: regValues l (data.drop n)

/-- SLT_WRITE: bytes of memory, or registers, written in SEQ order; a packet that fails a check is answered by a NACK with code 2
(R392 to R394). -/
def execSltWrite (p : SltPacket) (s : State) : Host.Outcome State Fault Refusal :=
  let good := sltForm p && p.data.length == p.len
  let rs := regsAt p.addr p.len (p.len / 4 + 1)
  let vals := regValues (rs.getD []) p.data
  let waits := good && if s.memReach p.vf p.addr p.len then s.frontBusy p.addr p.len else vals.any fun e => s.writeWaits e.1 e.2
  execSlt p s waits fun st =>
    if good && st.memReach p.vf p.addr p.len then
      (st.frontWrite (st.memPart p.vf p.addr) p.addr p.data).sltReply p none
    else if good && rs.isSome && vals.all fun e => st.mayWrite p.vf e.1 then
      (vals.foldl (fun (x : State) e => after x (execRegisterWrite p.vf e.1 (BitVec.ofNat 64 e.2) x)) st).sltReply p none
    else st.sltReply p (some 2)

/-- The bytes of registers as they are read, and the latch that a read of STM_SEC sets (R353). -/
def State.readRegs (s : State) (rs : List (Reg × Nat)) : State × List Byte :=
  match rs with
  | [] => (s, [])
  | (r, n) :: l =>
    let s1 := if r = .stmSec then after s (execStmSecRead s) else s
    let (s2, bs) := s1.readRegs l
    (s2, bytesOf (s1.readReg r) n ++ bs)

/-- SLT_READ: answered by an RDATA packet with the bytes asked for (R392 to R394). -/
def execSltRead (p : SltPacket) (s : State) : Host.Outcome State Fault Refusal :=
  let rs := regsAt p.addr p.len (p.len / 4 + 1)
  execSlt p s false fun st =>
    if sltForm p && st.memReach p.vf p.addr p.len then
      let part := st.memPart p.vf p.addr
      let st1 := (List.range ((p.addr % 128 + p.len + 127) / 128)).foldl (fun (x : State) k => x.frontLine part (p.addr + 128 * k)) st
      st1.sltSend p.vf p.conn (.rdata p.addr (mread st.mem p.addr p.len))
    else if sltForm p && rs.isSome && (rs.getD []).all fun e => st.reaches p.vf e.1 then
      let (s1, bs) := st.readRegs (rs.getD [])
      s1.sltSend p.vf p.conn (.rdata p.addr bs)
    else st.sltReply p (some 2)

/-! ## ACK, NACK and resending, R393 -/

/-- SLT_ACK: the packets below its ACKSEQ have arrived (R393). -/
def execSltAck (p : SltPacket) (s : State) : Host.Outcome State Fault Refusal := .next (s.sltAcked p.vf p.conn p.ackseq)

/-- The unacknowledged packets of a connection sent again, go-back-N; after 16 sendings of one the connection starts at SEQ 0 in both
directions (R393). -/
def State.sltResend (s : State) (vf conn : Nat) : State :=
  let c := s.conn vf conn
  if c.sent.any fun x => decide (16 ≤ x.sends) then s.modConn vf conn fun _ => {}
  else
    let again (x : SltSent) : SltSent := { x with last := s.clock.nowNs, sends := x.sends + 1 }
    c.sent.foldl (fun (st : State) x => st.emit (.slt vf conn x.seq c.rx freeCredit x.x))
      (s.modConn vf conn fun c => { c with sent := c.sent.map again })

/-- SLT_NACK: what its ACKSEQ covers has arrived, and the rest is sent again (R393). -/
def execSltNack (p : SltPacket) (s : State) : Host.Outcome State Fault Refusal :=
  .next ((s.sltAcked p.vf p.conn p.ackseq).sltResend p.vf p.conn)

/-- SLT_RESEND_TIMER: 50 µs after their last sending the unacknowledged packets of a connection are sent again (R393). -/
def execSltResendTimer (vf conn : Nat) (s : State) : Host.Outcome State Fault Refusal :=
  match (s.conn vf conn).sent with
  | [] => .next s
  | x :: _ => .next (if x.last + 50000 ≤ s.clock.nowNs then s.sltResend vf conn else s)

end Sys2Proof.Machine
end

