-- ==== Sys2Proof/Machine/Dispatch.lean ====
section
/-! DEFINITION. The dispatch: one arm for every row of the opcode table, each one call of its meaning. -/

namespace Sys2Proof.Machine

def exec (i : Instr) (s : State) : Host.Outcome State Fault Refusal :=
  match i with
  | .add x => Sys2Proof.Machine.execAdd x s
  | .sub x => Sys2Proof.Machine.execSub x s
  | .addc x => Sys2Proof.Machine.execAddc x s
  | .subb x => Sys2Proof.Machine.execSubb x s
  | .mullo x => Sys2Proof.Machine.execMullo x s
  | .mulhi x => Sys2Proof.Machine.execMulhi x s
  | .mad x => Sys2Proof.Machine.execMad x s
  | .madw x => Sys2Proof.Machine.execMadw x s
  | .div x => Sys2Proof.Machine.execDiv x s
  | .rem x => Sys2Proof.Machine.execRem x s
  | .min x => Sys2Proof.Machine.execMin x s
  | .max x => Sys2Proof.Machine.execMax x s
  | .abs x => Sys2Proof.Machine.execAbs x s
  | .neg x => Sys2Proof.Machine.execNeg x s
  | .addsat x => Sys2Proof.Machine.execAddsat x s
  | .subsat x => Sys2Proof.Machine.execSubsat x s
  | .lea x => Sys2Proof.Machine.execLea x s
  | .icmp x => Sys2Proof.Machine.execIcmp x s
  | .sel x => Sys2Proof.Machine.execSel x s
  | .mov x => Sys2Proof.Machine.execMov x s
  | .clamp x => Sys2Proof.Machine.execClamp x s
  | .sad x => Sys2Proof.Machine.execSad x s
  | .dot4 x => Sys2Proof.Machine.execDot4 x s
  | .dot2 x => Sys2Proof.Machine.execDot2 x s
  | .cvti x => Sys2Proof.Machine.execCvti x s
  | .bysel x => Sys2Proof.Machine.execBysel x s
  | .pack x => Sys2Proof.Machine.execPack x s
  | .unpk x => Sys2Proof.Machine.execUnpk x s
  | .avg x => Sys2Proof.Machine.execAvg x s
  | .and x => Sys2Proof.Machine.execAnd x s
  | .or x => Sys2Proof.Machine.execOr x s
  | .xor x => Sys2Proof.Machine.execXor x s
  | .andn x => Sys2Proof.Machine.execAndn x s
  | .orn x => Sys2Proof.Machine.execOrn x s
  | .not x => Sys2Proof.Machine.execNot x s
  | .logt x => Sys2Proof.Machine.execLogt x s
  | .shl x => Sys2Proof.Machine.execShl x s
  | .shr x => Sys2Proof.Machine.execShr x s
  | .sar x => Sys2Proof.Machine.execSar x s
  | .rol x => Sys2Proof.Machine.execRol x s
  | .ror x => Sys2Proof.Machine.execRor x s
  | .fshl x => Sys2Proof.Machine.execFshl x s
  | .fshr x => Sys2Proof.Machine.execFshr x s
  | .bfe x => Sys2Proof.Machine.execBfe x s
  | .bfi x => Sys2Proof.Machine.execBfi x s
  | .popc x => Sys2Proof.Machine.execPopc x s
  | .clz x => Sys2Proof.Machine.execClz x s
  | .ctz x => Sys2Proof.Machine.execCtz x s
  | .brev x => Sys2Proof.Machine.execBrev x s
  | .bmsk x => Sys2Proof.Machine.execBmsk x s
  | .plogt x => Sys2Proof.Machine.execPlogt x s
  | .p2v x => Sys2Proof.Machine.execP2v x s
  | .v2p x => Sys2Proof.Machine.execV2p x s
  | .fadd x => Sys2Proof.Machine.execFadd x s
  | .fsub x => Sys2Proof.Machine.execFsub x s
  | .fmul x => Sys2Proof.Machine.execFmul x s
  | .ffma x => Sys2Proof.Machine.execFfma x s
  | .fmin x => Sys2Proof.Machine.execFmin x s
  | .fmax x => Sys2Proof.Machine.execFmax x s
  | .fminm x => Sys2Proof.Machine.execFminm x s
  | .fmaxm x => Sys2Proof.Machine.execFmaxm x s
  | .fcmp x => Sys2Proof.Machine.execFcmp x s
  | .fclass x => Sys2Proof.Machine.execFclass x s
  | .fclassPredicate x => Sys2Proof.Machine.execFclassPredicate x s
  | .frnd x => Sys2Proof.Machine.execFrnd x s
  | .ffrc x => Sys2Proof.Machine.execFfrc x s
  | .fscl x => Sys2Proof.Machine.execFscl x s
  | .fexpt x => Sys2Proof.Machine.execFexpt x s
  | .fcps x => Sys2Proof.Machine.execFcps x s
  | .fdiv x => Sys2Proof.Machine.execFdiv x s
  | .fsqrt x => Sys2Proof.Machine.execFsqrt x s
  | .frcp x => Sys2Proof.Machine.execFrcp x s
  | .frsq x => Sys2Proof.Machine.execFrsq x s
  | .fex2 x => Sys2Proof.Machine.execFex2 x s
  | .flg2 x => Sys2Proof.Machine.execFlg2 x s
  | .fsin x => Sys2Proof.Machine.execFsin x s
  | .fcos x => Sys2Proof.Machine.execFcos x s
  | .ftanh x => Sys2Proof.Machine.execFtanh x s
  | .fdotp2 x => Sys2Proof.Machine.execFdotp2 x s
  | .hfma2 x => Sys2Proof.Machine.execHfma2 x s
  | .cvtf x => Sys2Proof.Machine.execCvtf x s
  | .cvtfi x => Sys2Proof.Machine.execCvtfi x s
  | .cvtif x => Sys2Proof.Machine.execCvtif x s
  | .flgrd x => Sys2Proof.Machine.execFlgrd x s
  | .flgclr x => Sys2Proof.Machine.execFlgclr x s
  | .vote x => Sys2Proof.Machine.execVote x s
  | .ballot x => Sys2Proof.Machine.execBallot x s
  | .shfl x => Sys2Proof.Machine.execShfl x s
  | .shflup x => Sys2Proof.Machine.execShflup x s
  | .shfldn x => Sys2Proof.Machine.execShfldn x s
  | .shflx x => Sys2Proof.Machine.execShflx x s
  | .redx x => Sys2Proof.Machine.execRedx x s
  | .scanx x => Sys2Proof.Machine.execScanx x s
  | .matchLanes x => Sys2Proof.Machine.execMatchLanes x s
  | .elect x => Sys2Proof.Machine.execElect x s
  | .gbcast x => Sys2Proof.Machine.execGbcast x s
  | .conv x => Sys2Proof.Machine.execConv x s
  | .ld x => Sys2Proof.Machine.execLd x s
  | .st x => Sys2Proof.Machine.execSt x s
  | .lds x => Sys2Proof.Machine.execLds x s
  | .sts x => Sys2Proof.Machine.execSts x s
  | .ldk x => Sys2Proof.Machine.execLdk x s
  | .pref x => Sys2Proof.Machine.execPref x s
  | .cctlL1line x => Sys2Proof.Machine.execCctlL1line x s
  | .cctlL1all x => Sys2Proof.Machine.execCctlL1all x s
  | .cctlDemote x => Sys2Proof.Machine.execCctlDemote x s
  | .fence x => Sys2Proof.Machine.execFence x s
  | .pfencePp x => Sys2Proof.Machine.execPfencePp x s
  | .pfenceDp x => Sys2Proof.Machine.execPfenceDp x s
  | .atom x => Sys2Proof.Machine.execAtom x s
  | .atoms x => Sys2Proof.Machine.execAtoms x s
  | .red x => Sys2Proof.Machine.execRed x s
  | .reds x => Sys2Proof.Machine.execReds x s
  | .atomx x => Sys2Proof.Machine.execAtomx x s
  | .dflush x => Sys2Proof.Machine.execDflush x s
  | .cas x => Sys2Proof.Machine.execCas x s
  | .cass x => Sys2Proof.Machine.execCass x s
  | .ecrd x => Sys2Proof.Machine.execEcrd x s
  | .ecclr x => Sys2Proof.Machine.execEcclr x s
  | .cpy x => Sys2Proof.Machine.execCpy x s
  | .cpyt x => Sys2Proof.Machine.execCpyt x s
  | .cpyg x => Sys2Proof.Machine.execCpyg x s
  | .seminit x => Sys2Proof.Machine.execSeminit x s
  | .semacq x => Sys2Proof.Machine.execSemacq x s
  | .semrel x => Sys2Proof.Machine.execSemrel x s
  | .tbinit x => Sys2Proof.Machine.execTbinit x s
  | .tbexp x => Sys2Proof.Machine.execTbexp x s
  | .tbarr x => Sys2Proof.Machine.execTbarr x s
  | .tbtst x => Sys2Proof.Machine.execTbtst x s
  | .tbwait x => Sys2Proof.Machine.execTbwait x s
  | .bar x => Sys2Proof.Machine.execBar x s
  | .sgput x => Sys2Proof.Machine.execSgput x s
  | .sgputWait x => Sys2Proof.Machine.execSgputWait x s
  | .sgget x => Sys2Proof.Machine.execSgget x s
  | .sggetErr x => Sys2Proof.Machine.execSggetErr x s
  | .sgrel x => Sys2Proof.Machine.execSgrel x s
  | .mma x => Sys2Proof.Machine.execMma x s
  | .mmas x => Sys2Proof.Machine.execMmas x s
  | .mtrn x => Sys2Proof.Machine.execMtrn x s
  | .mprm x => Sys2Proof.Machine.execMprm x s
  | .mred x => Sys2Proof.Machine.execMred x s
  | .mldb x => Sys2Proof.Machine.execMldb x s
  | .mstc x => Sys2Proof.Machine.execMstc x s
  | .mzero x => Sys2Proof.Machine.execMzero x s
  | .mqry x => Sys2Proof.Machine.execMqry x s
  | .rkbind x => Sys2Proof.Machine.execRkbind x s
  | .rkray x => Sys2Proof.Machine.execRkray x s
  | .rkqry x => Sys2Proof.Machine.execRkqry x s
  | .rksav x => Sys2Proof.Machine.execRksav x s
  | .rkres x => Sys2Proof.Machine.execRkres x s
  | .rkref x => Sys2Proof.Machine.execRkref x s
  | .rkflsh x => Sys2Proof.Machine.execRkflsh x s
  | .rkcan x => Sys2Proof.Machine.execRkcan x s
  | .binpop x => Sys2Proof.Machine.execBinpop x s
  | .rstq x => Sys2Proof.Machine.execRstq x s
  | .rstqBin x => Sys2Proof.Machine.execRstqBin x s
  | .frgld x => Sys2Proof.Machine.execFrgld x s
  | .rate x => Sys2Proof.Machine.execRate x s
  | .rgst x => Sys2Proof.Machine.execRgst x s
  | .rgld x => Sys2Proof.Machine.execRgld x s
  | .rgdone x => Sys2Proof.Machine.execRgdone x s
  | .pstat x => Sys2Proof.Machine.execPstat x s
  | .bra x => Sys2Proof.Machine.execBra x s
  | .brx x => Sys2Proof.Machine.execBrx x s
  | .call x => Sys2Proof.Machine.execCall x s
  | .callx x => Sys2Proof.Machine.execCallx x s
  | .ret x => Sys2Proof.Machine.execRet x s
  | .launch x => Sys2Proof.Machine.execLaunch x s
  | .join x => Sys2Proof.Machine.execJoin x s
  | .post x => Sys2Proof.Machine.execPost x s
  | .regroup x => Sys2Proof.Machine.execRegroup x s
  | .trap x => Sys2Proof.Machine.execTrap x s
  | .srd x => Sys2Proof.Machine.execSrd x s
  | .swr x => Sys2Proof.Machine.execSwr x s
  | .twait x => Sys2Proof.Machine.execTwait x s
  | .recx x => Sys2Proof.Machine.execRecx x s
  | .eret x => Sys2Proof.Machine.execEret x s
  | .halt x => Sys2Proof.Machine.execHalt x s
  | .nop => Sys2Proof.Machine.execNop s
  | .wait n sel => Sys2Proof.Machine.execWait n sel s
  | .yield => Sys2Proof.Machine.execYield s
  | .exit => Sys2Proof.Machine.execExit s
  | .brs off => Sys2Proof.Machine.execBrs off s
  | .brp code neg off => Sys2Proof.Machine.execBrp code neg off s
  | .movi imm d => Sys2Proof.Machine.execMovi imm d s
  | .bkpt code => Sys2Proof.Machine.execBkpt code s
  | .rkNld a => Sys2Proof.Machine.execRkNld a s
  | .rkFex d f e => Sys2Proof.Machine.execRkFex d f e s
  | .rkBox d f => Sys2Proof.Machine.execRkBox d f s
  | .rkTri d f => Sys2Proof.Machine.execRkTri d f s
  | .rkPtd d a f => Sys2Proof.Machine.execRkPtd d a f s
  | .rkEed d a f e => Sys2Proof.Machine.execRkEed d a f e s
  | .rkCmpf a b x => Sys2Proof.Machine.execRkCmpf a b x s
  | .rkJmp target => Sys2Proof.Machine.execRkJmp target s
  | .rkJc x target => Sys2Proof.Machine.execRkJc x target s
  | .rkEnq a b => Sys2Proof.Machine.execRkEnq a b s
  | .rkNext a => Sys2Proof.Machine.execRkNext a s
  | .rkNextChild => Sys2Proof.Machine.execRkNextChild s
  | .rkHmin a b => Sys2Proof.Machine.execRkHmin a b s
  | .rkEmit a => Sys2Proof.Machine.execRkEmit a s
  | .rkYld => Sys2Proof.Machine.execRkYld s
  | .rkDone fin => Sys2Proof.Machine.execRkDone fin s
  | .rkFlt code => Sys2Proof.Machine.execRkFlt code s
  | .qLdw d a w im => Sys2Proof.Machine.execQLdw d a w im s
  | .qStw d a w im => Sys2Proof.Machine.execQStw d a w im s
  | .qMovi d im => Sys2Proof.Machine.execQMovi d im s
  | .qMoviHi d im => Sys2Proof.Machine.execQMoviHi d im s
  | .qAdd d a x im => Sys2Proof.Machine.execQAdd d a x im s
  | .qSub d a x im => Sys2Proof.Machine.execQSub d a x im s
  | .qAnd d a x im => Sys2Proof.Machine.execQAnd d a x im s
  | .qOr d a x im => Sys2Proof.Machine.execQOr d a x im s
  | .qShl d a x im => Sys2Proof.Machine.execQShl d a x im s
  | .qShr d a x im => Sys2Proof.Machine.execQShr d a x im s
  | .qCmp d a x c im => Sys2Proof.Machine.execQCmp d a x c im s
  | .qSel d a x im => Sys2Proof.Machine.execQSel d a x im s
  | .qBr a c im => Sys2Proof.Machine.execQBr a c im s
  | .qLoop body n => Sys2Proof.Machine.execQLoop body n s
  | .qDispatch d a w t => Sys2Proof.Machine.execQDispatch d a w t s
  | .qNode d a n g => Sys2Proof.Machine.execQNode d a n g s
  | .qWaitw d a geu w im => Sys2Proof.Machine.execQWaitw d a geu w im s
  | .qSignal d a w im => Sys2Proof.Machine.execQSignal d a w im s
  | .qFence => Sys2Proof.Machine.execQFence s
  | .qPostrd d im => Sys2Proof.Machine.execQPostrd d im s
  | .qPostrdWait d im => Sys2Proof.Machine.execQPostrdWait d im s
  | .qTimeat a => Sys2Proof.Machine.execQTimeat a s
  | .qIntr a im => Sys2Proof.Machine.execQIntr a im s
  | .qErr im => Sys2Proof.Machine.execQErr im s
  | .qHalt => Sys2Proof.Machine.execQHalt s
  | .qNopb => Sys2Proof.Machine.execQNopb s
  | .runBegin pan slot => Sys2Proof.Machine.execRunBegin pan slot s
  | .groupExchange pan slot => Sys2Proof.Machine.execGroupExchange pan slot s
  | .forcedExchange pan slot => Sys2Proof.Machine.execForcedExchange pan slot s
  | .regroupComplete pan team role => Sys2Proof.Machine.execRegroupComplete pan team role s
  | .teamLanding part => Sys2Proof.Machine.execTeamLanding part s
  | .walkComplete pan idx => Sys2Proof.Machine.execWalkComplete pan idx s
  | .invalidationArrival pan part => Sys2Proof.Machine.execInvalidationArrival pan part s
  | .xinvDone part => Sys2Proof.Machine.execXinvDone part s
  | .xinvRange part slot pages => Sys2Proof.Machine.execXinvRange part slot pages s
  | .xinvSlot part slot => Sys2Proof.Machine.execXinvSlot part slot s
  | .xinvPartition part => Sys2Proof.Machine.execXinvPartition part s
  | .xfrRetry part slot => Sys2Proof.Machine.execXfrRetry part slot s
  | .faultRecordPost part => Sys2Proof.Machine.execFaultRecordPost part s
  | .addressSpaceSlotWrite part slot value => Sys2Proof.Machine.execAddressSpaceSlotWrite part slot value s
  | .portFillComplete kind port => Sys2Proof.Machine.execPortFillComplete kind port s
  | .codedWriteback part pa => Sys2Proof.Machine.execCodedWriteback part pa s
  | .xprTblWrite part k off bytes => Sys2Proof.Machine.execXprTblWrite part k off bytes s
  | .xprRetry part slot => Sys2Proof.Machine.execXprRetry part slot s
  | .xprRetryFail part slot => Sys2Proof.Machine.execXprRetryFail part slot s
  | .overflowMove part kind port entry => Sys2Proof.Machine.execOverflowMove part kind port entry s
  | .overflowRelease part kind port entry => Sys2Proof.Machine.execOverflowRelease part kind port entry s
  | .overflowRetry part kind port entry => Sys2Proof.Machine.execOverflowRetry part kind port entry s
  | .portRecordPost part => Sys2Proof.Machine.execPortRecordPost part s
  | .dictionaryLoad port bytes ident => Sys2Proof.Machine.execDictionaryLoad port bytes ident s
  | .bedLoad req => Sys2Proof.Machine.execBedLoad req s
  | .bedWrite req => Sys2Proof.Machine.execBedWrite req s
  | .bedAtomic req => Sys2Proof.Machine.execBedAtomic req s
  | .orderedUpdateArrival req => Sys2Proof.Machine.execOrderedUpdateArrival req s
  | .windowTimer bed => Sys2Proof.Machine.execWindowTimer bed s
  | .bedCloseRequest idx => Sys2Proof.Machine.execBedCloseRequest idx s
  | .exactAdd req => Sys2Proof.Machine.execExactAdd req s
  | .tbInitOperation req => Sys2Proof.Machine.execTbInitOperation req s
  | .tbExpectOperation req => Sys2Proof.Machine.execTbExpectOperation req s
  | .tbArriveOperation req => Sys2Proof.Machine.execTbArriveOperation req s
  | .tbDeliverOperation req => Sys2Proof.Machine.execTbDeliverOperation req s
  | .tbTestOperation req => Sys2Proof.Machine.execTbTestOperation req s
  | .phaseNotice idx => Sys2Proof.Machine.execPhaseNotice idx s
  | .watchRetest pan slot => Sys2Proof.Machine.execWatchRetest pan slot s
  | .mergeBufferEvict bed idx => Sys2Proof.Machine.execMergeBufferEvict bed idx s
  | .lineFillReturn idx => Sys2Proof.Machine.execLineFillReturn idx s
  | .bedPersistRequest idx => Sys2Proof.Machine.execBedPersistRequest idx s
  | .salternBudgetRefill pan => Sys2Proof.Machine.execSalternBudgetRefill pan s
  | .salWaysWrite part mask => Sys2Proof.Machine.execSalWaysWrite part mask s
  | .maskReductionComplete part => Sys2Proof.Machine.execMaskReductionComplete part s
  | .loadReturn idx => Sys2Proof.Machine.execLoadReturn idx s
  | .writeAck idx => Sys2Proof.Machine.execWriteAck idx s
  | .endpointStoreAccept req => Sys2Proof.Machine.execEndpointStoreAccept req s
  | .egressPacketSend port flow => Sys2Proof.Machine.execEgressPacketSend port flow s
  | .engineAdmission pan q => Sys2Proof.Machine.execEngineAdmission pan q s
  | .sluiceStart pan sluice => Sys2Proof.Machine.execSluiceStart pan sluice s
  | .sliceComplete pan sluice => Sys2Proof.Machine.execSliceComplete pan sluice s
  | .evqTailWrite pan value => Sys2Proof.Machine.execEvqTailWrite pan value s
  | .mldbBroadcast pan team set bbuf => Sys2Proof.Machine.execMldbBroadcast pan team set bbuf s
  | .matrixCommandComplete pan quarter => Sys2Proof.Machine.execMatrixCommandComplete pan quarter s
  | .rakeClaim pan => Sys2Proof.Machine.execRakeClaim pan s
  | .claimEntryReread pan idx => Sys2Proof.Machine.execClaimEntryReread pan idx s
  | .visitAdmission pan visit => Sys2Proof.Machine.execVisitAdmission pan visit s
  | .nodeReadReturn pan visit => Sys2Proof.Machine.execNodeReadReturn pan visit s
  | .saveRingReserve pan visit => Sys2Proof.Machine.execSaveRingReserve pan visit s
  | .finishNotice idx => Sys2Proof.Machine.execFinishNotice idx s
  | .graphicsCommandComplete pan idx => Sys2Proof.Machine.execGraphicsCommandComplete pan idx s
  | .streamEnable stream => Sys2Proof.Machine.execStreamEnable stream s
  | .streamDisable stream => Sys2Proof.Machine.execStreamDisable stream s
  | .chainAdmission stream chain => Sys2Proof.Machine.execChainAdmission stream chain s
  | .chainClaimable stream chain => Sys2Proof.Machine.execChainClaimable stream chain s
  | .chainKill stream chain => Sys2Proof.Machine.execChainKill stream chain s
  | .stripSerialize stream strip => Sys2Proof.Machine.execStripSerialize stream strip s
  | .stripEncode stream strip => Sys2Proof.Machine.execStripEncode stream strip s
  | .launchPlace idx => Sys2Proof.Machine.execLaunchPlace idx s
  | .overflowListMove part grid => Sys2Proof.Machine.execOverflowListMove part grid s
  | .postWordAccept idx => Sys2Proof.Machine.execPostWordAccept idx s
  | .nodeRecordEnqueue idx => Sys2Proof.Machine.execNodeRecordEnqueue idx s
  | .nodeTimerExpiry part grid node => Sys2Proof.Machine.execNodeTimerExpiry part grid node s
  | .twaitExpiry pan slot => Sys2Proof.Machine.execTwaitExpiry pan slot s
  | .queueEnable q => Sys2Proof.Machine.execQueueEnable q s
  | .queueDisable q => Sys2Proof.Machine.execQueueDisable q s
  | .qwptrWrite q value => Sys2Proof.Machine.execQwptrWrite q value s
  | .packetHeaderRead q => Sys2Proof.Machine.execPacketHeaderRead q s
  | .packetStart q => Sys2Proof.Machine.execPacketStart q s
  | .queueWaitRecheck q => Sys2Proof.Machine.execQueueWaitRecheck q s
  | .stagedEffectApply q => Sys2Proof.Machine.execStagedEffectApply q s
  | .gridComplete part grid => Sys2Proof.Machine.execGridComplete part grid s
  | .energyTick pan => Sys2Proof.Machine.execEnergyTick pan s
  | .plannerRecompute => Sys2Proof.Machine.execPlannerRecompute s
  | .fllStep pan => Sys2Proof.Machine.execFllStep pan s
  | .deadlineReserveRefill part => Sys2Proof.Machine.execDeadlineReserveRefill part s
  | .teamIdleSeal pan team => Sys2Proof.Machine.execTeamIdleSeal pan team s
  | .panGate pan => Sys2Proof.Machine.execPanGate pan s
  | .schedDrain part pan team sld => Sys2Proof.Machine.execSchedDrain part pan team sld s
  | .schedSeal part pan team sld => Sys2Proof.Machine.execSchedSeal part pan team sld s
  | .schedTeardown part pan team sld => Sys2Proof.Machine.execSchedTeardown part pan team sld s
  | .schedRestore part pan team sld => Sys2Proof.Machine.execSchedRestore part pan team sld s
  | .drainTimeout pan team => Sys2Proof.Machine.execDrainTimeout pan team s
  | .sealTimeout pan team => Sys2Proof.Machine.execSealTimeout pan team s
  | .watchdogExpiry pan team => Sys2Proof.Machine.execWatchdogExpiry pan team s
  | .contextSealed pan team => Sys2Proof.Machine.execContextSealed pan team s
  | .contextRestore idx pan => Sys2Proof.Machine.execContextRestore idx pan s
  | .journalRecordDurable pan => Sys2Proof.Machine.execJournalRecordDurable pan s
  | .panPowerLoss pan keep => Sys2Proof.Machine.execPanPowerLoss pan keep s
  | .panPowerRestore pan => Sys2Proof.Machine.execPanPowerRestore pan s
  | .devicePowerLoss keep => Sys2Proof.Machine.execDevicePowerLoss keep s
  | .deviceReset => Sys2Proof.Machine.execDeviceReset s
  | .firmwareImageReceive img source => Sys2Proof.Machine.execFirmwareImageReceive img source s
  | .rcvRestore pan team => Sys2Proof.Machine.execRcvRestore pan team s
  | .rcvDiscard pan team => Sys2Proof.Machine.execRcvDiscard pan team s
  | .unitError r => Sys2Proof.Machine.execUnitError r s
  | .selfTestComplete idx pass => Sys2Proof.Machine.execSelfTestComplete idx pass s
  | .partitionEnable part => Sys2Proof.Machine.execPartitionEnable part s
  | .partitionDisable part => Sys2Proof.Machine.execPartitionDisable part s
  | .partitionSeal part => Sys2Proof.Machine.execPartitionSeal part s
  | .partitionBusyClear part => Sys2Proof.Machine.execPartitionBusyClear part s
  | .pmPansWrite part k value => Sys2Proof.Machine.execPmPansWrite part k value s
  | .pmOwnWrite extent value => Sys2Proof.Machine.execPmOwnWrite extent value s
  | .attestationQuote part challenge => Sys2Proof.Machine.execAttestationQuote part challenge s
  | .sltWrite p => Sys2Proof.Machine.execSltWrite p s
  | .sltRead p => Sys2Proof.Machine.execSltRead p s
  | .sltAck p => Sys2Proof.Machine.execSltAck p s
  | .sltNack p => Sys2Proof.Machine.execSltNack p s
  | .sltResendTimer vf conn => Sys2Proof.Machine.execSltResendTimer vf conn s
  | .pauseFrameReceive port => Sys2Proof.Machine.execPauseFrameReceive port s
  | .linkUp port peer dict => Sys2Proof.Machine.execLinkUp port peer dict s
  | .sideFrameReceive port f => Sys2Proof.Machine.execSideFrameReceive port f s
  | .remoteRequest port idx => Sys2Proof.Machine.execRemoteRequest port idx s
  | .ptpEnable en => Sys2Proof.Machine.execPtpEnable en s
  | .ptpAnnounce gm => Sys2Proof.Machine.execPtpAnnounce gm s
  | .ptpSync seq master arrival => Sys2Proof.Machine.execPtpSync seq master arrival s
  | .ptpFollowUp seq master => Sys2Proof.Machine.execPtpFollowUp seq master s
  | .ptpDelayReq => Sys2Proof.Machine.execPtpDelayReq s
  | .ptpDelayResp received => Sys2Proof.Machine.execPtpDelayResp received s
  | .announceTimeout => Sys2Proof.Machine.execAnnounceTimeout s
  | .stmSecRead => Sys2Proof.Machine.execStmSecRead s
  | .registerWrite vf r value => Sys2Proof.Machine.execRegisterWrite vf r value s
  | .errorLogPost => Sys2Proof.Machine.execErrorLogPost s
  | .completionRingPost q => Sys2Proof.Machine.execCompletionRingPost q s
  | .timeatExpiry q => Sys2Proof.Machine.execTimeatExpiry q s
  | .brineWindowWriteDone idx => Sys2Proof.Machine.execBrineWindowWriteDone idx s
  | .outputStripDrained stream strip => Sys2Proof.Machine.execOutputStripDrained stream strip s
  | .portLinkLoss port => Sys2Proof.Machine.execPortLinkLoss port s

end Sys2Proof.Machine
end

