-- ==== Sys2Proof/Machine/Place.lean ====
section
/-! DEFINITION. The turns that run micro-words and queue bytecodes, and the placement of one instruction where the next
step runs it (log 6). -/

namespace Sys2Proof.Machine

/-- A turn of a rake visit: the micro-word at its micro-PC takes its step (R276). -/
def State.microTurn (s : State) (run : Instr → State → Host.Outcome State Fault Refusal) : Host.Outcome State Fault Refusal :=
  match tget (s.pan s.actor.1).rake.visits s.actor.2 with
  | none => .next s
  | some v => if s.testing .rake s.actor.1 fun _ => true then .next s else match ((tget (s.pan s.actor.1).rake.binds v.bslot).bind fun b => b.prog[v.mpc]?).bind decodeMicro with
    | some i => run i s
    | none => .next s

/-- A turn of a queue's interpreter: the bytecode at its place takes its step (R342). -/
def State.queueTurn (s : State) (run : Instr → State → Host.Outcome State Fault Refusal) : Host.Outcome State Fault Refusal :=
  let x := s.queue s.actor.1
  match codeAt x.code x.pc with
  | some i => run i s
  | none => .next s

/-- The role that an opcode needs (R155). -/
def placeRole (opc : Nat) : Role :=
  if 0x90 ≤ opc ∧ opc ≤ 0x92 then .feed
  else if 0xA0 ≤ opc ∧ opc ≤ 0xA8 then .matrix
  else if opc = 0xDF ∨ opc = 0xDA ∨ opc = 0xDB then .control
  else .vector

/-- A state with an instruction of a run placed: a team in team slot 0 of pan 0, with a group in slot 0 (128 for CONTROL)
whose one thread stands in a run that holds the instruction's words. -/
def State.placeIsa (s : State) (w : Nat) : State :=
  let opc := w % 256
  let role := placeRole opc
  let slot := if role = .control then 128 else 0
  let ws := (List.range 3).map fun k => BitVec.ofNat 32 (w >>> (32 * k))
  let n := wordCount (ws.headD 0).toNat (ws.getD 1 0).toNat
  let run : RunIn := { addr := 0, cls := (boundClass opc).getD 0, words := ws.take n, set := 1 }
  let g : Group := { team := 0, num := if role = .control then 16 else 0, role := role, st := .run, run := some run, th := [(0, {})] }
  let tm : Team := { grid := 1, num := 0, part := 0, slot := 0, size := 1024 }
  { (s.setTeam 0 0 tm).setGroup 0 slot g with agenda := [.issue 0 slot] }

/-- A state with a micro-word placed: a visit in slot 0 of pan 0 that can step, of a binding whose program is that word. -/
def State.placeMicro (s : State) (w : Word) : State :=
  let b : RkBind := { part := 0, asSlot := 0, prog := [w], stepcap := 1 }
  let v : Visit := { bslot := 0, qid := 0, q := [], box := false, tmin := 0, tmax := 0, tree := 0, hs := 0, st := .ready }
  { s.modPan 0 fun n => { n with rake := { n.rake with binds := [(0, b)], visits := [(0, v)] } } with agenda := [.micro 0 0] }

/-- A state with a bytecode placed: queue 0 runs a program that is that word and a HALT. -/
def State.placeQueue (s : State) (w : Word) : State :=
  { s.modQueue 0 fun _ => { en := true, code := [w, 0xB0000000], phase := .running, packet := 1, len := 1, interp := true } with
    agenda := [.queue 0] }

/-- A state with an instruction placed so that the next step runs it. -/
def State.placed (s : State) (i : Instr) (w : Nat) : State :=
  match microWord i with
  | some _ => s.placeMicro (BitVec.ofNat 32 w)
  | none => match queueWord i with
    | some _ => s.placeQueue (BitVec.ofNat 32 w)
    | none => s.placeIsa w

end Sys2Proof.Machine
end

