-- ==== Sys2Proof/Machine/Step.lean ====
section
/-! DEFINITION. One step: the turn at the head of the agenda is taken (log 1). -/

namespace Sys2Proof.Machine

/-- An instruction, or the illegal-instruction trap where there is none. -/
def State.runInstr (s : State) : Option Instr → Host.Outcome State Fault Refusal
  | some i => exec i s
  | none => .next s.illegal

/-- One turn of the agenda, which has left it. -/
def State.turn (s : State) : Turn → Host.Outcome State Fault Refusal
  | .issue p k =>
    let s1 := ({ s with actor := (p, k) } : State).hadTurn p k
    match s1.atTurn with
    | some i => s1.runInstr i
    | none => .next s1
  | .micro p k => ({ s with actor := (p, k) } : State).microTurn exec
  | .rake p => .next (s.rakeTurn p)
  | .queue q => ({ s with actor := (q, 0) } : State).queueTurn exec
  | .event i => exec i s
  | .advance ns cycles => .next (s.advance ns cycles)

/-- One step. With an empty agenda, a nanosecond and a cycle pass (log 2). -/
def step (s : State) : Host.Outcome State Fault Refusal :=
  match s.agenda with
  | [] => .next (s.advance 1 1)
  | t :: r =>
    match ({ s with agenda := r } : State).turn t with
    | .next s' => .next (s.journal s')
    | .fault f => .fault f
    | .refused f => .refused f

/-- The state with an instruction placed where the next step fetches it, and that step's turn at the head of the agenda
(log 6). -/
def State.withFetchWord (s : State) (nbits w : Nat) : State :=
  match decodeTableWord nbits w with
  | some i => s.placed i w
  | none => s

end Sys2Proof.Machine
end

