-- ==== Sys2Proof/Safety.lean ====
section
/-! DEFINITION. The terms that claims are stated in: what a safe run is, when an instruction executes, and what stands in a
destination afterwards. -/

namespace Sys2Proof

open Sys2Proof.Machine

/-- The memories of a device keep their canonical form. -/
def MemoryWf (s : State) : Prop := s.mem.wf = true ∧ s.xmem.wf = true ∧ s.durable.wf = true

/-- The tables of a device ascend, and its team and visit slots are numbered in range. -/
def TablesAscend (s : State) : Prop :=
  tSorted s.pans = true ∧ tSorted s.parts = true ∧ tSorted s.streams = true ∧ (∀ e ∈ s.streams, tSorted e.2.chains = true) ∧
  (∀ b ∈ s.beds, ∀ ws ∈ b.2.sets, tSorted ws.2 = true) ∧
  (∀ e ∈ s.pans, tSorted e.2.rake.visits = true ∧ (∀ v ∈ e.2.rake.visits, v.1 < 256) ∧
    ∀ c ∈ e.2.core :: e.2.undo, tSorted c.groups = true ∧ tSorted c.teams = true ∧ tSorted c.rings = true ∧ tSorted c.scratch = true ∧
      ∀ t ∈ c.teams, t.1 < 8) ∧
  (∀ x ∈ s.contexts, x.team < 8) ∧ ∀ e ∈ s.rcv, e.2.team < 8

/-- The step from a state goes on. -/
def GoesOn (s : State) : Prop := ∃ t, step s = .next t

/-- The instruction `x` of an opcode executes for the group that issues (R27, R28, R38, R39, R40, R155, R375): the actor's
slot holds the group `g` in the run `r`, of the team `tm`; the encoding is allowed, the role entitled, no register that it
reads or writes is empty and none that it touches is an overtaken write of its lanes; some thread is active; and where a torn
slot would end its threads, the slot is not torn. -/
structure Executes (opc : Nat) (x : Std) (s : State) (g : Group) (r : RunIn) (tm : Team) : Prop where
  issuer : s.issuer = some (g, r, tm)
  pass : gate opc x g r tm false = .pass
  fresh : g.overtaken.any (touches opc x (activeLanes g r x)).contains = false
  some_ : (activeLanes g r x).isEmpty = false
  whole : (tornExits opc x.fn.toNat && (s.asSlot tm.part tm.slot).torn) = false

/-- An active lane of the instruction with its thread, which has not ended. -/
structure InLane (x : Std) (g : Group) (r : RunIn) (l : Nat) (t : Thread) : Prop where
  active : l ∈ activeLanes g r x
  thread : g.thread l = some t
  alive : t.st ≠ .exited

/-- The value of `k` registers, or of a predicate, cut to what the destination holds. -/
def cut (d : Dst) (k v : Nat) : Nat :=
  match d with
  | .none => 0
  | .p _ => v % 2
  | _ => v % 2 ^ (32 * k)

/-- The lane whose result a destination keeps: any active lane for a register of its own, the highest for a g-register, which
all threads of the group share (R166). -/
def keepsLane (x : Std) (g : Group) (r : RunIn) (l : Nat) : Prop :=
  match x.d with
  | .g _ => (activeLanes g r x).getLast? = some l
  | _ => True

/-- What stands in a destination of `k` registers in a lane of the group that acts. -/
def State.landed (t : State) (pan slot l k : Nat) (d : Dst) : Option Nat :=
  (t.group pan slot).bind fun g => (g.thread l).map fun th => dstNat g th k d

/-- The instruction gives in every active lane that keeps it the value of `f`, from the registers before it. -/
def Gives (opc : Nat) (i : Instr) (x : Std) (k : Nat) (f : Group → Thread → Nat) : Prop :=
  ∀ (s : State) (g : Group) (r : RunIn) (tm : Team), Executes opc x s g r tm →
    ∃ t, exec i s = .next t ∧ ∀ l th, InLane x g r l th → keepsLane x g r l →
      Sys2Proof.State.landed t s.actor.1 s.actor.2 l k x.d = some (cut x.d k (f g th))

/-- The instruction leaves in every active lane that keeps it a value of which `P` holds, which is told the group and the
thread as they stood before it. -/
def Yields (opc : Nat) (i : Instr) (x : Std) (k : Nat) (P : Group → Thread → Nat → Prop) : Prop :=
  ∀ (s : State) (g : Group) (r : RunIn) (tm : Team), Executes opc x s g r tm →
    ∃ t, exec i s = .next t ∧ ∀ l th, InLane x g r l th → keepsLane x g r l →
      ∃ v, Sys2Proof.State.landed t s.actor.1 s.actor.2 l k x.d = some v ∧ P g th v

/-- Element `e` of a value that is cut into elements of `w` bits (R189). -/
def element (w e v : Nat) : BitVec w := BitVec.ofNat w (v >>> (w * e))

/-- `Val` of R193: a bit pattern as an integer, two's complement where `s` is 1. -/
def ival (s : Nat) {w : Nat} (a : BitVec w) : Int := if s = 1 then a.toInt else (a.toNat : Int)

/-- An integer bounded to what `w` bits hold, signed where `s` is 1, as `Sat` of R193 bounds it. -/
def bounded (w s : Nat) (x : Int) : Int :=
  if s = 1 then Max.max (-(2 ^ (w - 1))) (Min.min (2 ^ (w - 1) - 1) x) else Max.max 0 (Min.min (2 ^ w - 1) x)

/-- `Res` of R193: the pattern of an integer, bounded first where `sat` is 1. -/
def resBits (w s sat : Nat) (x : Int) : BitVec w := if sat = 1 then BitVec.ofInt w (bounded w s x) else BitVec.ofInt w x

/-- The instruction acts on each element (R189): `P` relates the elements of A, B and C to that of the result. -/
def PerElement (opc : Nat) (i : Instr) (x : Std)
    (P : {w : Nat} → BitVec w → BitVec w → BitVec w → BitVec w → Prop) : Prop :=
  Yields opc i x (widRegs (widOf x)) fun g th v => ∀ e, e < elemN (widOf x) →
    P (element (elemW (widOf x)) e (intVal (widOf x) g th x.a)) (element (elemW (widOf x)) e (intVal (widOf x) g th x.b))
      (element (elemW (widOf x)) e (intVal (widOf x) g th x.c)) (element (elemW (widOf x)) e v)

/-- The flags of a lane's thread. -/
def State.flagsAt (t : State) (pan slot l : Nat) : Option (BitVec 5) :=
  (t.group pan slot).bind fun g => (g.thread l).map fun th => th.flags

/-- A floating-point instruction gives in every active lane that keeps it the code of `f`, and raises the flags of `f` in the
thread of every active lane and none in any other (R167, R184, R210). -/
def GivesF (opc : Nat) (i : Instr) (x : Std) (k : Nat) (f : Group → Nat → Thread → FRes) : Prop :=
  ∀ (s : State) (g : Group) (r : RunIn) (tm : Team), Executes opc x s g r tm →
    ∃ t, exec i s = .next t ∧
      (∀ l th, InLane x g r l th → keepsLane x g r l →
        Sys2Proof.State.landed t s.actor.1 s.actor.2 l k x.d = some (cut x.d k (f g l th).code)) ∧
      (∀ l th, InLane x g r l th →
        Sys2Proof.State.flagsAt t s.actor.1 s.actor.2 l = some (th.flags ||| BitVec.ofNat 5 (f g l th).flags))

/-! ## What an instruction leaves -/

/-- A group stands as another does but for its active place (R164). -/
def SamePlace (a b : Group) : Prop :=
  a = { b with active := a.active, readySince := a.readySince, activeSince := a.activeSince }

/-- What an exchange of active places may change of a group slot. -/
def PlaceOnly (a b : Option Group) : Prop :=
  match a, b with
  | some x, some y => SamePlace x y
  | none, none => True
  | _, _ => False

/-- Only the group in one slot of one pan has moved: every byte of memory, every other part of the device, every other pan,
and every other part of this pan, its scratchpad among them, is as it was; the energy of the tick is metered, other
groups of the pan may have gained or lost their active place, and which of them stand before it after a yield may have changed. -/
structure OnlyGroup (s t : State) (p k : Nat) : Prop where
  device : t = { s with pans := t.pans }
  pans : ∀ q, q ≠ p → t.pan q = s.pan q
  pan : t.pan p = { s.pan p with
    core := { (s.pan p).core with groups := (t.pan p).core.groups }
    behind := (t.pan p).behind
    pw := { (s.pan p).pw with metered := (t.pan p).pw.metered } }
  groups : ∀ j, j ≠ k → PlaceOnly (t.group p j) (s.group p j)

/-- A thread is as it was but for its place in the program, its flags, and a destination of `k` registers. -/
structure OnlyDst (a b : Thread) (d : Dst) (k : Nat) : Prop where
  rest : b = { a with addr := b.addr, entry := b.entry, v := b.v, ve := b.ve, p := b.p, pe := b.pe, t := b.t, flags := b.flags }
  v : ∀ n, (∀ m, d = .v m → n < m.toNat ∨ m.toNat + k ≤ n) → b.rv n = a.rv n ∧ b.ve.getLsbD n = a.ve.getLsbD n
  t : ∀ n, (∀ m, d = .t m → n < m.toNat ∨ m.toNat + k ≤ n) → b.rt n = a.rt n
  p : ∀ n, (∀ m, d = .p m → n ≠ m.toNat) → b.p.getLsbD n = a.p.getLsbD n ∧ b.pe.getLsbD n = a.pe.getLsbD n

/-- A group is as it was but for its place in the program, its active place, and a destination of `k` registers in the lanes
`ls`: every counter, every outstanding issue, every other register of every thread. -/
structure OnlyLanes (g h : Group) (d : Dst) (k : Nat) (ls : List Nat) : Prop where
  rest : h = { g with
    st := h.st, active := h.active, readySince := h.readySince, activeSince := h.activeSince
    g := h.g, ge := h.ge, run := h.run, overtaken := h.overtaken, th := h.th }
  regs : ∀ n, (∀ m, d = .g m → n < m.toNat ∨ m.toNat + k ≤ n) → h.rg n = g.rg n ∧ h.ge.getLsbD n = g.ge.getLsbD n
  same : ∀ l a, g.thread l = some a → ∃ b, h.thread l = some b ∧
    OnlyDst a b (if l ∈ ls then d else .none) k

/-- An instruction that executes with a thread that has not ended changes only its group, and of that only the destination of
`k` registers in its active lanes; `fl` relates each thread's flags after it to those before. -/
def Frames (opc : Nat) (i : Instr) (x : Std) (k : Nat) (fl : BitVec 5 → BitVec 5 → Prop) : Prop :=
  ∀ (s : State) (g : Group) (r : RunIn) (tm : Team), Executes opc x s g r tm → (∃ l th, InLane x g r l th) →
    ∃ t h, exec i s = .next t ∧ OnlyGroup s t s.actor.1 s.actor.2 ∧ t.group s.actor.1 s.actor.2 = some h ∧
      OnlyLanes g h x.d k (activeLanes g r x) ∧
      ∀ l a b, g.thread l = some a → h.thread l = some b → fl a.flags b.flags

/-- No flag of the first is lost in the second. -/
def FlagsStick (a b : BitVec 5) : Prop := a &&& b = a

end Sys2Proof
end

