-- ==== Sys2Proof/Certificates/Slice0/Obligations.lean ====
section
/-! DEFINITION. The statements for the provers. -/

open Sys2Proof Sys2Proof.Machine

/-! ## Integer instructions -/

/-- R193: the element results of ADD, SUB, ADDSAT, SUBSAT, MULLO, MULHI, MAD, MIN, MAX, ABS, NEG, AVG and CLAMP. -/
def Obligations.ElementArithmetic : Prop :=
  ∀ x : Std,
    PerElement 0x00 (.add x) x (fun {w} a b _ v => v = BitVec.ofInt w (ival (sgnOf x) a + ival (sgnOf x) b)) ∧
    PerElement 0x01 (.sub x) x (fun {w} a b _ v => v = BitVec.ofInt w (ival (sgnOf x) a - ival (sgnOf x) b)) ∧
    PerElement 0x0E (.addsat x) x (fun {w} a b _ v =>
      v = BitVec.ofInt w (bounded w (sgnOf x) (ival (sgnOf x) a + ival (sgnB x) b))) ∧
    PerElement 0x0F (.subsat x) x (fun {w} a b _ v =>
      v = BitVec.ofInt w (bounded w (sgnOf x) (ival (sgnOf x) a - ival (sgnB x) b))) ∧
    PerElement 0x04 (.mullo x) x (fun {w} a b _ v =>
      v = resBits w (sgnOf x) (satOf x) (ival (sgnOf x) a * ival (sgnOf x) b)) ∧
    PerElement 0x05 (.mulhi x) x (fun {w} a b _ v => v = BitVec.ofInt w (ival (sgnOf x) a * ival (sgnOf x) b / 2 ^ w)) ∧
    PerElement 0x06 (.mad x) x (fun {w} a b c v =>
      v = resBits w (sgnOf x) (satOf x) (ival (sgnOf x) a * ival (sgnOf x) b + ival (sgnOf x) c)) ∧
    PerElement 0x0A (.min x) x (fun {_} a b _ v =>
      ival (sgnOf x) v = Min.min (ival (sgnOf x) a) (ival (sgnOf x) b)) ∧
    PerElement 0x0B (.max x) x (fun {_} a b _ v =>
      ival (sgnOf x) v = Max.max (ival (sgnOf x) a) (ival (sgnOf x) b)) ∧
    PerElement 0x0C (.abs x) x (fun {w} a _ _ v => v = resBits w 1 (satOf x) (a.toInt.natAbs : Int)) ∧
    PerElement 0x0D (.neg x) x (fun {w} a _ _ v => v = resBits w (sgnOf x) (satOf x) (-ival (sgnOf x) a)) ∧
    PerElement 0x1C (.avg x) x (fun {w} a b _ v =>
      v = BitVec.ofInt w ((ival (sgnOf x) a + ival (sgnOf x) b + ((opsOf x % 2 : Nat) : Int)) / 2)) ∧
    PerElement 0x14 (.clamp x) x (fun {_} a b c v =>
      ival (sgnOf x) v = Min.min (ival (sgnOf x) c) (Max.max (ival (sgnOf x) a) (ival (sgnOf x) b)))

/-- R194 and R195: the carry chain of ADDC and SUBB, the wide multiply-add MADW, and DIV and REM with their zero divisors. -/
def Obligations.CarryProductQuotient : Prop :=
  ∀ x : Std,
    Yields 0x02 (.addc x) x 2 (fun g th v =>
      let n := srcNat g th 1 x.a + srcNat g th 1 x.b + srcNat g th 1 x.c % 2
      (element 32 0 v).toNat = n % 2 ^ 32 ∧ (element 32 1 v).toNat = n / 2 ^ 32) ∧
    Yields 0x03 (.subb x) x 2 (fun g th v =>
      let n : Int := (srcNat g th 1 x.a : Int) - srcNat g th 1 x.b - (srcNat g th 1 x.c % 2 : Nat)
      element 32 0 v = BitVec.ofInt 32 n ∧ (element 32 1 v).toNat = if n < 0 then 1 else 0) ∧
    Yields 0x07 (.madw x) x 2 (fun g th v =>
      element 64 0 v = resBits 64 (sgnOf x) (satOf x)
        (ival (sgnOf x) (element 32 0 (srcNat g th 1 x.a)) * ival (sgnOf x) (element 32 0 (srcNat g th 1 x.b)) +
          ival (sgnOf x) (element 64 0 (srcNat g th 2 x.c)))) ∧
    PerElement 0x08 (.div x) x (fun {w} a b _ v =>
      (b = 0 → (sgnOf x = 0 → v = BitVec.allOnes w) ∧ (sgnOf x = 1 → v = if a.slt 0 then BitVec.intMin w else BitVec.intMax w)) ∧
      (b ≠ 0 → v = resBits w (sgnOf x) (satOf x) (Int.tdiv (ival (sgnOf x) a) (ival (sgnOf x) b)))) ∧
    PerElement 0x09 (.rem x) x (fun {w} a b _ v =>
      (b = 0 → v = a) ∧ (b ≠ 0 → v = BitVec.ofInt w (Int.tmod (ival (sgnOf x) a) (ival (sgnOf x) b))))

/-- R196 to R199: LEA, ICMP, SEL, MOV, SAD, DOT4 and DOT2. -/
def Obligations.AddressCompareDot : Prop :=
  ∀ x : Std,
    Yields 0x10 (.lea x) x 2 (fun g th v =>
      let n := srcNat g th 1 x.c
      element 64 0 v = BitVec.ofInt 64 ((srcNat g th 2 x.a : Int) +
        if 64 ≤ n then 0 else ival (sgnOf x) (element 32 0 (srcNat g th 1 x.b)) * 2 ^ n)) ∧
    Yields 0x11 (.icmp x) x 1 (fun g th v =>
      let a := ival (sgnOf x) (element (elemW (widOf x)) 0 (srcNat g th (widRegs (widOf x)) x.a))
      let b := ival (sgnOf x) (element (elemW (widOf x)) 0 (srcNat g th (widRegs (widOf x)) x.b))
      v = 1 ↔ (opsOf x = 0 ∧ a = b) ∨ (opsOf x = 1 ∧ a ≠ b) ∨ (opsOf x = 2 ∧ a < b) ∨ (opsOf x = 3 ∧ b ≤ a)) ∧
    Yields 0x12 (.sel x) x (widRegs (widOf x)) (fun g th v =>
      v = if srcNat g th 1 x.a = 1 then srcNat g th (widRegs (widOf x)) x.b else srcNat g th (widRegs (widOf x)) x.c) ∧
    Yields 0x13 (.mov x) x (widRegs (widOf x)) (fun g th v => v = srcNat g th (widRegs (widOf x)) x.a) ∧
    Yields 0x15 (.sad x) x 1 (fun g th v =>
      let w := elemW (widOf x)
      let d (e : Nat) : Nat := (ival (sgnOf x) (element w e (intVal (widOf x) g th x.a)) -
        ival (sgnOf x) (element w e (intVal (widOf x) g th x.b))).natAbs
      v = (srcNat g th 1 x.c + ((List.range (elemN (widOf x))).map d).sum) % 2 ^ 32) ∧
    Yields 0x16 (.dot4 x) x 1 (fun g th v =>
      let p (e : Nat) : Int := ival (sgnOf x) (element 8 e (intVal 3 g th x.a)) * ival (sgnB x) (element 8 e (intVal 3 g th x.b))
      let sr := if sgnOf x = 1 ∨ opsOf x = 1 then 1 else 0
      element 32 0 v = resBits 32 sr (satOf x) (ival sr (element 32 0 (srcNat g th 1 x.c)) + p 0 + p 1 + p 2 + p 3)) ∧
    Yields 0x17 (.dot2 x) x 1 (fun g th v =>
      let p (e : Nat) : Int :=
        ival (sgnOf x) (element 16 e (intVal 2 g th x.a)) * ival (sgnB x) (element 16 e (intVal 2 g th x.b))
      let sr := if sgnOf x = 1 ∨ opsOf x = 1 then 1 else 0
      element 32 0 v = resBits 32 sr (satOf x) (ival sr (element 32 0 (srcNat g th 1 x.c)) + p 0 + p 1))

/-- The amount of a shift: one 32-bit value under WID 00 and 01, the matching element of B in packed forms (R203). -/
def shiftAmount (x : Std) (g : Group) (th : Thread) (e : Nat) : Nat :=
  if 2 ≤ widOf x then (element (elemW (widOf x)) e (intVal (widOf x) g th x.b)).toNat else srcNat g th 1 x.b

/-- A shift acts on each element of A by its amount, which is never masked (R203). -/
def Shifts (opc : Nat) (i : Instr) (x : Std) (f : {w : Nat} → BitVec w → Nat → BitVec w) : Prop :=
  Yields opc i x (widRegs (widOf x)) fun g th v => ∀ e, e < elemN (widOf x) →
    element (elemW (widOf x)) e v = f (element (elemW (widOf x)) e (intVal (widOf x) g th x.a)) (shiftAmount x g th e)

/-- R203 and R204: the shifts, the rotations and the funnel shifts. -/
def Obligations.ShiftsAndFunnels : Prop :=
  ∀ x : Std,
    Shifts 0x27 (.shl x) x (fun {_} a n => a <<< n) ∧
    Shifts 0x28 (.shr x) x (fun {_} a n => a >>> n) ∧
    Shifts 0x29 (.sar x) x (fun {_} a n => a.sshiftRight n) ∧
    Shifts 0x2A (.rol x) x (fun {_} a n => a.rotateLeft n) ∧
    Shifts 0x2B (.ror x) x (fun {_} a n => a.rotateRight n) ∧
    Yields 0x2C (.fshl x) x (widRegs (widOf x)) (fun g th v =>
      let w := elemW (widOf x)
      let k := widRegs (widOf x)
      let ab : BitVec (w + w) := element w 0 (srcNat g th k x.a) ++ element w 0 (srcNat g th k x.b)
      element w 0 v = (ab <<< (srcNat g th 1 x.c % 64)).extractLsb' w w) ∧
    Yields 0x2D (.fshr x) x (widRegs (widOf x)) (fun g th v =>
      let w := elemW (widOf x)
      let k := widRegs (widOf x)
      let ab : BitVec (w + w) := element w 0 (srcNat g th k x.a) ++ element w 0 (srcNat g th k x.b)
      element w 0 v = (ab >>> (srcNat g th 1 x.c % 64)).extractLsb' 0 w)

/-- R200, R201, R205, R206: CVTI, PACK, UNPK and BYSEL; bit fields by position and length, counts of bits, and the reversal of
bits. -/
def Obligations.WidthsFieldsAndCounts : Prop :=
  (∀ x : Std,
    Yields 0x18 (.cvti x) x (widRegs (widOf x)) (fun g th v =>
      let k := 8 * 2 ^ opsOf x
      let w := elemW (widOf x)
      let n := ival (sgnOf x) (element k 0 (srcNat g th (if opsOf x = 3 then 2 else 1) x.a))
      element w 0 v = if k < w then BitVec.ofInt w n else resBits w (sgnOf x) (satOf x) n) ∧
    Yields 0x1A (.pack x) x 1 (fun g th v =>
      let m := if widOf x = 2 then 16 else 8
      let r (n : BitVec (2 * m)) : BitVec m := resBits m (sgnOf x) (satOf x) (ival (sgnOf x) n)
      ∀ e, e < 16 / m → element m e v = r (element (2 * m) e (packSrc (2 * m) g th x.a)) ∧
        element m (16 / m + e) v = r (element (2 * m) e (packSrc (2 * m) g th x.b))) ∧
    Yields 0x1B (.unpk x) x 2 (fun g th v =>
      let m := if widOf x = 2 then 16 else 8
      ∀ e, e < 32 / m → element (2 * m) e v = BitVec.ofInt (2 * m) (ival (sgnOf x) (element m e (packSrc m g th x.a)))) ∧
    Yields 0x19 (.bysel x) x 1 (fun g th v =>
      let c : BitVec 32 := element 32 0 (srcNat g th 1 x.c)
      ∀ i, i < 4 → element 8 i v =
        if 1 ≤ i ∧ c.getLsbD (16 + i) = true then (if (element 8 (i - 1) v).getLsbD 7 then BitVec.allOnes 8 else 0)
        else if c.getLsbD (4 * i + 2) then 0
        else element 8 (element 2 0 (srcNat g th 1 x.c >>> (4 * i))).toNat
          (if c.getLsbD (4 * i + 3) then srcNat g th 1 x.b else srcNat g th 1 x.a))) ∧
  (∀ x : Std,
    let w := elemW (widOf x)
    let k := widRegs (widOf x)
    Yields 0x2E (.bfe x) x k (fun g th v =>
      let len := Nat.min (srcNat g th 1 x.c) w
      let f : Int := ival (sgnOf x) (element w 0 (srcNat g th k x.a)) / 2 ^ (srcNat g th 1 x.b) % 2 ^ len
      element w 0 v = if sgnOf x = 1 then (BitVec.ofInt len f).signExtend w else (BitVec.ofInt len f).setWidth w) ∧
    Yields 0x2F (.bfi x) x k (fun g th v =>
      let pos := srcNat g th 1 x.b
      let mask : BitVec w := BitVec.ofNat w (2 ^ Nat.min (srcNat g th 1 x.c) w - 1) <<< pos
      element w 0 v = (element w 0 (dstNat g th k x.d) &&& ~~~mask) ||| ((element w 0 (srcNat g th k x.a) <<< pos) &&& mask)) ∧
    Yields 0x34 (.bmsk x) x k (fun g th v =>
      element w 0 v = BitVec.ofNat w (2 ^ Nat.min (srcNat g th 1 x.b) w - 1) <<< srcNat g th 1 x.a) ∧
    Yields 0x30 (.popc x) x 1 (fun g th v => v = (List.range w).countP fun j => (srcNat g th k x.a).testBit j) ∧
    Yields 0x31 (.clz x) x 1 (fun g th v =>
      let a := srcNat g th k x.a
      v ≤ w ∧ (∀ j, j < v → a.testBit (w - 1 - j) = false) ∧ (v < w → a.testBit (w - 1 - v) = true)) ∧
    Yields 0x32 (.ctz x) x 1 (fun g th v =>
      let a := srcNat g th k x.a
      v ≤ w ∧ (∀ j, j < v → a.testBit j = false) ∧ (v < w → a.testBit v = true)) ∧
    Yields 0x33 (.brev x) x k (fun g th v => ∀ j, j < w → v.testBit j = (srcNat g th k x.a).testBit (w - 1 - j)))

/-- R202 and R207: AND, OR, XOR, ANDN, ORN and NOT bit by bit, and LOGT by its truth table, of which the old destination is an
input; PLOGT by its truth table, P2V of the predicates that its mask names, and V2P, which writes the predicates that its B names and
leaves the others; both wait while such a predicate is empty, which V2P leaves to the earlier producer. -/
def Obligations.BitwiseAndPredicates : Prop :=
  (∀ x : Std,
    PerElement 0x20 (.and x) x (fun {_} a b _ v => v = a &&& b) ∧
    PerElement 0x21 (.or x) x (fun {_} a b _ v => v = a ||| b) ∧
    PerElement 0x22 (.xor x) x (fun {_} a b _ v => v = a ^^^ b) ∧
    PerElement 0x23 (.andn x) x (fun {_} a b _ v => v = a &&& ~~~b) ∧
    PerElement 0x24 (.orn x) x (fun {_} a b _ v => v = a ||| ~~~b) ∧
    PerElement 0x25 (.not x) x (fun {_} a _ _ v => v = ~~~a) ∧
    Yields 0x26 (.logt x) x (widRegs (widOf x)) (fun g th v => ∀ j, j < elemW (widOf x) →
      v.testBit j = (lutOf x.c).testBit (((srcNat g th (widRegs (widOf x)) x.a).testBit j).toNat +
        2 * ((srcNat g th (widRegs (widOf x)) x.b).testBit j).toNat +
        4 * ((dstNat g th (widRegs (widOf x)) x.d).testBit j).toNat))) ∧
  (∀ x : Std,
    Yields 0x35 (.plogt x) x 1 (fun g th v =>
      v.testBit 0 = (lutOf x.c).testBit ((srcNat g th 1 x.a) + 2 * (srcNat g th 1 x.b) + 4 * (dstNat g th 1 x.d))) ∧
    ∀ s g r tm,
      (Executes 0x36 x s g r tm →
        (∀ l th, l ∈ activeLanes g r x → g.thread l = some th → th.pe &&& BitVec.ofNat 32 (srcNat g th 1 x.a) = 0) →
        ∃ t, exec (.p2v x) s = .next t ∧ ∀ l th, InLane x g r l th → keepsLane x g r l →
          Sys2Proof.State.landed t s.actor.1 s.actor.2 l 1 x.d = some ((th.p &&& BitVec.ofNat 32 (srcNat g th 1 x.a)).toNat)) ∧
      (Executes 0x37 x s g r tm →
        (∀ l th, l ∈ activeLanes g r x → g.thread l = some th → th.pe &&& BitVec.ofNat 32 (srcNat g th 1 x.b) = 0) →
        ∃ t, exec (.v2p x) s = .next t ∧ ∀ l th, InLane x g r l th → ∃ h u,
          OnlyGroup s t s.actor.1 s.actor.2 ∧ t.group s.actor.1 s.actor.2 = some h ∧ h.thread l = some u ∧
          u = { th with addr := u.addr, entry := u.entry, p := u.p } ∧ ∀ j, j < 32 →
            u.p.getLsbD j = if (srcNat g th 1 x.b).testBit j then (srcNat g th 1 x.a).testBit j else th.p.getLsbD j))

/-! ## Floating-point and conversion instructions -/

/-- The rational number that a finite value is. -/
def ratOf : FVal → ℚ
  | .fin neg n d => if neg then -((n : ℚ) / d) else (n : ℚ) / d
  | _ => 0

/-- A rational number as an exact value; a zero has the sign `zneg`. -/
def ofRat (zneg : Bool) (q : ℚ) : FVal :=
  if q = 0 then .fin zneg 0 1 else .fin (decide (q < 0)) q.num.natAbs q.den

/-- `Arith` of R213: a NaN operand or an invalid operation gives the canonical NaN, the latter and a signalling operand raise
fv; else the exact value is rounded once. -/
def arith (m : Fmt) (ops : List FVal) (invalid : Bool) (exact : FVal) (rnd : Nat) : FRes :=
  if ops.any FVal.isNan || invalid then { code := canonNan m, flags := if ops.any FVal.isSig || invalid then fv else 0 }
  else roundF m exact rnd

/-- The exact sum of two values that are neither NaN nor opposite infinities (R181, R213). -/
def wholeSum (x y : FVal) (rnd : Nat) : FVal :=
  if x.isInf then x else if y.isInf then y
  else ofRat ((x.isZero && x.neg && y.isZero && y.neg) ||
    (rnd == 3 && !(x.isZero && !x.neg && y.isZero && !y.neg))) (ratOf x + ratOf y)

/-- The exact product of two values that are neither NaN nor a zero and an infinity (R213). -/
def wholeProduct (x y : FVal) : FVal :=
  if x.isInf || y.isInf then .inf (x.neg != y.neg) else ofRat (x.neg != y.neg) (ratOf x * ratOf y)

/-- A zero and an infinity, in either order (R184). -/
def zeroTimesInf (x y : FVal) : Bool := (x.isZero && y.isInf) || (x.isInf && y.isZero)

/-- Infinities of opposite signs (R184). -/
def oppositeInf (x y : FVal) : Bool := x.isInf && y.isInf && x.neg != y.neg

/-- FADD of R213 on codes after sign control. -/
def addSpec (m : Fmt) (a b rnd : Nat) : FRes :=
  let x := decodeF m a
  let y := decodeF m b
  arith m [x, y] (oppositeInf x y) (wholeSum x y rnd) rnd

/-- FFMA of R213 on codes after sign control: 0 × ∞ is invalid even where C is a quiet NaN. -/
def fmaSpec (m : Fmt) (a b c rnd : Nat) : FRes :=
  let x := decodeF m a
  let y := decodeF m b
  let z := decodeF m c
  let p := wholeProduct x y
  let nan := x.isNan || y.isNan
  arith m [x, y, z] ((!nan && zeroTimesInf x y) || (!nan && !zeroTimesInf x y && oppositeInf p z)) (wholeSum p z rnd) rnd

/-- FDIV of R213 on codes after sign control. -/
def divSpec (m : Fmt) (a b rnd : Nat) : FRes :=
  let x := decodeF m a
  let y := decodeF m b
  if !x.isNan && !y.isNan && y.isZero && !x.isZero then
    { code := infCode m (x.neg != y.neg), flags := if x.isInf then 0 else fz }
  else arith m [x, y] ((x.isZero && y.isZero) || (x.isInf && y.isInf))
    (if x.isInf then .inf (x.neg != y.neg) else if y.isInf then .fin (x.neg != y.neg) 0 1
      else ofRat (x.neg != y.neg) (ratOf x / ratOf y)) rnd

/-- A float instruction gives in each element the result of `f` on the elements of A, B and C, in the format of PREC, and
raises the flags of all its elements (R209, R210). -/
def FloatElements (opc : Nat) (i : Instr) (x : Std) (f : Fmt → Nat → Nat → Nat → FRes) : Prop :=
  ∀ (s : State) (g : Group) (r : RunIn) (tm : Team), Executes opc x s g r tm →
    ∃ t, exec i s = .next t ∧ ∀ l th, InLane x g r l th →
      let m := precFmt (precOf x)
      let res (e : Nat) : FRes := f m (floatElem (precOf x) g th x.a e) (floatElem (precOf x) g th x.b e)
        (floatElem (precOf x) g th x.c e)
      (keepsLane x g r l → ∃ v, Sys2Proof.State.landed t s.actor.1 s.actor.2 l (precRegs (precOf x)) x.d = some v ∧
        ∀ e, e < precN (precOf x) → (element m.w e v).toNat = (res e).code) ∧
      Sys2Proof.State.flagsAt t s.actor.1 s.actor.2 l = some (th.flags ||| BitVec.ofNat 5 (res 0).flags |||
        if precN (precOf x) = 2 then BitVec.ofNat 5 (res 1).flags else 0)

/-- R213 and R214: FADD, FSUB, FMUL, FFMA and FDIV, each rounded once from the exact rational result; HFMA2 with the B element that
SGC chooses for each element of A, and FDOTP2, whose two products and addend are summed exactly and rounded once. -/
def Obligations.FloatArithmeticAndProducts : Prop :=
  (∀ x : Std,
    FloatElements 0x40 (.fadd x) x (fun m a b _ => addSpec m (signCtl m a (sgc25 x)) (signCtl m b (sgc26 x)) (rndOf x)) ∧
    FloatElements 0x41 (.fsub x) x (fun m a b _ => addSpec m (signCtl m a (sgc25 x)) (signCtl m b (!sgc26 x)) (rndOf x)) ∧
    FloatElements 0x42 (.fmul x) x (fun m a b _ =>
      let p := decodeF m (signCtl m a (sgc25 x))
      let q := decodeF m (signCtl m b (sgc26 x))
      arith m [p, q] (zeroTimesInf p q) (wholeProduct p q) (rndOf x)) ∧
    FloatElements 0x43 (.ffma x) x (fun m a b c => fmaSpec m (signCtl m a (sgc25 x)) b (signCtl m c (sgc26 x)) (rndOf x)) ∧
    FloatElements 0x50 (.fdiv x) x (fun m a b _ => divSpec m (signCtl m a (sgc25 x)) (signCtl m b (sgc26 x)) (rndOf x))) ∧
  (∀ x : Std,
    let m := precFmt (precOf x)
    GivesF 0x5A (.hfma2 x) x 1 (fun g _ th =>
      let a (e : Nat) := floatElem (precOf x) g th x.a e
      let b (e : Nat) := floatElem (precOf x) g th x.b e
      let c (e : Nat) := floatElem (precOf x) g th x.c e
      let lo := fmaSpec m (a 0) (b (if sgcOf x = 2 ∨ sgcOf x = 3 then 1 else 0)) (c 0) (rndOf x)
      let hi := fmaSpec m (a 1) (b (if sgcOf x = 0 ∨ sgcOf x = 2 then 1 else 0)) (c 1) (rndOf x)
      { code := lo.code + 2 ^ 16 * hi.code, flags := lo.flags ||| hi.flags }) ∧
    GivesF 0x59 (.fdotp2 x) x 1 (fun g _ th =>
      let e (src : Src) (k : Nat) : FVal := decodeF m (floatElem (precOf x) g th src k)
      let w := decodeF f32 (signCtl f32 (floatElem 0 g th x.c 0) (sgc26 x))
      let neg (v : FVal) : FVal := if sgc25 x then v.negate else v
      let p0 := neg (wholeProduct (e x.a 0) (e x.b 0))
      let p1 := neg (wholeProduct (e x.a 1) (e x.b 1))
      let ops := [e x.a 0, e x.a 1, e x.b 0, e x.b 1, w]
      let bad (k : Nat) : Bool := !(e x.a k).isNan && !(e x.b k).isNan && zeroTimesInf (e x.a k) (e x.b k)
      let whole (k : Nat) (p : FVal) : List FVal := if (e x.a k).isNan || (e x.b k).isNan then [] else [p]
      let sums := w :: (whole 0 p0 ++ whole 1 p1)
      let opp := sums.contains (.inf false) && sums.contains (.inf true)
      let sum : ℚ := ratOf w + ratOf p0 + ratOf p1
      let zneg := (w.isZero && w.neg && p0.isZero && p0.neg && p1.isZero && p1.neg) ||
        (rndOf x == 3 && !(w.isZero && !w.neg && p0.isZero && !p0.neg && p1.isZero && !p1.neg))
      arith f32 ops (bad 0 || bad 1 || opp)
        (if p0.isInf then p0 else if p1.isInf then p1 else if w.isInf then w else ofRat zneg sum) (rndOf x)))

/-- The order of two values that are not NaN, −0 below +0 (R215). -/
def below (x y : FVal) : Bool :=
  match x, y with
  | .inf a, .inf b => a && !b
  | .inf a, _ => a
  | _, .inf b => !b
  | _, _ => decide (ratOf x < ratOf y) || (x.isZero && y.isZero && x.neg && !y.neg)

/-- FMIN or FMAX (`num`), FMINM or FMAXM on codes after sign control: one operand's code unchanged, or the canonical NaN
(R215). -/
def minMaxSpec (m : Fmt) (a b : Nat) (less num : Bool) : FRes :=
  let x := decodeF m a
  let y := decodeF m b
  let code :=
    if x.isNan && y.isNan then canonNan m
    else if x.isNan then (if num then b else canonNan m)
    else if y.isNan then (if num then a else canonNan m)
    else if less then (if below x y then a else b) else (if below x y then b else a)
  { code := code, flags := if x.isSig || y.isSig then fv else 0 }

/-- The class of R217 as its bit in FCLASS's list. -/
def classOf (m : Fmt) (a : Nat) : Nat :=
  let normal := decide (1 ≤ bitsOf a m.f (m.w - 1 - m.f))
  match decodeF m a with
  | .nan true => 0
  | .nan false => 1
  | .inf true => 2
  | .inf false => 9
  | x => if x.isZero then (if x.neg then 5 else 6) else if x.neg then (if normal then 3 else 4) else if normal then 8 else 7

/-- R215 to R217: minimum and maximum, sign copying, comparison and classification. Two operands of equal value give either
code, which differ only where both are zeros. -/
def Obligations.FloatCompare : Prop :=
  ∀ x : Std,
    let m := precFmt (precOf x)
    FloatElements 0x44 (.fmin x) x (fun m a b _ => minMaxSpec m (absCtl m a (sgc25 x)) (absCtl m b (sgc26 x)) true true) ∧
    FloatElements 0x45 (.fmax x) x (fun m a b _ => minMaxSpec m (absCtl m a (sgc25 x)) (absCtl m b (sgc26 x)) false true) ∧
    FloatElements 0x46 (.fminm x) x (fun m a b _ => minMaxSpec m (absCtl m a (sgc25 x)) (absCtl m b (sgc26 x)) true false) ∧
    FloatElements 0x47 (.fmaxm x) x (fun m a b _ => minMaxSpec m (absCtl m a (sgc25 x)) (absCtl m b (sgc26 x)) false false) ∧
    FloatElements 0x4E (.fcps x) x (fun m a b _ =>
      let sa := a.testBit (m.w - 1)
      let sb := b.testBit (m.w - 1)
      let sign := if sgcOf x = 0 then sb else if sgcOf x = 1 then !sb else xor sa sb
      { code := a % 2 ^ (m.w - 1) + if sign then 2 ^ (m.w - 1) else 0 }) ∧
    GivesF 0x48 (.fcmp x) x 1 (fun g _ th =>
      let p := decodeF m (floatElem (precOf x) g th x.a 0)
      let q := decodeF m (floatElem (precOf x) g th x.b 0)
      let nan := p.isNan || q.isNan
      let less (u v : FVal) : Bool := below u v && !(u.isZero && v.isZero)
      let holds := if sgcOf x = 0 then !nan && !less p q && !less q p else if sgcOf x = 1 then !nan && less p q
        else if sgcOf x = 2 then !nan && !less q p else nan
      let raises := if sgcOf x = 1 ∨ sgcOf x = 2 then nan else p.isSig || q.isSig
      { code := holds.toNat, flags := if raises then fv else 0 }) ∧
    Yields 0x49 (.fclass x) x 1 (fun g th v =>
      v = 2 ^ classOf m (floatElem (precOf x) g th x.a 0) +
        if 2 ≤ precOf x then 2 ^ (16 + classOf m (floatElem (precOf x) g th x.a 1)) else 0) ∧
    Yields 0x49 (.fclassPredicate x) x 1 (fun g th v =>
      v = 1 ↔ (srcNat g th 1 x.b).testBit (classOf m (floatElem (precOf x) g th x.a 0)) = true)

/-- A function of R219 on one code: its special cases, and for a finite nonzero operand the result of `f`. -/
def special (m : Fmt) (a : Nat) (ninf pinf nzero pzero : FRes) (f : FVal → FRes) : FRes :=
  match decodeF m a with
  | .nan sig => { code := canonNan m, flags := if sig then fv else 0 }
  | .inf true => ninf
  | .inf false => pinf
  | v => if v.isZero then (if v.neg then nzero else pzero) else f v

/-- ±1 in a format. -/
def one (m : Fmt) (neg : Bool) : FRes := roundF m (.fin neg 1 1) 0

/-- R218 and R219: the eight functions complete on every operand, with the special cases of the table; on a finite nonzero operand
they give an `f` that rounds the exact value once where that value is rational: the reciprocal, the root of a square, 2 to an integer,
the logarithm of a power of 2, the sine and cosine of a multiple of a quarter turn. Rounding to an integer, fraction, scaling and
exponent. -/
def Obligations.FunctionsRoundingScaling : Prop :=
  (∀ x : Std,
    let inv (m : Fmt) : FRes := { code := canonNan m, flags := fv }
    let zero (m : Fmt) (neg : Bool) : FRes := { code := signBit m neg }
    let inf (m : Fmt) (neg : Bool) (fl : Nat) : FRes := { code := infCode m neg, flags := fl }
    let fn (opc : Nat) (i : Instr) (ninf pinf nzero pzero : Fmt → FRes) (P : Fmt → Bool → ℚ → FRes → Prop) : Prop :=
      ∃ f : Fmt → FVal → FRes,
        (∀ m neg n d, 0 < n → 0 < d → P m neg (ratOf (.fin neg n d)) (f m (.fin neg n d))) ∧
        FloatElements opc i x (fun m a _ _ => special m a (ninf m) (pinf m) (nzero m) (pzero m) (f m))
    fn 0x51 (.fsqrt x) inv (inf · false 0) (zero · true) (zero · false) (fun m neg q r =>
      (neg = true → r = inv m) ∧ (neg = false → ∀ k : ℚ, 0 < k → q = k ^ 2 → r = roundF m (ofRat false k) (rndOf x))) ∧
    fn 0x52 (.frcp x) (zero · true) (zero · false) (inf · true fz) (inf · false fz) (fun m neg q r =>
      r = roundF m (ofRat neg (1 / q)) (rndOf x)) ∧
    fn 0x53 (.frsq x) inv (zero · false) (inf · true fz) (inf · false fz) (fun m neg q r =>
      (neg = true → r = inv m) ∧ (neg = false → ∀ k : ℚ, 0 < k → q * k ^ 2 = 1 → r = roundF m (ofRat false k) (rndOf x))) ∧
    fn 0x54 (.fex2 x) (zero · false) (inf · false 0) (one · false) (one · false) (fun m _ q r =>
      m = f32 ∨ m = f16 ∨ m = bf16 → ∀ n : ℤ, q = n → r = roundF m (ofRat false (2 ^ n)) 0) ∧
    fn 0x55 (.flg2 x) inv (inf · false 0) (inf · true fz) (inf · true fz) (fun m neg q r =>
      (neg = true → r = inv m) ∧ ∀ n : ℤ, q = 2 ^ n → r = roundF m (ofRat false n) 0) ∧
    fn 0x56 (.fsin x) inv inv (zero · true) (zero · false) (fun m neg q r =>
      ∀ n : ℤ, (q = n → r = zero m neg) ∧ (q = n + 1 / 2 → r = one m (decide (n % 2 = 1)))) ∧
    fn 0x57 (.fcos x) inv inv (one · false) (one · false) (fun m _ q r =>
      ∀ n : ℤ, (q = n → r = one m (decide (n % 2 = 1))) ∧ (q = n + 1 / 2 → r = zero m false)) ∧
    fn 0x58 (.ftanh x) (one · true) (one · false) (zero · true) (zero · false) (fun _ _ _ _ => True)) ∧
  (∀ x : Std,
    let nan (m : Fmt) (sig : Bool) : FRes := { code := canonNan m, flags := if sig then fv else 0 }
    let fn (opc : Nat) (i : Instr) (k : Nat) (f : Fmt → Nat → FVal → Int → FRes) : Prop :=
      ∀ (s : State) (g : Group) (r : RunIn) (tm : Team), Executes opc x s g r tm →
        ∃ t, exec i s = .next t ∧ ∀ l th, InLane x g r l th →
          let m := precFmt (precOf x)
          let n := if k = 0 then 0 else (element 32 0 (srcNat g th 1 x.b)).toInt
          let res (e : Nat) : FRes :=
            let a := floatElem (precOf x) g th x.a e
            match decodeF m a with
            | .nan sig => nan m sig
            | v => f m a v n
          (keepsLane x g r l → ∃ v, Sys2Proof.State.landed t s.actor.1 s.actor.2 l (precRegs (precOf x)) x.d = some v ∧
            ∀ e, e < precN (precOf x) → (element m.w e v).toNat = (res e).code) ∧
          Sys2Proof.State.flagsAt t s.actor.1 s.actor.2 l = some (th.flags ||| BitVec.ofNat 5 (res 0).flags |||
            if precN (precOf x) = 2 then BitVec.ofNat 5 (res 1).flags else 0)
    fn 0x4A (.frnd x) 0 (fun m a v _ => if v.isInf then { code := a } else
      let q := ratOf v
      let lo := ⌊q⌋
      let up : Bool := match rndOf x with
        | 0 => decide ((1 : ℚ) / 2 < q - lo) || (decide (q - lo = 1 / 2) && decide (lo % 2 = 1))
        | 1 => decide (q < 0 ∧ q ≠ lo)
        | 2 => decide (q ≠ lo)
        | 3 => false
        | _ => decide ((1 : ℚ) / 2 < q - lo) || (decide (q - lo = 1 / 2) && decide (0 < q))
      { code := (roundF m (ofRat v.neg (if up then lo + 1 else lo : ℤ)) 0).code }) ∧
    fn 0x4B (.ffrc x) 0 (fun m _ v _ => if v.isInf then { code := canonNan m, flags := fv } else
      let q := ratOf v
      { code := (roundF m (ofRat v.neg (q - if q < 0 then (⌈q⌉ : ℚ) else (⌊q⌋ : ℚ))) 0).code }) ∧
    fn 0x4C (.fscl x) 1 (fun m a v n => if v.isInf then { code := a } else
      roundF m (ofRat v.neg (ratOf v * 2 ^ n)) (rndOf x)) ∧
    fn 0x4D (.fexpt x) 0 (fun m _ v _ => if v.isInf then { code := infCode m false }
      else if v.isZero then { code := infCode m true, flags := fz }
      else { code := (roundF m (ofRat false (Int.log 2 |ratOf v|)) 0).code }))

/-- One element of CVTF by R221: an exact conversion rounded once into a scalar format, or a code of the destination block. -/
def cvtSpec (k : CvtCtl) (e scale rnd draw : Nat) : FRes :=
  let v := if k.src = 6 then q4Decode scale e else decodeF (cvtFmt k.src) e
  let sig := if k.src ≠ 6 && v.isSig then fv else 0
  if k.dst = 6 then
    if scale % 64 = 63 then { code := 0, flags := sig }
    else if v.isNan then { code := 0, flags := fv }
    else let q := q4Round scale v rnd k.sat draw; { code := q.code, flags := q.flags ||| sig }
  else let q := roundF (cvtFmt k.dst) v rnd k.sat draw; { code := q.code, flags := q.flags ||| sig }

/-- The value of a code of a format, where it is finite. -/
def finiteVal (m : Fmt) (c : Nat) : Option ℚ :=
  match decodeF m c with
  | .fin neg n d => some (ratOf (.fin neg n d))
  | _ => none

/-- R176, R181, R221 to R225: CVTF merges one converted element into its destination and takes a draw under stochastic rounding;
CVTFI bounds to the integer type; CVTIF rounds the integer once; FLGRD reads the flags and FLGCLR clears those that its mask names.
RoundToFormat of a finite nonzero value that some finite value of the format bounds on either side gives the finite value that the
rounding mode chooses, raises fx where it is not exact, and fu with it where the value is tiny. -/
def Obligations.ConversionsAndRounding : Prop :=
  (∀ x : Std,
    (∀ s g r tm, Executes 0x5B x s g r tm →
      let k := cvtCtl x
      let q4 := k.src = 6 ∨ k.dst = 6
      (∀ l ∈ activeLanes g r x, q4 → r.set.getLsbD (scaleLane l k.sel) = true) →
      ∃ t, exec (.cvtf x) s = .next t ∧ ∀ l th, InLane x g r l th → keepsLane x g r l →
        let e := elem (srcNat g th (if k.src = 1 then 2 else 1) x.a) (cvtWidth k.src) k.sidx
        let rng := th.rng * 6364136223846793005 + 1442695040888963407
        let draw := if rndOf x = 5 then (rng >>> 32).toNat else 0
        let c := cvtSpec k e (scaleByte g x l k.sel) (rndOf x) draw
        let n := if k.dst = 1 then 2 else 1
        ∃ h u, t.group s.actor.1 s.actor.2 = some h ∧ h.thread l = some u ∧
          OnlyGroup s t s.actor.1 s.actor.2 ∧ u.flags = th.flags ||| BitVec.ofNat 5 c.flags ∧ u.rng = (if rndOf x = 5 then rng else th.rng) ∧
          elem (dstNat h u n x.d) (cvtWidth k.dst) k.didx = c.code % 2 ^ cvtWidth k.dst ∧
          (k.dst ≠ 0 → k.dst ≠ 1 → ∀ j, j < 32 → (j < cvtWidth k.dst * k.didx ∨ cvtWidth k.dst * (k.didx + 1) ≤ j) →
            (dstNat h u 1 x.d).testBit j = (dstNat g th 1 x.d).testBit j)) ∧
    GivesF 0x5C (.cvtfi x) x (if sgc26 x then 2 else 1) (fun g _ th =>
      let w := if sgc26 x then 64 else 32
      let m := precFmt (precOf x)
      let lo : ℤ := if sgc25 x then -(2 ^ (w - 1)) else 0
      let hi : ℤ := if sgc25 x then 2 ^ (w - 1) - 1 else 2 ^ w - 1
      match decodeF m (floatElem (precOf x) g th x.a 0) with
      | .nan _ => { code := 0, flags := fv }
      | .inf neg => { code := (BitVec.ofInt w (if neg then lo else hi)).toNat, flags := fv }
      | .fin neg n d =>
        let i : ℤ := (if neg then -1 else 1) * toIntegral neg n d (rndOf x)
        if lo ≤ i ∧ i ≤ hi then { code := (BitVec.ofInt w i).toNat, flags := if ratOf (.fin neg n d) = i then 0 else fx }
        else { code := (BitVec.ofInt w (if i < lo then lo else hi)).toNat, flags := fv }) ∧
    GivesF 0x5D (.cvtif x) x (precRegs (precOf x)) (fun g _ th =>
      let w := if sgc26 x then 64 else 32
      let a : BitVec w := element w 0 (srcNat g th (w / 32) x.a)
      roundF (precFmt (precOf x)) (ofRat false (if sgc25 x then a.toInt else (a.toNat : ℤ))) (rndOf x)) ∧
    Yields 0x5E (.flgrd x) x 1 (fun _ th v => v = th.flags.toNat) ∧
    ∀ s g r tm, Executes 0x5F x s g r tm → ∃ t, exec (.flgclr x) s = .next t ∧ ∀ l th, InLane x g r l th →
      Sys2Proof.State.flagsAt t s.actor.1 s.actor.2 l = some (th.flags &&& ~~~ (BitVec.ofNat 5 (srcNat g th 1 x.a)))) ∧
  (∀ m ∈ [f64, f32, f16, bf16, e4m3, e5m2], ∀ (neg : Bool) (n d rnd : Nat), 0 < n → 0 < d → rnd ≤ 4 →
    let x := ratOf (.fin neg n d)
    let r := roundF m (.fin neg n d) rnd
    (∃ c v, c < 2 ^ m.w ∧ finiteVal m c = some v ∧ x ≤ v) → (∃ c v, c < 2 ^ m.w ∧ finiteVal m c = some v ∧ v ≤ x) →
    ∃ v, finiteVal m r.code = some v ∧ r.code < 2 ^ m.w ∧
      (∀ c w, c < 2 ^ m.w → finiteVal m c = some w →
        (rnd = 0 ∨ rnd = 4 → |v - x| ≤ |w - x|) ∧
        (rnd = 1 → |v| ≤ |x| ∧ (0 ≤ w * x → |w| ≤ |x| → |w| ≤ |v|)) ∧
        (rnd = 2 → x ≤ v ∧ (x ≤ w → v ≤ w)) ∧
        (rnd = 3 → v ≤ x ∧ (w ≤ x → w ≤ v)) ∧
        (w ≠ v → |w - x| = |v - x| → (rnd = 0 → r.code % 2 = 0) ∧ (rnd = 4 → |w| < |v|))) ∧
      r.flags = (if v = x then 0 else if |x| < 2 ^ (1 - (m.bias : ℤ)) then fu + fx else fx))

/-- The frame of the integer and floating-point instructions (R190, R210): each changes only its group, and of that only its
destination in the active lanes; the integer ones leave every flag, the floating-point ones clear none. -/
def Obligations.RegisterFrames : Prop :=
  ∀ x : Std,
    (∀ e ∈ [(0x00, Instr.add), (0x01, .sub), (0x04, .mullo), (0x05, .mulhi), (0x06, .mad), (0x08, .div), (0x09, .rem),
        (0x0A, .min), (0x0B, .max), (0x0C, .abs), (0x0D, .neg), (0x0E, .addsat), (0x0F, .subsat), (0x12, .sel), (0x13, .mov),
        (0x14, .clamp), (0x18, .cvti), (0x1C, .avg), (0x20, .and), (0x21, .or), (0x22, .xor), (0x23, .andn), (0x24, .orn),
        (0x25, .not), (0x26, .logt), (0x27, .shl), (0x28, .shr), (0x29, .sar), (0x2A, .rol), (0x2B, .ror), (0x2C, .fshl),
        (0x2D, .fshr), (0x2E, .bfe), (0x2F, .bfi), (0x33, .brev), (0x34, .bmsk)],
      Frames e.1 (e.2 x) x (widRegs (widOf x)) (fun a b => b = a)) ∧
    (∀ e ∈ [(0x02, Instr.addc), (0x03, .subb), (0x07, .madw), (0x10, .lea), (0x1B, .unpk)],
      Frames e.1 (e.2 x) x 2 (fun a b => b = a)) ∧
    (∀ e ∈ [(0x11, Instr.icmp), (0x15, .sad), (0x16, .dot4), (0x17, .dot2), (0x19, .bysel), (0x1A, .pack), (0x30, .popc),
        (0x31, .clz), (0x32, .ctz), (0x35, .plogt), (0x36, .p2v), (0x49, .fclass), (0x49, .fclassPredicate), (0x5E, .flgrd)],
      Frames e.1 (e.2 x) x 1 (fun a b => b = a)) ∧
    (∀ e ∈ [(0x40, Instr.fadd), (0x41, .fsub), (0x42, .fmul), (0x43, .ffma), (0x44, .fmin), (0x45, .fmax), (0x46, .fminm),
        (0x47, .fmaxm), (0x4A, .frnd), (0x4B, .ffrc), (0x4C, .fscl), (0x4D, .fexpt), (0x4E, .fcps), (0x50, .fdiv),
        (0x51, .fsqrt), (0x52, .frcp), (0x53, .frsq), (0x54, .fex2), (0x55, .flg2), (0x56, .fsin), (0x57, .fcos),
        (0x58, .ftanh), (0x5D, .cvtif)],
      Frames e.1 (e.2 x) x (precRegs (precOf x)) FlagsStick) ∧
    (∀ e ∈ [(0x48, Instr.fcmp), (0x59, .fdotp2), (0x5A, .hfma2)], Frames e.1 (e.2 x) x 1 FlagsStick) ∧
    Frames 0x5C (.cvtfi x) x (if sgc26 x then 2 else 1) FlagsStick

/-! ## Words and runs -/

/-- R22 to R33, R275, R320, R341: decoding the words of a well-formed standard or literal form, whatever words follow them, gives the
instruction back with its length, so that no operand bit is dropped; decoding the word of a short form, a rake micro-word or a queue
bytecode gives it back, and a word that decodes is the word of what it decodes to, so that no unused or reserved bit is ignored. -/
def Obligations.DecodingUndoesEncoding : Prop :=
  (∀ (i : Instr) (opc : Nat) (x : Std) (rest : List Word), i.stdForm = some (opc, x) → i.wf = true →
    decodeRunWord (encode i ++ rest) = (some i, (encode i).length)) ∧
  ((∀ i n rest, shortWord i = some n → i.wf = true → decodeRunWord (BitVec.ofNat 32 n :: rest) = (some i, 1)) ∧
  (∀ i n, microWord i = some n → decodeMicro (BitVec.ofNat 32 n) = some i) ∧
  (∀ i n, queueWord i = some n → i.wf = true → decodeQueue (BitVec.ofNat 32 n) = some i) ∧
  (∀ w i, decodeShort w = some i → shortWord i = some w.toNat) ∧
  (∀ w i, decodeMicro w = some i → microWord i = some w.toNat) ∧
  (∀ w i, decodeQueue w = some i → queueWord i = some w.toNat))

/-- A standard form with every field at its plainest: unconditional, nothing trapped on. -/
def plain (fn : Nat) (d : Dst) (a b c : Src) (ctl : Byte := 0) : Std :=
  { fn := BitVec.ofNat 6 fn, emp := 0, gneg := false, grd := 37, d := d, a := a, b := b, c := c, ctl := ctl }

/-- Words of the spec's worked examples decode to the instructions that the spec says they are (R38, R191, R225). -/
def Obligations.SpecWordsDecode : Prop :=
  decodeRunWord [0x02010400, 0x20002500] = (some (.add (plain 8 (.v 4) (.v 1) (.v 2) .none)), 2) ∧
  decodeRunWord [0x03060543, 0x081825FF, 0x3F400000] =
    (some (.ffma (plain 2 (.v 5) (.v 6) (.v 3) (.lit 0x3F400000))), 3) ∧
  decodeRunWord [0x140A1E02, 0x00182500] = (some (.addc (plain 0 (.v 30) (.v 10) (.v 20) (.imm 0))), 2) ∧
  decodeRunWord [0x001F005F, 0x0001A500] = (some (.flgclr (plain 0 .none (.imm 31) .none .none)), 2) ∧
  decodeRunWord [0x0004095B, 0x00182560] = (some (.cvtf (plain 0 (.v 9) (.v 4) .none (.imm 0x60))), 2) ∧
  decodeRunWord [0x00000A5E, 0x00002500] = (some (.flgrd (plain 0 (.v 10) .none .none .none)), 2)

/-- A turn of a group that may issue runs the instruction that the words at its place decode to, no group standing behind it any more
(R19), and is followed by the journal's work and nothing else; words that are no legal instruction take the illegal-instruction trap (R39, log 1). -/
def Obligations.StepRunsDecodedInstruction : Prop :=
  ∀ (s : State) (p k : Nat) (rest : List Turn) (g : Group) (r : RunIn),
    s.agenda = .issue p k :: rest → s.group p k = some g → g.run = some r →
    let s1 : State := ({ s with agenda := rest, actor := (p, k) } : State).hadTurn p k
    s1.mayIssue p k g = true →
    (∀ i, (decodeRunWord (r.words.drop r.pos)).1 = some i → ∀ t, exec i s1 = .next t →
      step s = .next (({ s with agenda := rest } : State).journal t)) ∧
    ((decodeRunWord (r.words.drop r.pos)).1 = none →
      step s = .next (({ s with agenda := rest } : State).journal s1.illegal))

/-- R14, R20, R21 and the agenda's other turns (log 1): a micro-word and a bytecode run as their words decode, an event is its
meaning, and time passes by what the turn says. A group of the active set whose choice is made, and whose run its quarter has decoded,
begins the run where every counter that the header selects is at or below WAITN: at position 0, with the chosen threads, their
t-registers cleared and every other register as it was; where one is above, the run waits and no thread has moved. -/
def Obligations.TurnsAndRunBegins : Prop :=
  (∀ (s : State) (rest : List Turn),
    let s0 : State := { s with agenda := rest }
    (∀ i t, s.agenda = .event i :: rest → exec i s0 = .next t → step s = .next (s0.journal t)) ∧
    (∀ ns cycles, s.agenda = .advance ns cycles :: rest → step s = .next (s0.journal (s0.advance ns cycles))) ∧
    (∀ p k v b w i t, s.agenda = .micro p k :: rest → tget (s.pan p).rake.visits k = some v →
      s.testing .rake p (fun _ => true) = false → tget (s.pan p).rake.binds v.bslot = some b → b.prog[v.mpc]? = some w →
      decodeMicro w = some i → exec i { s0 with actor := (p, k) } = .next t → step s = .next (s0.journal t)) ∧
    (∀ p, s.agenda = .rake p :: rest → step s = .next (s0.journal (s0.rakeTurn p))) ∧
    (∀ q i t, s.agenda = .queue q :: rest → codeAt (s.queue q).code (s.queue q).pc = some i →
      exec i { s0 with actor := (q, 0) } = .next t → step s = .next (s0.journal t))) ∧
  (∀ (s : State) (p k : Nat) (g : Group) (tm : Team) (ch : Choice) (d : DecodedRun),
    s.group p k = some g → s.team p g.team = some tm → g.active = true → g.run = none → g.st = .bound ∨ g.st = .hwait →
    g.hold = none → (s.pan p).off = false → s.heldByTest p k = false → (s.pan p).isSealing g.team = false → g.pwait ≤ (s.pan p).drc →
    (s.asSlot tm.part tm.slot).torn = false → (s.hadTurn p k).isBehind p k = false → g.choice = some ch → ch.entry = none →
    (s.pan p).decodedRun (quarterOf k) (asid tm.part tm.slot) ch.addr = some d → runOk d.words (tm.budget g.role) = true →
    let h := (d.words.headD 0).toNat
    ∃ t g', exec (.runBegin p k) s = .next t ∧ t.group p k = some g' ∧ t.mem = s.mem ∧
      if g.ctr.atMost (bitsOf h 12 8) (bitsOf h 20 4) then
        g'.st = .run ∧ (∃ r, g'.run = some r ∧ r.addr = ch.addr ∧ r.pos = 0 ∧ r.set = ch.set ∧ r.cls = bitsOf h 7 3 ∧
          r.words = (d.words.drop 1).take (h % 32)) ∧ g'.ctr = g.ctr ∧ g'.g = g.g ∧
        ∀ l, g'.thread l = (g.thread l).map fun th => if l ∈ lanesOf ch.set then { th with t := [] } else th
      else g'.st = .hwait ∧ g'.run = none ∧ g'.th = g.th ∧ g'.ctr = g.ctr)

/-! ## Cross-lane, memory and fence instructions -/

/-- The bits that `k` registers of a destination take in a mask of empty marks. -/
def marksV (d : Dst) (k : Nat) : BitVec 256 := match d with
  | .v n => spanMask 256 n.toNat k
  | _ => 0

def marksP (d : Dst) : BitVec 32 := match d with
  | .p n => spanMask 32 n.toNat 1
  | _ => 0

def marksG (d : Dst) (k : Nat) : BitVec 64 := match d with
  | .g n => spanMask 64 n.toNat k
  | _ => 0

/-- The group after a counted issue (R28, R34, R35): its counter is one higher, an outstanding issue for its active lanes
stands beside those that stood, the destination is marked empty in the active lanes, the active threads have raised the flags `fl`, and
nothing else of a register or a thread has changed. -/
def CountedWith (fl : Nat → Nat) (s t : State) (g : Group) (r : RunIn) (x : Std) (d : Dst) (k : Nat) (ctr : Ctr) : Prop :=
  ∃ h, t.group s.actor.1 s.actor.2 = some h ∧ h.ctr = g.ctr.mod ctr (· + 1) ∧ h.g = g.g ∧ h.ge = g.ge ||| marksG d k ∧
    (∀ i ∈ g.issues, i ∈ h.issues) ∧
    (∃ i ∈ h.issues, i.id = s.nextId ∧ i.ctr = some ctr ∧ i.dst = d ∧ i.regs = k ∧ i.lanes.map (·.1) = activeLanes g r x) ∧
    ∀ l a, g.thread l = some a → ∃ b, h.thread l = some b ∧
      b = { a with
        addr := b.addr, entry := b.entry
        ve := a.ve ||| if l ∈ activeLanes g r x then marksV d k else 0
        pe := a.pe ||| if l ∈ activeLanes g r x then marksP d else 0
        flags := a.flags ||| if l ∈ activeLanes g r x then BitVec.ofNat 5 (fl l) else 0 }

/-- A counted issue that raises no flag. -/
def Counted (s t : State) (g : Group) (r : RunIn) (x : Std) (d : Dst) (k : Nat) (ctr : Ctr) : Prop :=
  CountedWith (fun _ => 0) s t g r x d k ctr

/-- The value of a lane, from the registers before the instruction. -/
def laneVal (g : Group) (f : Thread → Nat) (l : Nat) : Nat := match g.thread l with
  | some th => f th
  | none => 0

/-- The response to the issue of `s` that brings each of these lanes a value and flags of which `P` holds. -/
def Responds (s t : State) (g : Group) (tm : Team) (ls : List Nat) (P : Nat → Nat → Nat → Prop) : Prop :=
  ∃ y ∈ t.resps, y.issue = s.nextId ∧ y.gk = gkeyOf tm g.num ∧ y.scopeFail = none ∧ y.bad = none ∧ y.keep = false ∧
    y.vals.map (·.lane) = ls ∧ ∀ v ∈ y.vals, P v.lane v.val v.flags

/-- A cross-lane instruction that all its members execute together completes at issue (R227): each member's value, which its response
brings, and the flags that its thread has raised are ones of which `P` holds, told the members, their values of A and of B, and the lane. -/
def CrossLane (opc : Nat) (i : Instr) (x : Std) (k kd : Nat)
    (P : List Nat → (Nat → Nat) → (Nat → Nat) → Nat → Nat → Nat → Prop) : Prop :=
  ∀ (s : State) (g : Group) (r : RunIn) (tm : Team), Executes opc x s g r tm → g.ctr.cl < 63 →
    let act := activeLanes g r x
    let mask (l : Nat) : BitVec 32 := BitVec.ofNat 32 (laneVal g (fun th => srcNat g th 1 x.c) l)
    (∀ e ∈ g.th, e.2.park = none) →
    (∀ l ∈ act, (mask l).getLsbD l = true ∧ (∀ th, g.thread l = some th → th.st ≠ .exited) ∧ (g.role = .control → l = 0) ∧
      ∀ j ∈ lanesOf (mask l), j ∈ act ∧ mask j = mask l) →
    ∃ (t : State) (val fl : Nat → Nat), exec i s = .next t ∧ CountedWith fl s t g r x x.d kd .cl ∧
      (Responds s t g tm act fun l v f => v = val l ∧ f = 0) ∧
      ∀ l ∈ act, P (lanesOf (mask l)) (laneVal g fun th => srcNat g th k x.a) (laneVal g fun th => srcNat g th 1 x.b) l (val l) (fl l)

/-- The tree of R187 below node `i` of level `k`. -/
def treeNode (f : Nat → Nat → FRes) (leaf : Nat → Nat) : Nat → Nat → Nat × Nat
  | 0, i => (leaf i, 0)
  | k + 1, i =>
    let a := treeNode f leaf k (2 * i)
    let b := treeNode f leaf k (2 * i + 1)
    let q := f a.1 b.1
    (q.code, a.2 ||| b.2 ||| q.flags)

/-- Floating combination by FN (R229): FMIN and FMAX on .f32, Add on .f32, .f16x2, .bf16x2 and .f64. -/
def floatCombine (fn : Nat) : Option (Nat → Nat → FRes) :=
  let both (m : Fmt) (x y : Nat) : FRes :=
    let lo := addSpec m (element 16 0 x).toNat (element 16 0 y).toNat (fn % 8)
    let hi := addSpec m (element 16 1 x).toNat (element 16 1 y).toNat (fn % 8)
    { code := hi.code * 2 ^ 16 + lo.code, flags := lo.flags ||| hi.flags }
  match fn / 8 with
  | 1 => some fun x y => minMaxSpec f32 x y (fn % 8 == 0) true
  | 2 => some fun x y => addSpec f32 x y (fn % 8)
  | 3 => some (both f16)
  | 4 => some (both bf16)
  | 5 => some fun x y => addSpec f64 x y (fn % 8)
  | _ => none

/-- The integer reductions of R229 over a list of values. -/
def intReduce (fn : Nat) (xs : List Nat) (v : Nat) : Prop :=
  match fn with
  | 0 => v = xs.sum % 2 ^ 32
  | 1 => v ∈ xs ∧ ∀ y ∈ xs, v ≤ y
  | 2 => v ∈ xs ∧ ∀ y ∈ xs, (BitVec.ofNat 32 v).toInt ≤ (BitVec.ofNat 32 y).toInt
  | 3 => v ∈ xs ∧ ∀ y ∈ xs, y ≤ v
  | 4 => v ∈ xs ∧ ∀ y ∈ xs, (BitVec.ofNat 32 y).toInt ≤ (BitVec.ofNat 32 v).toInt
  | 5 => v < 2 ^ 32 ∧ ∀ b, b < 32 → (v.testBit b = true ↔ ∀ y ∈ xs, y.testBit b = true)
  | 6 => v < 2 ^ 32 ∧ ∀ b, b < 32 → (v.testBit b = true ↔ ∃ y ∈ xs, y.testBit b = true)
  | _ => v < 2 ^ 32 ∧ ∀ b, b < 32 → (v.testBit b = true ↔ (xs.countP fun y => y.testBit b) % 2 = 1)

/-- R228 and R229: the results of the cross-lane instructions, with REDX and SCANX by R187. -/
def Obligations.CrossLaneCompletes : Prop :=
  ∀ x : Std,
    let k := 1 + x.fn.toNat
    let shuffle (src : Nat → Nat → Int) : List Nat → (Nat → Nat) → (Nat → Nat) → Nat → Nat → Nat → Prop := fun ms a b l v f =>
      v = (if 0 ≤ src l (b l) ∧ src l (b l) < 32 ∧ (src l (b l)).toNat ∈ ms then a (src l (b l)).toNat else a l) ∧ f = 0
    CrossLane 0x60 (.vote x) x 1 1 (fun ms a _ _ v f => f = 0 ∧ v ≤ 1 ∧ (v = 1 ↔
      (x.fn = 0 ∧ ∀ m ∈ ms, a m = 1) ∨ (x.fn = 1 ∧ ∃ m ∈ ms, a m = 1) ∨ (x.fn = 2 ∧ ∀ m ∈ ms, ∀ n ∈ ms, a m = a n))) ∧
    CrossLane 0x61 (.ballot x) x 1 1 (fun ms a _ _ v f => f = 0 ∧ v < 2 ^ 32 ∧
      ∀ b, b < 32 → (v.testBit b = true ↔ b ∈ ms ∧ a b = 1)) ∧
    CrossLane 0x62 (.shfl x) x k k (shuffle fun _ n => n) ∧
    CrossLane 0x63 (.shflup x) x k k (shuffle fun l n => (l : Int) - n) ∧
    CrossLane 0x64 (.shfldn x) x k k (shuffle fun l n => (l : Int) + n) ∧
    CrossLane 0x65 (.shflx x) x k k (shuffle fun l n => ((l ^^^ n : Nat) : Int)) ∧
    CrossLane 0x66 (.redx x) x (redxRegs x) (redxRegs x) (fun ms a _ _ v f =>
      match floatCombine x.fn.toNat with
      | some op => (v, f) = treeNode op (fun m => if m ∈ ms then a m else 0) 5 0
      | none => f = 0 ∧ intReduce x.fn.toNat (ms.map a) v) ∧
    CrossLane 0x67 (.scanx x) x (redxRegs x) (redxRegs x) (fun ms a _ l v f =>
      let upto := (ms.filter (· ≤ l)).map a
      match floatCombine x.fn.toNat with
      | some op => (v, f) = upto.tail.foldl (fun (q : Nat × Nat) y => ((op q.1 y).code, q.2 ||| (op q.1 y).flags)) (upto.headD 0, 0)
      | none => f = 0 ∧ intReduce x.fn.toNat upto v) ∧
    CrossLane 0x68 (.matchLanes x) x k 1 (fun ms a _ l v f => f = 0 ∧ v < 2 ^ 32 ∧
      ∀ b, b < 32 → (v.testBit b = true ↔ b ∈ ms ∧ a b = a l)) ∧
    CrossLane 0x69 (.elect x) x 1 1 (fun ms _ _ l v f => f = 0 ∧ v = if ∀ m ∈ ms, l ≤ m then 1 else 0) ∧
    CrossLane 0x6A (.gbcast x) x k k (fun ms a _ _ v f => f = 0 ∧ v = a (ms.headD 0)) ∧
    CrossLane 0x6B (.conv x) x 1 1 (fun _ _ _ _ _ f => f = 0)

/-- The instructions of row 0x60: opcode, registers of A, instruction. -/
def crossRow (x : Std) : List (Nat × Nat × Instr) :=
  let k := 1 + x.fn.toNat
  [(0x60, 1, .vote x), (0x61, 1, .ballot x), (0x62, k, .shfl x), (0x63, k, .shflup x), (0x64, k, .shfldn x), (0x65, k, .shflx x),
   (0x66, redxRegs x, .redx x), (0x67, redxRegs x, .scanx x), (0x68, k, .matchLanes x), (0x69, 1, .elect x), (0x6A, k, .gbcast x),
   (0x6B, 1, .conv x)]

/-- R227: threads that arrive at a cross-lane instruction before the other members park at it, out of the run and with their
t-registers cleared; where the last members arrive, those that were parked are runnable at the next instruction and each issue
is answered; where an active thread's mask omits its own lane, or names a lane that has exited or is vacant, the run's threads
take trap 8 and no thread has the instruction's effect. -/
def Obligations.MembersParkUntilAllArrive : Prop :=
  ∀ (x : Std), ∀ e ∈ crossRow x, ∀ (s : State) (g : Group) (r : RunIn) (tm : Team), Executes e.1 x s g r tm → g.ctr.cl < 63 →
    let act := activeLanes g r x
    let mask (l : Nat) : BitVec 32 := BitVec.ofNat 32 (laneVal g (fun th => srcNat g th 1 x.c) l)
    let M := mask (act.headD 0)
    let fits := (∀ l ∈ act, mask l = M ∧ M.getLsbD l = true) ∧ (∀ l ∈ lanesOf M, g.absent l = false) ∧ ∃ l ∈ lanesOf M, l ∉ act
    (fits → (∀ e ∈ g.th, e.2.park = none) → act = lanesOf r.set →
      ∃ t h, exec e.2.2 s = .next t ∧ t.group s.actor.1 s.actor.2 = some h ∧ h.run = none ∧ h.ctr.cl = g.ctr.cl + 1 ∧
        ∀ l ∈ act, ∀ a, g.thread l = some a → ∃ b, h.thread l = some b ∧ b.st = .parked ∧ b.t = [] ∧ b.v = a.v ∧ b.p = a.p ∧
          b.park = some (.lanes r.addr r.pos M (BitVec.ofNat 64 (srcNat g a e.2.1 x.a)) (BitVec.ofNat 64 (srcNat g a 1 x.b)) s.nextId)) ∧
    (∀ j, j < s.nextId → fits → (∀ u ∈ g.th, if u.1 ∈ lanesOf M ∧ u.1 ∉ act then
        u.1 ∉ lanesOf r.set ∧ u.2.st = .parked ∧ (∃ a b, u.2.park = some (.lanes r.addr r.pos M a b j)) else u.2.park = none) →
      ∃ t h, exec e.2.2 s = .next t ∧ t.group s.actor.1 s.actor.2 = some h ∧
        (∃ y ∈ t.resps, y.issue = s.nextId ∧ y.vals.map (·.lane) = act) ∧
        (∃ y ∈ t.resps, y.issue = j ∧ ∀ l, l ∈ lanesOf M → l ∉ act → l ∈ y.vals.map (·.lane)) ∧
        ∀ l ∈ lanesOf M, l ∉ act → ∃ b, h.thread l = some b ∧ b.st = .runnable ∧ b.park = none ∧
          (b.addr, b.entry) = if r.pos + stdWords x = r.count then (r.after, none) else (r.addr, some (r.pos + stdWords x))) ∧
    ((∃ l ∈ act, (mask l).getLsbD l = false ∨ ∃ j ∈ lanesOf (mask l), g.absent j = true) →
      (∀ u ∈ g.th, u.2.park = none) → g.retire = g → tm.trapva ≠ 0 → (s.asSlot tm.part tm.slot).torn = false →
      (∀ l ∈ lanesOf r.set, ∃ th, g.thread l = some th ∧ th.mode = false ∧ th.st ≠ .exited) →
      ∃ t h, exec e.2.2 s = .next t ∧ t.group s.actor.1 s.actor.2 = some h ∧ h.run = none ∧ h.ctr = g.ctr ∧ h.issues = g.issues ∧
        h.g = g.g ∧ ∀ l ∈ lanesOf r.set, ∃ a b, g.thread l = some a ∧ h.thread l = some b ∧ b.addr = tm.trapva ∧ b.mode = true ∧
          b.st = .runnable ∧ b.v = a.v ∧ b.ve = a.ve ∧ b.p = a.p ∧ b.xpc = BitVec.ofNat 64 r.addr ∧ b.xpos = BitVec.ofNat 32 r.pos ∧
          b.xcause.toNat % 2 ^ 30 = 8 ∧ b.xcause.getLsbD 31 = true)

/-- The leaf that the quarter's L1 TLB holds for an address, if any. -/
def Sys2Proof.Machine.State.quarterLeaf (s : State) (tm : Team) (va : Nat) : Option Nat :=
  tlbFind (tgetD (s.pan s.actor.1).l1tlb (quarterOf s.actor.2) []) (asid tm.part tm.slot) va

/-- The leaf that the quarter's L1 TLB holds for an address that the team's slot may use, and that grants the rights. -/
structure Mapped (s : State) (tm : Team) (need : Need) (va e : Nat) : Prop where
  ok : addressOk s tm.part tm.slot va = true
  held : s.quarterLeaf tm va = some e
  rights : need.granted e = true

/-- An access passes every check of R48, R54, R59, R75, R232 and R234. -/
structure Reaches (s : State) (tm : Team) (need : Need) (va n align : Nat) (endp : Bool) (pc : Piece) (e : Nat) : Prop where
  mapped : Mapped s tm need pc.va e
  aligned : va % align = 0
  region : isEndpoint (leafPa e pc.va) = true → endp = true ∧ 4 ≤ n ∧ leafPa e pc.va % n = 0
  block : cxOf e = true → s.lineHeld tm.part (lineOf (leafPa e pc.va)) = true

/-- A global memory instruction whose accesses pass their checks raises its counter and sends each access to its line's home
bed, or takes a load's bytes from its L1; no byte of memory changes at issue (R34, R109, R113, R138, R230 to R237). -/
def Sends (opc : Nat) (i : Instr) (x : Std) (need : Need) (n align : Nat) (op : ReqOp) (ctr : Ctr) (d : Dst) (k : Nat) (endp : Bool)
    (addr : Group → List Nat → Nat → Nat) (data : Group → Thread → Nat × Nat × Nat) : Prop :=
  ∀ (s : State) (g : Group) (r : RunIn) (tm : Team), Executes opc x s g r tm → g.ctr.get ctr < 63 →
    let act := activeLanes g r x
    let ord := bitsOf x.ctl.toNat 2 2
    let strong := op.strong || ord != 0 || bitsOf x.ctl.toNat 4 2 != 0
    (∀ l ∈ act, ∀ pc ∈ pieces l (addr g act l) n, ∃ e, Reaches s tm need (addr g act l) n align endp pc e) →
    ∃ t, exec i s = .next t ∧ Counted s t g r x d k ctr ∧
      OnlyGroup (({ s with fabric := t.fabric, resps := t.resps, nextId := t.nextId } : State).modPan s.actor.1 fun p =>
        { p with l1 := (t.pan s.actor.1).l1 }) t s.actor.1 s.actor.2 ∧
      (op ≠ .load → (t.pan s.actor.1).l1 = (s.pan s.actor.1).l1) ∧
      (∀ key, ∀ c ∈ tgetD (t.pan s.actor.1).l1 key [], c ∈ tgetD (s.pan s.actor.1).l1 key []) ∧
      ((t.group s.actor.1 s.actor.2).bind (·.hold)).map (·.issue) =
        (if acquires ord || act.any fun l => (pieces l (addr g act l) n).any fun pc => (s.quarterLeaf tm pc.va).any cxOf
          then some s.nextId else g.hold.map (·.issue)) ∧
      ∀ l ∈ act, ∀ th, g.thread l = some th → ∀ pc ∈ pieces l (addr g act l) n, ∃ e, Mapped s tm need pc.va e ∧
        let pa := leafPa e pc.va
        (∃ q ∈ t.fabric, q.issue = s.nextId ∧ q.gk = gkeyOf tm g.num ∧ q.pan = s.actor.1 ∧ q.line = lineOf pa ∧ q.cx = cxOf e ∧
          q.op = op ∧ q.rc = (if op.changes then (s.pan s.actor.1).rc + 1 else 0) ∧ q.strong = strong ∧
          (releases q.ord = true ↔ releases ord = true ∨ (strong = true ∧ op.changes = true ∧ (g.fenceScope [l]).isSome = true)) ∧
          acquires q.ord = acquires ord ∧
          ({ lane := l, off := pa - lineOf pa, len := pc.len, sh := pc.sh, val := (data g th).1 >>> pc.sh, cmp := (data g th).2.1,
             key := (data g th).2.2 } : LaneAcc) ∈ q.accs) ∨
        (op = .load ∧ ord = 0 ∧ ∃ key c, (s.pan s.actor.1).l1Key (quarterOf s.actor.2) (lineOf pa) = some key ∧
          (s.pan s.actor.1).l1Find key tm.part (lineOf pa) (cxOf e) = some c ∧ ∃ y ∈ t.resps, y.issue = s.nextId ∧
          y.gk = gkeyOf tm g.num ∧ ∃ v ∈ y.vals, v.lane = l ∧
          v.val = ofBytes ((c.bytes.drop (pa - lineOf pa)).take pc.len) <<< pc.sh)

/-- R230 to R238: the global loads, stores, atomics and exact-cell instructions compute their addresses, raise their counters
and send their accesses. -/
def Obligations.MemoryInstructionsSend : Prop :=
  ∀ x : Std,
    let sz := x.fn.toNat / 8
    let n := if sz < 2 then 1 else if sz < 4 then 2 else if sz = 4 then 4 else if sz = 5 then 8 else 16
    let k := if n = 16 then 4 else if n = 8 then 2 else 1
    let at_ (f : Group → Thread → Nat) : Group → List Nat → Nat → Nat := fun g _ l => laneVal g (f g) l
    let offset (g : Group) (th : Thread) : Nat :=
      (BitVec.ofInt 64 ((srcNat g th 2 x.a : Int) + (BitVec.ofNat 32 (srcNat g th 1 x.b)).toInt)).toNat
    let plainA (g : Group) (th : Thread) : Nat := srcNat g th 2 x.a
    let none_ (_ : Group) (_ : Thread) : Nat × Nat × Nat := (0, 0, 0)
    let op := x.fn.toNat % 32
    let w := if atop64 op then 8 else 4
    let nr := 32 ≤ x.fn.toNat
    let v (g : Group) (th : Thread) : Nat × Nat × Nat := (srcNat g th (w / 4) x.b, 0, 0)
    let m := if x.fn = 1 then 8 else 4
    Sends 0x70 (.ld x) x .r n 1 .load .ld x.d k false (at_ offset) none_ ∧
    Sends 0x71 (.st x) x .w n 1 .store .st x.d 1 true (at_ plainA) (fun g th => (srcNat g th k x.b, 0, 0)) ∧
    Sends 0x74 (.ldk x) x .r n 1 .load .ld x.d k false (fun g act _ => laneVal g (offset g) (act.headD 0)) none_ ∧
    (¬ nr → Sends 0x79 (.atom x) x .rw w w (.atom op true) .ld x.d (w / 4) false (at_ plainA) v) ∧
    (nr → Sends 0x79 (.atom x) x .rw w w (.atom op false) .st x.d (w / 4) false (at_ plainA) v) ∧
    (op < 0x1C → Sends 0x7B (.red x) x .w w w (.atom op false) .st x.d 1 false (at_ plainA) v) ∧
    (0x1C ≤ op → Sends 0x7B (.red x) x .w 128 128 (.eadd (op == 0x1D)) .st x.d 1 false (at_ plainA)
      (fun g th => (srcNat g th 1 x.b, 0, 0))) ∧
    Sends 0x7D (.atomx x) x .rw w w (.ordered op) .st .none 1 false (at_ plainA)
      (fun g th => (srcNat g th (w / 4) x.b, 0, dstNat g th 1 x.d)) ∧
    Sends 0x80 (.cas x) x .rw m m .cas .ld x.d (m / 4) false (at_ plainA)
      (fun g th => (srcNat g th (m / 2) x.b / 2 ^ (8 * m), srcNat g th (m / 2) x.b % 2 ^ (8 * m), 0)) ∧
    Sends 0x82 (.ecrd x) x .rw 128 128 (.ecrd (x.fn.toNat / 32 == 1) (x.fn.toNat / 4 % 8)) .ld x.d 1 false (at_ plainA) none_ ∧
    Sends 0x83 (.ecclr x) x .rw 128 128 .ecclr .st .none 1 false (at_ plainA) none_

/-- The value that an atomic operation writes, by the operations of R92 and the codes of R235. -/
def atomSpec (op : Nat) (old b : Nat) : Nat :=
  let w := if atop64 op then 64 else 32
  let o := BitVec.ofNat w old
  let v := BitVec.ofNat w b
  let pair (m : Fmt) : Nat := (addSpec m (element 16 1 old).toNat (element 16 1 b).toNat 0).code * 2 ^ 16 +
    (addSpec m (element 16 0 old).toNat (element 16 0 b).toNat 0).code
  if op < 4 then (o + v).toNat
  else if op < 8 then if ival (op % 2) o ≤ ival (op % 2) v then o.toNat else v.toNat
  else if op < 12 then if ival (op % 2) o ≤ ival (op % 2) v then v.toNat else o.toNat
  else match op with
    | 0x0C | 0x10 => (o &&& v).toNat
    | 0x0D | 0x11 => (o ||| v).toNat
    | 0x0E | 0x12 => (o ^^^ v).toNat
    | 0x0F | 0x13 => v.toNat
    | 0x14 => (addSpec f32 old b 0).code
    | 0x15 => (addSpec f64 old b 0).code
    | 0x16 => pair f16
    | 0x17 => pair bf16
    | 0x18 => (minMaxSpec f32 old b true true).code
    | 0x19 => (minMaxSpec f32 old b false true).code
    | 0x1A => (minMaxSpec f64 old b true true).code
    | _ => (minMaxSpec f64 old b false true).code

/-- The bytes of the number `v` written at an address. -/
def poke (m : Memory) (a n v : Nat) : Memory := mwrite m a (bytesOf v n)

/-- A scratchpad instruction (R111, R112, R139, R232, R233, R236). Where its accesses lie in the team's allocation and are aligned, its
counter is raised: lanes in ascending order read the old value and leave the new one, the values come back with its issue, and no other
byte changes; where an access that reads meets an uncorrectable byte, the answer says so (R240). Where an access leaves the allocation or
is misaligned, the slot is torn down, with a KIND 3 record, and no byte changes. -/
def Scratch (opc : Nat) (i : Instr) (x : Std) (n align : Nat) (writes reads : Bool) (ctr : Ctr) (d : Dst) (k : Nat)
    (addr : Group → Thread → Nat) (new : Group → Thread → Nat → Option Nat) (out : Nat → Nat) : Prop :=
  ∀ (s : State) (g : Group) (r : RunIn) (tm : Team), Executes opc x s g r tm → g.ctr.get ctr < 63 →
    let act := activeLanes g r x
    let p := s.actor.1
    let off (l : Nat) : Nat := tm.base + laneVal g (addr g) l
    let ord := bitsOf x.ctl.toNat 2 2
    let m0 := (s.pan p).core.scratch
    let after (ls : List Nat) : Memory := ls.foldl (fun m l => match (g.thread l).bind fun th => new g th (mnat m (off l) n) with
      | some v => poke m (off l) n v
      | none => m) m0
    let inside := ∀ l ∈ act, laneVal g (addr g) l % align = 0 ∧ laneVal g (addr g) l + n ≤ tm.size
    let rel := act.filter fun l => releases ord || (writes && (g.fenceScope [l]).isSome)
    let frame (t : State) : Prop := OnlyGroup (({ s with resps := t.resps, nextId := t.nextId } : State).modPan p fun q =>
        { q with core := { q.core with scratch := (t.pan p).core.scratch }, l1 := (t.pan p).l1 }) t p s.actor.2 ∧
      (acquires ord = false → (t.pan p).l1 = (s.pan p).l1) ∧
      ∀ a, (∀ l ∈ act, a < off l ∨ off l + n ≤ a) → mget (t.pan p).core.scratch a = mget m0 a
    (inside → s.busy (gkeyOf tm g.num) rel = false → (reads = true → ∀ l ∈ act, (s.pan p).spoiltIn (off l) n = none) →
      ∃ t, exec i s = .next t ∧ Counted s t g r x d k ctr ∧ frame t ∧ (t.pan p).core.scratch = after act ∧
        ∃ y ∈ t.resps, y.issue = s.nextId ∧ y.gk = gkeyOf tm g.num ∧ y.bad = none ∧ y.vals.map (·.lane) = act ∧
          ∀ pre l post, act = pre ++ l :: post → ∃ v ∈ y.vals, v.lane = l ∧ v.val = out (mnat (after pre) (off l) n)) ∧
    (inside → s.busy (gkeyOf tm g.num) rel = false → reads = true → (∃ l ∈ act, ((s.pan p).spoiltIn (off l) n).isSome = true) →
      ∃ t, exec i s = .next t ∧ Counted s t g r x d k ctr ∧ frame t ∧
        ∃ y ∈ t.resps, y.issue = s.nextId ∧ y.gk = gkeyOf tm g.num ∧ y.bad = some 0 ∧ y.vals.map (·.lane) = act) ∧
    (¬ inside → (s.asSlot tm.part tm.slot).torn = false →
      ∃ t, exec i s = .next t ∧ (t.asSlot tm.part tm.slot).torn = true ∧ t.mem = s.mem ∧ (t.pan p).core.scratch = m0 ∧
        t.err = s.err.push (errRecord 3 Config.noUnit.toNat 0 tm.part (asid tm.part tm.slot) 0 0 r.addr r.pos))

/-- R111, R112, R139, R232, R233, R235, R236, R240: `exec` of each of LDS, STS, ATOMS, REDS and CASS answers a next state. Where the
accesses lie in the allocation, aligned as the instruction asks, the instruction completes: its counter is raised, its lanes read and write
scratchpad in ascending order, and the old values, or word of an uncorrectable byte, come back; else its slot is torn down and no byte
changes. -/
def Obligations.ScratchpadAccesses : Prop :=
  ∀ x : Std,
    let sz := x.fn.toNat / 8
    let n := if sz < 2 then 1 else if sz < 4 then 2 else if sz = 4 then 4 else if sz = 5 then 8 else 16
    let k := if n = 16 then 4 else if n = 8 then 2 else 1
    let offset (g : Group) (th : Thread) : Nat := (BitVec.ofNat 32 (srcNat g th 1 x.a) + BitVec.ofNat 32 (srcNat g th 1 x.b)).toNat
    let plainA (g : Group) (th : Thread) : Nat := srcNat g th 1 x.a
    let op := x.fn.toNat % 32
    let w := if atop64 op then 8 else 4
    let nr := 32 ≤ x.fn.toNat
    let new (g : Group) (th : Thread) (old : Nat) : Option Nat := some (atomSpec op old (srcNat g th (w / 4) x.b))
    let m := if x.fn = 1 then 8 else 4
    Scratch 0x72 (.lds x) x n 1 false true .ld x.d k offset (fun _ _ _ => none) id ∧
    Scratch 0x73 (.sts x) x n 1 true false .st .none 1 plainA (fun g th _ => some (srcNat g th k x.b)) (fun _ => 0) ∧
    (¬ nr → Scratch 0x7A (.atoms x) x w w true true .ld x.d (w / 4) plainA new id) ∧
    (nr → Scratch 0x7A (.atoms x) x w w true true .st x.d (w / 4) plainA new id) ∧
    Scratch 0x7C (.reds x) x w w true true .st .none 1 plainA new (fun _ => 0) ∧
    Scratch 0x81 (.cass x) x m m true true .ld x.d (m / 4) plainA (fun g th old =>
      let b := srcNat g th (m / 2) x.b
      some (if old = b % 2 ^ (8 * m) then b / 2 ^ (8 * m) else old)) id

/-- Every thread of the group is as it was but for its place, its release fence and its notes, every register of the group is as
it was, and the group's run has gone on by `n` words. -/
def PassesOn (s t : State) (g : Group) (r : RunIn) (n : Nat) : Prop :=
  ∃ h, t.group s.actor.1 s.actor.2 = some h ∧ h.ctr = g.ctr ∧ h.g = g.g ∧ h.ge = g.ge ∧ h.issues = g.issues ∧
    (if r.set = 0 ∨ r.count ≤ r.pos + n then h.run = none else ∃ q, h.run = some q ∧ q.addr = r.addr ∧ q.pos = r.pos + n ∧ q.set = r.set) ∧
    ∀ l a, g.thread l = some a → ∃ b, h.thread l = some b ∧
      b = { a with addr := b.addr, entry := b.entry, relFence := b.relFence, seen := b.seen }

/-- R119, R120, R133, R160, R239: prefetch and cache control touch caches only; FENCE waits for every earlier access of its
threads and then leaves its release fence in force and drops the L1 lines that its scope says; PFENCE holds the group until its
journal record is durable, .dp once every bed has answered; DFLUSH closes the windows of its partition and waits for every bed. -/
def Obligations.CacheAndFences : Prop :=
  ∀ (x : Std) (s : State) (g : Group) (r : RunIn) (tm : Team),
    let act := activeLanes g r x
    let p := s.actor.1
    let k := s.actor.2
    let offset (th : Thread) : Nat :=
      (BitVec.ofInt 64 ((srcNat g th 2 x.a : Int) + (BitVec.ofNat 32 (srcNat g th 1 x.b)).toInt)).toNat
    let ord := bitsOf x.ctl.toNat 2 2
    let scope := bitsOf x.ctl.toNat 4 2
    let quiet := (∀ q ∈ s.fabric, q.gk = gkeyOf tm g.num → ∀ a ∈ q.accs, a.lane ∉ act) ∧
      (∀ b ∈ s.beds, ∀ e ∈ b.2.held, e.gk ≠ gkeyOf tm g.num) ∧
      ∀ i ∈ g.issues, i.ctr = some .ld ∨ i.ctr = some .st → ∀ e ∈ i.lanes, e.1 ∈ act → e.2.left = 0
    let alive := ∃ l th, InLane x g r l th
    (Executes 0x75 x s g r tm → alive → ∃ t, exec (.pref x) s = .next t ∧ t.mem = s.mem ∧ t.xmem = s.xmem ∧
      t.durable = s.durable ∧ (t.pan p).core.scratch = (s.pan p).core.scratch ∧ PassesOn s t g r (stdWords x)) ∧
    (Executes 0x76 x s g r tm → alive → ∃ t, exec (.cctlL1line x) s = .next t ∧
      OnlyGroup (s.modPan p fun n => { n with l1 := (t.pan p).l1 }) t p k ∧ PassesOn s t g r (stdWords x) ∧
      ∀ key ∈ (s.pan p).l1Keys (quarterOf k), ∀ l ∈ act, ∀ th, g.thread l = some th → ∀ e, s.peek p tm.part tm.slot (offset th) = some e →
        isEndpoint (leafPa e (offset th)) = false → ∀ c ∈ tgetD (t.pan p).l1 key [], c.line ≠ lineOf (leafPa e (offset th))) ∧
    (Executes 0x76 x s g r tm → alive → ∃ t, exec (.cctlL1all x) s = .next t ∧
      OnlyGroup (s.modPan p fun n => { n with l1 := (t.pan p).l1, decoded := (t.pan p).decoded }) t p k ∧ PassesOn s t g r (stdWords x) ∧
      tgetD (t.pan p).decoded (quarterOf k) [] = [] ∧
      ∀ key ∈ (s.pan p).l1Keys (quarterOf k), tgetD (t.pan p).l1 key [] = []) ∧
    (Executes 0x76 x s g r tm → alive → (∀ b ∈ s.beds, ∀ ws ∈ b.2.sets, tSorted ws.2 = true) → ∃ t, exec (.cctlDemote x) s = .next t ∧
      OnlyGroup { s with beds := t.beds } t p k ∧ PassesOn s t g r (stdWords x) ∧
      ∀ l ∈ act, ∀ th, g.thread l = some th → ∀ e, s.peek p tm.part tm.slot (offset th) = some e →
        let pa := leafPa e (offset th)
        isEndpoint pa = false → ∀ i w, wayFind (tgetD (t.bed (homeBed pa)).sets (setOf pa) []) tm.part (lineOf pa) (cxOf e) = some (i, w) →
          w.st = .pinned ∨ (w.ret = 1 ∧ w.age = 3)) ∧
    (Executes 0x77 x s g r tm → alive → quiet →
      (acquires ord = true → ∀ l ∈ act, ∀ th, g.thread l = some th → ∀ n ∈ th.seen, noteOk n.2 scope p g.team k = true) →
      ∃ t, exec (.fence x) s = .next t ∧ OnlyGroup (s.modPan p fun n => { n with l1 := (t.pan p).l1 }) t p k ∧ PassesOn s t g r 2 ∧
        (∀ key ∈ (s.pan p).l1Keys (quarterOf k), tgetD (t.pan p).l1 key [] =
          if ord ≠ 0 ∧ (2 ≤ scope ∨ (scope = 1 ∧ (s.pan p).fused = false)) then [] else tgetD (s.pan p).l1 key []) ∧
        ∃ h, t.group p k = some h ∧ ∀ l ∈ act, ∀ b, h.thread l = some b →
          b.relFence = (if releases ord then some scope else none) ∧ b.seen = []) ∧
    (Executes 0x77 x s g r tm → (∃ q ∈ s.fabric, q.gk = gkeyOf tm g.num ∧ ∃ a ∈ q.accs, a.lane ∈ act) →
      ∃ t, exec (.fence x) s = .next t ∧ OnlyGroup s t p k ∧ t.group p k = some g) ∧
    (Executes 0x78 x s g r tm → alive → ∃ t h, exec (.pfencePp x) s = .next t ∧ OnlyGroup s t p k ∧ PassesOn s t g r 2 ∧
      t.group p k = some h ∧ h.pwait = (s.pan p).rc + 1) ∧
    (Executes 0x78 x s g r tm → g.flush = false → quiet → ∃ t, exec (.pfenceDp x) s = .next t ∧
      t.group p k = some { g with flush := true } ∧ t.mem = s.mem ∧ t.durable = s.durable ∧
      ∀ w ∈ s.brineWrites, ∃ q ∈ t.persists, q.bed = homeBed w.line ∧ q.gk = gkeyOf tm g.num ∧ q.upto = t.nextId) ∧
    (Executes 0x78 x s g r tm → alive → g.flush = true → (∀ q ∈ s.persists, q.gk ≠ gkeyOf tm g.num) →
      ∃ t h, exec (.pfenceDp x) s = .next t ∧ OnlyGroup s t p k ∧ PassesOn s t g r 2 ∧ t.group p k = some h ∧ h.flush = false ∧
        h.pwait = (s.pan p).rc + 1) ∧
    (Executes 0x7E x s g r tm → g.flush = false →
      (∀ q ∈ s.fabric, q.gk = gkeyOf tm g.num → (∃ op, q.op = .ordered op) → ∀ a ∈ q.accs, a.lane ∉ act) →
      ∃ t, exec (.dflush x) s = .next t ∧ t.group p k = some { g with flush := true } ∧ t.mem = s.mem ∧
        ∀ b y, (b, y) ∈ s.beds → y.held ≠ [] → y.winPart = tm.part → ∃ q ∈ t.closes, q.bed = b ∧ q.gk = gkeyOf tm g.num) ∧
    (Executes 0x7E x s g r tm → alive → g.flush = true → (∀ q ∈ s.closes, q.gk ≠ gkeyOf tm g.num) →
      ∃ t h, exec (.dflush x) s = .next t ∧ OnlyGroup s t p k ∧ PassesOn s t g r 2 ∧ t.group p k = some h ∧ h.flush = false)
/-! ## Home beds -/

/-- A request may leave its pan, or stands at its bed, which takes it now; each of its lanes has one access in it, so that it is accepted
whole (R109). No access of an earlier step waits, as after every step. -/
structure AtBed (s : State) (id : Nat) (q : Req) : Prop where
  idle : s.wants = []
  here : s.request id = some q
  may : s.accepts q = true
  free : s.shut q.line q.issue = false
  whole : ∀ a ∈ q.accs, (q.accs.filter fun b => b.lane == a.lane).length = 1

/-- A line can be read at its bed at once: a way that serves readers holds it, or it stands whole in a buffer of its bed, or the access,
to a page that is not coded, allocates nothing (R85, R87, R88, R90). -/
def LineReadable (s : State) (part line : Nat) (cx : Bool) (hint : Nat) : Prop :=
  let way := wayFind (tgetD (s.bed (homeBed line)).sets (setOf line) []) part line cx
  (∃ i w, way = some (i, w) ∧ w.st ≠ .filling) ∨ (way = none ∧ (s.bufferedWhole line cx = true ∨ (cx = false ∧ s.bypass part line hint = true)))

/-- The line of a request can be read at its bed at once. -/
def Readable (s : State) (q : Req) : Prop := LineReadable s q.gk.part q.line q.cx q.hint

/-- The view that a request's bytes stand in. -/
def viewOf (s : State) (cx : Bool) : Memory := if cx then s.xmem else s.mem

/-- The scope check of an acquire passes (R100). -/
def ScopeOk (s : State) (q : Req) : Prop :=
  acquires q.ord = true → ∀ n, s.noteOf q.gk.part q.line q.cx = some n →
    noteOk (promote n (q.rem && decide (2 ≤ q.scope)) q.pan) q.scope q.pan q.team q.slot = true

/-- The response that answers every lane of a request in order, with values and flags of which `P` holds at each place. -/
def Answers (t : State) (q : Req) (load : Bool) (P : Nat → LaneAcc → Nat → Nat → Prop) : Prop :=
  (∀ e ∈ t.fabric, e.id ≠ q.id) ∧ ∃ y ∈ t.resps, y.issue = q.issue ∧ y.gk = q.gk ∧ y.load = load ∧ y.scopeFail = none ∧ y.bad = none ∧
    y.vals.map (·.lane) = q.accs.map (·.lane) ∧
    ∀ k a, q.accs[k]? = some a → ∃ v, y.vals[k]? = some v ∧ P k a v.val v.flags

/-- ExactRead of R99 on the 1024 bits of a cell. -/
def cellRead (c : BitVec 1024) (m : Fmt) (rnd : Nat) : FRes :=
  let fl (k : Nat) : Bool := c.getLsbD (368 + k)
  if c.extractLsb' 992 32 ≠ 0xECCE0001#32 ∨ fl 2 = true ∨ (fl 0 = true ∧ fl 1 = true) ∨ fl 3 = true then { code := canonNan m, flags := fv }
  else if fl 0 then { code := infCode m false }
  else if fl 1 then { code := infCode m true }
  else if (c.extractLsb' 0 320).toInt = 0 then { code := 0 }
  else roundF m (ofRat false ((c.extractLsb' 0 320).toInt / 2 ^ 149)) rnd

/-- ExactAdd of R98: what an add leaves of a cell whose MAGIC is good. -/
def CellAdd (c d : BitVec 1024) (x : FVal) : Prop :=
  d.extractLsb' 376 648 = c.extractLsb' 376 648 ∧
  let n := (c.extractLsb' 320 48).toNat
  match x with
  | .nan _ => d = c ||| (4#1024 <<< 368)
  | .inf neg => d = c ||| ((if neg then 2#1024 else 1#1024) <<< 368)
  | .fin neg a b =>
    let n' := if n < 2 ^ 48 - 1 then n + 1 else n
    (∀ u : ℤ, (u : ℚ) = ratOf (.fin neg a b) * 2 ^ 149 → d.extractLsb' 0 320 = c.extractLsb' 0 320 + BitVec.ofInt 320 u) ∧
    (d.extractLsb' 320 48).toNat = n' ∧
    d.extractLsb' 368 8 = c.extractLsb' 368 8 ||| if 2 ^ 42 ≤ n' then 8 else 0

/-- R89 to R92, R97 to R100, R233, R236, R238: what a home bed does with a load, an exact read, a store, a clear, an atomic, a
compare-and-swap and an exact add that it accepts. Lanes take effect in order; each write takes the next sequence tag. Of a request
that holds several pieces of one lane's access some are accepted, and the others stay at the bed (R109). -/
def Obligations.BedsPerformAccesses : Prop :=
  (∀ (s : State) (id : Nat) (q : Req), AtBed s id q → s.badLine q.line = false →
    let line (m : Memory) : BitVec 1024 := BitVec.ofNat 1024 (mnat m q.line 128)
    let tag (k : Nat) : Nat := (tgetD (s.bed (homeBed q.line)).seqs q.gk.part 0 + k + 1) % 2 ^ 32
    let after (w : LaneAcc → Memory → Nat × Nat) (as : List LaneAcc) : Memory := as.foldl (fun m a => poke m (q.line + a.off) (w a m).1 (w a m).2) (viewOf s q.cx)
    let writes (t : State) (load : Bool) (w : LaneAcc → Memory → Nat × Nat) (P : Nat → LaneAcc → Nat → Prop) : Prop :=
      viewOf t q.cx = after w q.accs ∧ viewOf t (!q.cx) = viewOf s (!q.cx) ∧ Answers t q load (fun k a v _ => P k a v)
    let room := s.mergeRoom q.line q.cx = true ∧ ∀ e ∈ (s.bed (homeBed q.line)).held, lineOf e.addr ≠ q.line
    (∀ x ∈ s.prefs, x.id ≠ id) →
    (q.op = .load → Readable s q → ScopeOk s q → ∃ t, exec (.bedLoad id) s = .next t ∧ t.mem = s.mem ∧ t.xmem = s.xmem ∧
      Answers t q true fun _ a v f => f = 0 ∧ v = mnat (viewOf s q.cx) (q.line + a.off) (Nat.min a.len (128 - a.off)) * 2 ^ a.sh) ∧
    (∀ bf rnd, q.op = .ecrd bf rnd → Readable s q → ScopeOk s q → ∃ t, exec (.bedLoad id) s = .next t ∧ t.mem = s.mem ∧ t.xmem = s.xmem ∧
      Answers t q true fun _ _ v f =>
        let c := cellRead (line (viewOf s q.cx)) (if bf then bf16 else f32) rnd
        v = c.code ∧ f = c.flags) ∧
    (q.op.reads = true → Readable s q → ¬ ScopeOk s q → ∃ t, exec (.bedLoad id) s = .next t ∧ t.mem = s.mem ∧ t.xmem = s.xmem ∧
      ∃ y ∈ t.resps, y.issue = q.issue ∧ y.gk = q.gk ∧ y.scopeFail = some q.va) ∧
    (q.op = .store → isEndpoint q.line = false → room → ∃ t, exec (.bedWrite id) s = .next t ∧
      writes t false (fun a _ => (a.len, a.val)) fun k a v => v = if q.tag = true ∧ a.sh = 0 then tag k else 0) ∧
    (q.op = .ecclr → isEndpoint q.line = false → q.accs.map (·.off) = [0] → room → ∃ t, exec (.bedWrite id) s = .next t ∧
      line (viewOf t q.cx) = (0xECCE0001#1024) <<< 992 ∧ Answers t q false fun _ _ _ _ => True) ∧
    (q.multi = false → Readable s q → ScopeOk s q → room → (∀ a ∈ q.accs, a.val < 2 ^ 64 ∧ a.cmp < 2 ^ 64) →
      (∀ op ret, op < 0x1C → (∀ a ∈ q.accs, a.val < if atop64 op then 2 ^ 64 else 2 ^ 32) → q.op = .atom op ret →
        let w := if atop64 op then 8 else 4
        ∃ t, exec (.bedAtomic id) s = .next t ∧
          writes t ret (fun a m => (w, atomSpec op (mnat m (q.line + a.off) w) a.val)) fun k a v =>
            v = if ret = true then mnat (after (fun a m => (w, atomSpec op (mnat m (q.line + a.off) w) a.val)) (q.accs.take k)) (q.line + a.off) w
              else if q.tag = true then tag k else 0) ∧
      (q.op = .cas →
        let new (a : LaneAcc) (m : Memory) : Nat × Nat :=
          (a.len, if mnat m (q.line + a.off) a.len = a.cmp then a.val else mnat m (q.line + a.off) a.len)
        ∃ t, exec (.bedAtomic id) s = .next t ∧ writes t true new fun k a v =>
          v = mnat (after new (q.accs.take k)) (q.line + a.off) a.len) ∧
      (∀ bf a, q.op = .eadd bf → q.accs = [a] →
        let x := if bf then decodeF bf16 (a.val % 2 ^ 16) else decodeF f32 (a.val % 2 ^ 32)
        let c := line (viewOf s q.cx)
        ∃ t, exec (.exactAdd id) s = .next t ∧ viewOf t (!q.cx) = viewOf s (!q.cx) ∧
          (Answers t q false fun k _ v _ => v = if q.tag = true then tag k else 0) ∧
          if c.extractLsb' 992 32 = 0xECCE0001#32 then CellAdd c (line (viewOf t q.cx)) x
          else viewOf t q.cx = viewOf s q.cx ∧ (t.part q.gk.part).dstat.testBit 4 = true))) ∧
  ∀ (s : State) (id : Nat) (q : Req), s.request id = some q → s.accepts q = true → s.shut q.line q.issue = false → s.wants = [] →
    (∀ x ∈ s.prefs, x.id ≠ id) → q.accs ≠ [] → q.accs.Nodup →
    let split (t : State) (now rest : List LaneAcc) : Prop := now ≠ [] ∧ (now ++ rest).Perm q.accs ∧
      (rest = [] ∨ ∃ e ∈ t.fabric, e.accs = rest ∧ e.issue = q.issue ∧ e.op = q.op ∧ e.sent = true)
    (q.op = .load → s.badLine q.line = false → Readable s q → ScopeOk s q → ∃ t now rest, exec (.bedLoad id) s = .next t ∧ split t now rest ∧
      t.mem = s.mem ∧ t.xmem = s.xmem ∧ ∃ y ∈ t.resps, y.issue = q.issue ∧ y.gk = q.gk ∧ y.scopeFail = none ∧ y.bad = none ∧
        y.vals.map (·.lane) = now.map (·.lane) ∧ ∀ (k : Nat) (a : LaneAcc), now[k]? = some a → ∃ v : LaneVal, y.vals[k]? = some v ∧
          v.val = mnat (viewOf s q.cx) (q.line + a.off) (Nat.min a.len (128 - a.off)) * 2 ^ a.sh) ∧
    (q.op = .store → isEndpoint q.line = false → s.mergeRoom q.line q.cx = true → (∀ e ∈ (s.bed (homeBed q.line)).held, lineOf e.addr ≠ q.line) →
      ∃ t now rest, exec (.bedWrite id) s = .next t ∧ split t now rest ∧ viewOf t (!q.cx) = viewOf s (!q.cx) ∧
        viewOf t q.cx = now.foldl (fun m a => poke m (q.line + a.off) a.len a.val) (viewOf s q.cx) ∧
        ∃ y ∈ t.resps, y.issue = q.issue ∧ y.gk = q.gk ∧ y.bad = none ∧ y.vals.map (·.lane) = now.map (·.lane))

/-- The sort order of R94: address, key, pan, lane. -/
def updateOrder (a b : OrderedEntry) : Bool :=
  decide (a.addr < b.addr ∨ (a.addr = b.addr ∧ (a.key < b.key ∨ (a.key = b.key ∧ (a.pan < b.pan ∨ (a.pan = b.pan ∧ a.lane ≤ b.lane))))))

/-- The bytes of both views after held updates are applied in the sort order of R94, equal entries in arrival order. -/
def afterWindow (s : State) (es : List OrderedEntry) : Memory × Memory :=
  (es.mergeSort updateOrder).foldl (fun m e =>
    let w := if atop64 e.op then 8 else 4
    if e.cx then (m.1, poke m.2 e.addr w (atomSpec e.op (mnat m.2 e.addr w) e.val))
    else (poke m.1 e.addr w (atomSpec e.op (mnat m.1 e.addr w) e.val), m.2)) (s.mem, s.xmem)

/-- A window has been applied: its updates stand in memory, and each is acknowledged (R93, R94). -/
def WindowApplied (s t : State) (es : List OrderedEntry) : Prop :=
  (t.mem, t.xmem) = afterWindow s es ∧ ∀ e ∈ es, ∃ y ∈ t.resps, y.issue = e.issue ∧ y.gk = e.gk ∧ y.vals = [{ lane := e.lane }]

/-- R93 to R95: an ordered update waits in its bed's window; the window is applied in the sort order of R94 when its timer of
4 µs ends, when it is told to close, when it overflows, or when another partition's update arrives, and the status bit that
R94 gives the cause is set. -/
def Obligations.OrderedWindows : Prop :=
  ∀ s : State,
    let fit (es : List OrderedEntry) : Prop := ∀ e ∈ es, s.badLine e.addr = false ∧ e.op < 0x1C ∧ (e.val < if atop64 e.op then 2 ^ 64 else 2 ^ 32) ∧
      LineReadable s e.part (lineOf e.addr) e.cx e.hint ∧ s.shut (lineOf e.addr) e.issue = false ∧
      (s.bed (homeBed (lineOf e.addr))).merge.length + es.length < 2048
    (∀ id q op, AtBed s id q → q.op = .ordered op →
      let b := homeBed q.line
      let held := (s.bed b).held
      let entry (a : LaneAcc) : OrderedEntry :=
        { addr := q.line + a.off, op := op, val := a.val, key := a.key, pan := q.pan, lane := a.lane, part := q.gk.part, gk := q.gk,
          issue := q.issue, slot := q.slot, rc := q.rc, cx := q.cx, codec := q.codec, hint := q.hint,
          note := if releases q.ord then some { scope := q.scope, pan := q.pan, team := q.team, slot := q.slot } else none }
      (held = [] ∨ (s.bed b).winPart = q.gk.part → held.length + q.accs.length ≤ 16 →
        ∃ t, exec (.orderedUpdateArrival id) s = .next t ∧ (t.bed b).held = held ++ q.accs.map entry ∧ t.mem = s.mem ∧ t.xmem = s.xmem ∧
          t.resps = s.resps ∧ (∀ e ∈ t.fabric, e.id ≠ q.id) ∧ (held = [] → q.accs ≠ [] → (t.bed b).winPart = q.gk.part)) ∧
      (∀ a, q.accs = [a] → held ≠ [] → fit held → ((s.bed b).winPart ≠ q.gk.part ∨ 16 ≤ held.length) →
        ∃ t, exec (.orderedUpdateArrival id) s = .next t ∧ (t.bed b).held = [entry a] ∧ (t.bed b).winPart = q.gk.part ∧
          WindowApplied s t held ∧
          (t.part (s.bed b).winPart).dstat.testBit (if (s.bed b).winPart ≠ q.gk.part then 2 else 0) = true)) ∧
    (∀ b, s.wants = [] → (s.bed b).held ≠ [] → fit (s.bed b).held → (s.bed b).winOpen + 4000 ≤ s.clock.nanos →
      ∃ t, exec (.windowTimer b) s = .next t ∧ (t.bed b).held = [] ∧ WindowApplied s t (s.bed b).held ∧
        (t.part (s.bed b).winPart).dstat.testBit 1 = true) ∧
    (∀ i r, s.wants = [] → s.closes[i]? = some r → (s.bed r.bed).held ≠ [] → (s.bed r.bed).winPart = r.part → fit (s.bed r.bed).held →
      ∃ t, exec (.bedCloseRequest i) s = .next t ∧ (t.bed r.bed).held = [] ∧ WindowApplied s t (s.bed r.bed).held ∧
        t.closes.length + 1 = s.closes.length ∧ ∀ p, (t.part p).dstat = (s.part p).dstat) ∧
    (∀ id q, AtBed s id q → q.op = .store → isEndpoint q.line = false → fit (s.bed (homeBed q.line)).held →
      (∃ e ∈ (s.bed (homeBed q.line)).held, lineOf e.addr = q.line) →
      ∃ t, exec (.bedWrite id) s = .next t ∧ (t.bed (homeBed q.line)).held = [] ∧
        (t.part (s.bed (homeBed q.line)).winPart).dstat.testBit 3 = true ∧
        viewOf t q.cx = q.accs.foldl (fun m a => poke m (q.line + a.off) a.len a.val)
          (if q.cx then (afterWindow s (s.bed (homeBed q.line)).held).2 else (afterWindow s (s.bed (homeBed q.line)).held).1))

/-- A transaction barrier's fields as its 16 bytes hold them (R102). -/
structure TbFields where
  pend : Nat
  bytes : Int
  init : Nat
  phase : Nat
  err : Bool
  deriving DecidableEq

/-- The fields of a barrier in memory. -/
def tbFields (n : BitVec 128) : TbFields :=
  { pend := (n.extractLsb' 0 32).toNat, bytes := (n.extractLsb' 32 32).toInt, init := (n.extractLsb' 64 32).toNat,
    phase := (n.extractLsb' 96 16).toNat, err := n.getLsbD 118 }

/-- Where PEND and BYTES are 0 the phase completes (R103). -/
def tbSettle (b : TbFields) : TbFields :=
  if b.pend = 0 ∧ b.bytes = 0 then { b with phase := (b.phase + 1) % 2 ^ 16, pend := b.init, bytes := 0 } else b

/-- BYTES moved by `d`, or ERR (R103). -/
def tbMove (b : TbFields) (d : Int) : TbFields :=
  if -(2 ^ 31) ≤ b.bytes + d ∧ b.bytes + d < 2 ^ 31 then { b with bytes := b.bytes + d } else { b with err := true }

/-- R102 to R104, R250: the operations on a transaction barrier at its bed, a test, and the waking of a waiter. -/
def Obligations.BarriersAtTheirBed : Prop :=
  ∀ s : State,
    (∀ id q a, AtBed s id q → q.accs = [a] → s.badLine q.line = false → a.off % 16 = 0 → a.off < 128 →
      let pa := q.line + a.off
      let n : BitVec 128 := BitVec.ofNat 128 (mnat (viewOf s q.cx) pa 16)
      let b := tbFields n
      let valid := n.getLsbD 119
      let room := s.mergeRoom q.line q.cx = true ∧ Readable s q ∧
        ∀ e ∈ (s.bed (homeBed q.line)).held, lineOf e.addr ≠ q.line
      let becomes (i : Instr) (v : Bool) (c : TbFields) : Prop := ∃ t, exec i s = .next t ∧ (∀ e ∈ t.fabric, e.id ≠ q.id) ∧
        t.resps = s.resps ∧ (∀ x, (x < pa ∨ pa + 16 ≤ x) → mget (viewOf t q.cx) x = mget (viewOf s q.cx) x) ∧
        let m : BitVec 128 := BitVec.ofNat 128 (mnat (viewOf t q.cx) pa 16)
        tbFields m = c ∧ m.getLsbD 119 = v
      let discarded (i : Instr) : Prop := ∃ t, exec i s = .next t ∧ t.mem = s.mem ∧ t.xmem = s.xmem ∧
        (t.part q.gk.part).dstat.testBit 5 = true
      q.line % 128 = 0 → homeBed pa = homeBed q.line →
      (∀ k, k < 2 ^ 32 → q.op = .tb (.init k) → room → becomes (.tbInitOperation id) (valid || k != 0)
        (if k = 0 then { b with err := true } else { pend := k, bytes := 0, init := k, phase := 0, err := false })) ∧
      (∀ d, q.op = .tb (.expect d) → room → if valid then becomes (.tbExpectOperation id) true (tbSettle (tbMove b d))
        else discarded (.tbExpectOperation id)) ∧
      (∀ k, q.op = .tb (.arrive k) → room → if valid then becomes (.tbArriveOperation id) true
          (tbSettle (if b.pend < k then { b with err := true } else { b with pend := b.pend - k }))
        else discarded (.tbArriveOperation id)) ∧
      (∀ k : Nat, q.op = .tb (.deliver k) → room → if valid then becomes (.tbDeliverOperation id) true (tbSettle (tbMove b (-(k : Int))))
        else discarded (.tbDeliverOperation id)) ∧
      (q.op = .tb .test → room → ScopeOk s { q with ord := 1 } → ∃ t, exec (.tbTestOperation id) s = .next t ∧
        (∀ x, (x < pa ∨ pa + 16 ≤ x) → mget (viewOf t q.cx) x = mget (viewOf s q.cx) x) ∧
        let m : BitVec 128 := BitVec.ofNat 128 (mnat (viewOf t q.cx) pa 16)
        let done := valid = true ∧ 1 ≤ (b.phase + 2 ^ 16 - a.val % 2 ^ 16) % 2 ^ 16 ∧ (b.phase + 2 ^ 16 - a.val % 2 ^ 16) % 2 ^ 16 ≤ 2 ^ 15
        tbFields m = (if valid then tbSettle b else b) ∧ m.getLsbD 119 = valid ∧
        (valid = false → (t.part q.gk.part).dstat.testBit 5 = true) ∧
        (Answers t q true fun _ _ v _ => (v = 1 ↔ done) ∧ v ≤ 1) ∧
        (¬ done → valid = true → b.pend ≠ 0 ∨ b.bytes ≠ 0 → a.key = 1 → (s.bed (homeBed pa)).watch.length < 64 →
          ({ addr := pa, phase := a.val % 2 ^ 16, pan := q.pan, slot := q.slot, gk := q.gk } : Watch) ∈ (t.bed (homeBed pa)).watch))) ∧
    (∀ i b w p k g tm, s.dueWatches[i]? = some (b, w) → s.findGroup w.gk = some (p, k, g, tm) →
      ∃ t, exec (.phaseNotice i) s = .next t ∧ (t.bed b).watch = (s.bed b).watch.erase w ∧
        t.group p k = some { g with watching := false } ∧ t.mem = s.mem) ∧
    (∀ p k g tm, s.group p k = some g → s.team p g.team = some tm → g.watching = true → (s.pan p).off = false →
      (∀ b ∈ s.beds, ∀ w ∈ b.2.watch, w.gk ≠ gkeyOf tm g.num) →
      ∃ t, exec (.watchRetest p k) s = .next t ∧ t.group p k = some { g with watching := false } ∧ t.mem = s.mem)

/-- R85, R88, R90, R105, R133: the other work of the beds: a fill makes its line readable; an entry of the merge buffer leaves,
a brine-window line of stored bytes towards the brine window, where it is durable once written; a persist request is answered
when no earlier brine write is under way; budgets are refilled at a microsecond; way masks change, and what lies in lost ways
is gone before BUSY falls. -/
def Obligations.BedLinesAndMasks : Prop :=
  ∀ s : State,
    (∀ i b k w e, s.fills[i]? = some (b, k, w) → tget (tgetD (s.bed b).sets k []) w = some e → e.st = .filling →
      ∃ t, exec (.lineFillReturn i) s = .next t ∧ tget (tgetD (t.bed b).sets k []) w =
          some { e with st := if ((s.bed b).mergeOf e.line e.cx).isSome then .dirty else .clean } ∧
        t.fills.length + 1 = s.fills.length ∧ t.mem = s.mem) ∧
    (∀ b i e, (s.bed b).merge[i]? = some e → e.cx = false → homeBed e.line = b →
      e.mask = BitVec.allOnes 128 ∨ 2048 ≤ (s.bed b).merge.length ∨ e.since + 512 ≤ s.clock.cycles →
      (let way := wayFind (tgetD (s.bed b).sets (setOf e.line) []) e.part e.line false
       (∃ j w, way = some (j, w) ∧ w.st ≠ .filling) ∨ (way = none ∧ s.bypass e.part e.line e.hint = true)) →
      ∃ t, exec (.mergeBufferEvict b i) s = .next t ∧ t.mem = s.mem ∧ t.xmem = s.xmem ∧ t.durable = s.durable ∧
        (t.bed b).merge.length + 1 = (s.bed b).merge.length ∧
        if isBrine e.line then ∃ w ∈ t.brineWrites, w.line = e.line ∧ w.bytes = mread s.mem e.line 128
        else t.brineWrites = s.brineWrites) ∧
    (∀ i w, s.brineWrites[i]? = some w → (∀ e ∈ s.brineWrites.take i, e.line ≠ w.line) →
      ∃ t, exec (.brineWindowWriteDone i) s = .next t ∧ t.durable = mwrite s.durable w.line w.bytes ∧
        t = { s with durable := t.durable, brineWrites := t.brineWrites }) ∧
    (∀ i r, s.persists[i]? = some r → s.brineWrites = [] → s.blockOuts = [] → s.overflow = [] →
      (∀ e ∈ (s.bed r.bed).merge, isBrine e.line = false) →
      ∃ t, exec (.bedPersistRequest i) s = .next t ∧ t.persists.length + 1 = s.persists.length ∧ t = { s with persists := t.persists }) ∧
    (∀ i r e, s.persists[i]? = some r → e ∈ (s.bed r.bed).merge → isBrine e.line = true → e.id < r.upto →
      exec (.bedPersistRequest i) s = .next s) ∧
    (∀ p, (s.pan p).ptick < s.clock.nanos / 1000 → ∃ t, exec (.salternBudgetRefill p) s = .next t ∧ (t.pan p).pbal = (s.pan p).pbud ∧
      t = { s with pans := t.pans }) ∧
    (∀ p m, (∀ e ∈ s.parts, e.1 ≠ p → e.2.salMask &&& m.toNat = 0) → ∃ t, exec (.salWaysWrite p m) s = .next t ∧
      (t.part p).salMask = m.toNat ∧ t = { s with parts := t.parts } ∧
      ((∃ w, w < 16 ∧ (s.part p).salMask.testBit w = true ∧ m.getLsbD w = false) → (t.part p).salBusy = true)) ∧
    (∀ p m, (∃ e ∈ s.parts, e.1 ≠ p ∧ e.2.salMask &&& m.toNat ≠ 0) → exec (.salWaysWrite p m) s = .next s) ∧
    (∀ p, (s.part p).salBusy = true →
      (∀ b ∈ s.beds, ∀ ws ∈ b.2.sets, ∀ e ∈ ws.2, e.2.part = p → (s.part p).salMask.testBit e.1 = false → e.2.st = .clean ∨ e.2.st = .dirty) →
      ∃ t, exec (.maskReductionComplete p) s = .next t ∧ (t.part p).salBusy = false ∧ t.mem = s.mem ∧
        ∀ b ∈ t.beds, ∀ ws ∈ b.2.sets, ∀ e ∈ ws.2, e.2.part = p → (s.part p).salMask.testBit e.1 = true)

/-- R28, R34, R35, R131, R166, R418: a response that completes every lane of a counted issue writes the values, cut by the
issue's extension, into the destinations of its lanes and marks them full, and lowers the counter. -/
def Obligations.ResponsesFillAndCount : Prop :=
  ∀ (s : State) (n : Nat) (y : Resp) (p k : Nat) (g : Group) (tm : Team) (i : Issue) (c : Ctr),
    s.resps[n]? = some y → s.findGroup y.gk = some (p, k, g, tm) → y.child = 0 → y.scopeFail = none → y.bad = none → y.keep = false →
    (∀ e ∈ g.th, e.2.park ≠ some .joinEv) → g.issues = [i] → i.id = y.issue → i.ctr = some c → 1 ≤ g.ctr.get c → i.wait = none → i.failed = none → i.bad = none →
    (∀ e ∈ i.lanes, e.2 = {}) → i.lanes.map (·.1) = y.vals.map (·.lane) → (y.vals.map (·.lane)).Nodup → (∀ v ∈ y.vals, v.parts = 1) →
    (∃ e ∈ g.th, e.2.st ≠ .exited) →
    ∃ t h, exec (if y.load then .loadReturn n else .writeAck n) s = .next t ∧ t.mem = s.mem ∧ t.group p k = some h ∧
      h.ctr = g.ctr.mod c (· - 1) ∧ h.issues = [] ∧ t.resps.length + 1 = s.resps.length ∧
      let bits (v : Nat) : Nat := match i.ext with
        | .zero => v
        | .sext8 => ((BitVec.ofNat 8 v).signExtend 32).toNat
        | .sext16 => ((BitVec.ofNat 16 v).signExtend 32).toNat
      (∀ v ∈ y.vals, ∀ a, g.thread v.lane = some a → a.st ≠ .exited → ∃ b, h.thread v.lane = some b ∧
        b.flags = a.flags ||| BitVec.ofNat 5 v.flags ∧
        match i.dst with
        | .g _ => v.lane = i.top → dstNat h b i.regs i.dst = bits v.val % 2 ^ (32 * i.regs) ∧ h.ge &&& marksG i.dst i.regs = 0
        | d => dstNat h b i.regs d = cut d i.regs (bits v.val) ∧ b.ve &&& marksV d i.regs = 0 ∧ b.pe &&& marksP d = 0) ∧
      ∀ l, l ∉ y.vals.map (·.lane) → h.thread l = g.thread l

/-! ## Copies, synchronisation and matrix instructions -/

/-- One outstanding issue of a group waits, for these lanes and nothing else of the group's. -/
def SoleIssue (g : Group) (id : Nat) (c : Ctr) (lanes : List Nat) (d : Dst) : Prop :=
  lanes.Nodup ∧ ∃ i, g.issues = [i] ∧ i.id = id ∧ i.ctr = some c ∧ i.dst = d ∧ i.lanes = lanes.map (fun l => (l, {})) ∧ i.regs = 1 ∧ i.ext = .zero ∧ i.wait = none ∧
    i.failed = none ∧ i.bad = none ∧ i.whole = false

/-- The value of a source in the lowest active thread (R243). -/
def lowest (g : Group) (r : RunIn) (x : Std) (k : Nat) (a : Src) : Nat :=
  laneVal g (fun th => srcNat g th k a) ((activeLanes g r x).headD 0)

/-- The layout of a CPY descriptor holds (R142). -/
def CpyFits (d : BitVec 256) (size : Nat) : Prop :=
  let dir := (d.extractLsb' 166 2).toNat
  let len := (d.extractLsb' 128 32).toNat
  let scratch (a : BitVec 64) : Prop := a.toNat < 2 ^ 32 ∧ a.toNat + len ≤ size
  d.extractLsb' 162 4 = 0 ∧ d.extractLsb' 172 4 = 0 ∧ d.extractLsb' 180 12 = 0 ∧ len ≤ 16777216 ∧
  (dir = 1 ∨ dir = 3 → scratch (d.extractLsb' 0 64)) ∧ (dir = 0 ∨ dir = 3 → scratch (d.extractLsb' 64 64))

/-- R140 to R142, R145, R245: CPY, CPYT and CPYG read their descriptor from scratchpad as they issue and raise CP; CPYT and CPYG
join the command queue, a CPY slice the entry of its team and slot in the assembly table, which becomes one command with its last
slice; a CPY descriptor whose COMP is 0 is in breach exactly where its layout does not hold; a descriptor outside the allocation, or
misaligned, tears the slot down. -/
def Obligations.CopyInstructionsQueue : Prop :=
  ∀ (x : Std) (s : State) (g : Group) (r : RunIn) (tm : Team),
    let p := s.actor.1
    let core := (s.pan p).core
    let off := lowest g r x 1 x.a
    let desc (n : Nat) : Nat := mnat core.scratch (tm.base + off) n
    let inside (n : Nat) : Prop := off % 16 = 0 ∧ off + n ≤ tm.size
    let mine (op n : Nat) (y : Slice) : Prop := y.gk = gkeyOf tm g.num ∧ y.issue = s.nextId ∧ y.lanes = activeLanes g r x ∧ y.op = op ∧
      y.desc = desc n ∧ y.bad = y.breach ∧ y.rc = (s.pan p).rc + 1 ∧ y.base = tm.base ∧ y.size = tm.size
    (∀ e ∈ [(0x91, 1, 64, Instr.cpyt x), (0x92, 2, 48, .cpyg x)], Executes e.1 x s g r tm → g.ctr.cp < 63 → inside e.2.2.1 →
      core.squeue.length < 32 →
      ∃ t y, exec e.2.2.2 s = .next t ∧ Counted s t g r x .none 1 .cp ∧ mine e.2.1 e.2.2.1 y ∧
        (t.pan p).core.squeue = core.squeue ++ [[y]] ∧ t.mem = s.mem ∧ (t.pan p).core.scratch = core.scratch) ∧
    (Executes 0x90 x s g r tm → g.ctr.cp < 63 → inside 32 →
      let slot := bitsOf (desc 32) 176 4
      let count := bitsOf (desc 32) 168 4 + 1
      let old := core.asm.find? fun e => e.team == g.team && e.slot == slot && e.away.isNone
      (∀ y, mine 0 32 y → bitsOf (desc 32) 192 64 = 0 → (y.breach = false ↔ CpyFits (BitVec.ofNat 256 (desc 32)) tm.size)) ∧
      (old = none → count ≠ 1 → core.asm.length < 16 →
        ∃ t y, exec (.cpy x) s = .next t ∧ Counted s t g r x .none 1 .cp ∧ mine 0 32 y ∧
          (t.pan p).core.asm = core.asm ++ [{ team := g.team, slot := slot, count := count, slices := [y] }] ∧
          (t.pan p).core.squeue = core.squeue) ∧
      (old = none → count = 1 → core.asm.length < 16 → core.squeue.length < 32 →
        ∃ t y, exec (.cpy x) s = .next t ∧ Counted s t g r x .none 1 .cp ∧ mine 0 32 y ∧ (t.pan p).core.squeue = core.squeue ++ [[y]]) ∧
      (∀ e, old = some e → e.slices ≠ [] → e.slices.length + 1 ≠ e.count →
        ∃ t y, exec (.cpy x) s = .next t ∧ Counted s t g r x .none 1 .cp ∧ mine 0 32 y ∧ (t.pan p).core.squeue = core.squeue ∧
          ∃ f ∈ (t.pan p).core.asm, f.team = g.team ∧ f.slot = slot ∧ f.away = none ∧ f.slices = e.slices ++ [y]) ∧
      (∀ e, old = some e → e.slices ≠ [] → e.slices.length + 1 = e.count → core.squeue.length < 32 →
        ∃ t y cmd, exec (.cpy x) s = .next t ∧ Counted s t g r x .none 1 .cp ∧ mine 0 32 y ∧
          (t.pan p).core.squeue = core.squeue ++ [cmd] ∧ cmd.length = e.count ∧
          (∀ f ∈ (t.pan p).core.asm, ¬ (f.team = g.team ∧ f.slot = slot ∧ f.away = none)) ∧
          (∀ z ∈ e.slices ++ [y], ∃ w ∈ cmd, w.issue = z.issue ∧ w.desc = z.desc) ∧
          ((∀ z ∈ e.slices ++ [y], ∀ u ∈ e.slices ++ [y], bitsOf z.desc 168 4 = bitsOf u.desc 168 4) → ∀ w ∈ cmd, w.mismatch = false) ∧
          cmd.Pairwise fun a b => a.gk.num ≤ b.gk.num)) ∧
    (∀ e ∈ [(0x90, 32, Instr.cpy x), (0x91, 64, .cpyt x), (0x92, 48, .cpyg x)], Executes e.1 x s g r tm → g.ctr.cp < 63 →
      (off % 16 ≠ 0 ∨ tm.size < off + e.2.1) →
      ∃ t, exec e.2.2 s = .next t ∧ (t.asSlot tm.part tm.slot).torn = true ∧ t.mem = s.mem)

/-- The bytes that a move of a slice reads, where nothing keeps it from them: bytes of its own, bytes of the team's scratchpad, or bytes
of a page that is no window (R66, R142, R143). -/
def MoveReads (s : State) (p : Nat) (q : SliceRun) (m : Move) (bs : List Byte) : Prop :=
  match m.src with
  | .bytes b => bs = b
  | .scratch off => (s.pan p).spoiltIn (q.slice.base + off) m.len = none ∧ bs = mread (s.pan p).core.scratch (q.slice.base + off) m.len
  | .glob va => ∃ pa e, leafAt q.leaves va = some (pa, e) ∧ isEndpoint pa = false ∧ s.badLine pa = false ∧
    LineReadable s q.slice.part (lineOf pa) (cxOf e) (if q.slice.ret = 0 then pteRet e else q.slice.ret) ∧
    s.shut (lineOf pa) 0 = false ∧ bs = mread (viewOf s (cxOf e)) pa m.len

/-- A global destination of a move takes its bytes at once (R90, R94, R418). -/
def MoveWrites (s : State) (q : SliceRun) (m : Move) (pa e : Nat) : Prop :=
  leafAt q.leaves m.dst = some (pa, e) ∧ isEndpoint pa = false ∧ s.shut (lineOf pa) 0 = false ∧
    s.mergeRoom (lineOf pa) (cxOf e) = true ∧ ∀ h ∈ (s.bed (homeBed (lineOf pa))).held, lineOf h.addr ≠ lineOf pa

/-- What the moves of a slice copy, byte by byte: `from_ j` is where byte `j` of the `n` bytes is read, `to_ j` where it is written. Each
move lies within one line on either global side. -/
def MovesCopy (ms : List Move) (srcG dstG : Bool) (n : Nat) (from_ to_ : Nat → Nat) : Prop :=
  (ms.map (·.len)).sum = n ∧
  (∀ m ∈ ms, m.toGlobal = dstG ∧ m.len ≤ 128 ∧ (dstG = true → m.dst % 128 + m.len ≤ 128) ∧
    ∃ a, m.src = (if srcG then .glob a else .scratch a) ∧ (srcG = true → a % 128 + m.len ≤ 128)) ∧
  ∀ j, j < n → ∃ m ∈ ms, ∃ a i, m.src = (if srcG then .glob a else .scratch a) ∧ i < m.len ∧ a + i = from_ j ∧ m.dst + i = to_ j

/-- R105, R109, R142 to R148: the moves of a slice whose descriptor holds are these: CPY copies its bytes in order; CPYT brings
each element of the tile from its place in the tensor, or its padding, to the place that the layout gives, or takes it back under DIR 01,
where it lies in the tensor; CPYG brings each element that its index names, and zeros for an index out of range, which it counts. A sluice
takes the oldest admitted slice and fixes its moves; once its pages are translated and its blocks verified it makes one move at a time,
which changes the bytes that it writes and no others; once all are made its CP falls, its completion takes effect and its record is posted,
or it waits for room in the event queue. TAIL of the event queue drops the records that software has read. The pages are no windows, and
nothing keeps the line accesses waiting. -/
def Obligations.SluicesCopy : Prop :=
  (∀ (x : Slice) (scratch : Memory), x.bad = false → x.mismatch = false →
    let d := x.desc
    let ms := (x.moves scratch).1
    (x.op = 0 →
      let dir := bitsOf d 166 2
      MovesCopy ms (dir == 0 || dir == 2) (dir == 1 || dir == 2) (bitsOf d 128 32) (fun j => bitsOf d 0 64 + j) fun j => bitsOf d 64 64 + j) ∧
    (x.op = 1 →
      let e : Nat := 2 ^ bitsOf d 342 2
      let rows := bitsOf d 64 32
      let cols := bitsOf d 96 32
      let gr (i : Nat) : Int := (BitVec.ofNat 32 (bitsOf d 192 32)).toInt + i
      let gc (j : Nat) : Int := (BitVec.ofNat 32 (bitsOf d 224 32)).toInt + j
      let inside (i j : Nat) : Prop := 0 ≤ gr i ∧ gr i < rows ∧ 0 ≤ gc j ∧ gc j < cols
      let va (r c : Int) : Nat := ((bitsOf d 0 64 : Int) + r * bitsOf d 128 64 + c * e).toNat % 2 ^ 64
      let clamp (v : Int) (n : Nat) : Int := Max.max 0 (Min.min v ((n : Int) - 1))
      let pad := bitsOf d 338 2
      let at_ (i j : Nat) : Nat := match bitsOf d 340 2 with
        | 0 => bitsOf d 288 32 + i * bitsOf d 320 16 + j * e
        | 1 => bitsOf d 288 32 + j * bitsOf d 320 16 + i * e
        | _ => bitsOf d 288 32 + i * bitsOf d 320 16 + (((j * e / 16) ^^^ (i % 8)) * 16 + j * e % 16)
      ∃ part : Nat → Nat → List Move,
        ms = (List.range (bitsOf d 256 16)).flatMap (fun i => (List.range (bitsOf d 272 16)).flatMap (part i)) ∧
        ∀ i j, i < bitsOf d 256 16 → j < bitsOf d 272 16 →
          (bitOf d 336 = false → (inside i j ∨ pad = 2) →
            MovesCopy (part i j) true false e (fun b => va (clamp (gr i) rows) (clamp (gc j) cols) + b) fun b => at_ i j + b) ∧
          (bitOf d 336 = false → ¬ inside i j → pad ≠ 2 → ∃ bs, part i j = [{ src := .bytes bs, toGlobal := false, dst := at_ i j, len := e }] ∧
            bs.length = e ∧ ∀ b, b < e → bs.getD b 0 = if pad = 1 then BitVec.ofNat 8 (bitsOf d 352 64 >>> (8 * b)) else 0) ∧
          (bitOf d 336 = true → inside i j →
            MovesCopy (part i j) false true e (fun b => at_ i j + b) fun b => va (gr i) (gc j) + b) ∧
          (bitOf d 336 = true → ¬ inside i j → part i j = [])) ∧
    (x.op = 2 →
      let w := if bitOf d 311 then 8 else 4
      let idx (j : Nat) : Nat := mnat scratch (x.base + bitsOf d 192 32 + j * w) w
      let esz := bitsOf d 288 16
      let n := bitsOf d 224 32
      (x.moves scratch).2 = (List.range n).countP (fun j => decide (bitsOf d 128 64 ≤ idx j)) ∧
      ∃ part : Nat → List Move, ms = (List.range n).flatMap part ∧ ∀ j, j < n →
        (idx j < bitsOf d 128 64 → MovesCopy (part j) true false esz
          (fun b => (bitsOf d 0 64 + idx j * bitsOf d 64 64) % 2 ^ 64 + b) fun b => bitsOf d 256 32 + j * esz + b) ∧
        (bitsOf d 128 64 ≤ idx j → part j = [{ src := .bytes (List.replicate esz 0), toGlobal := false, dst := bitsOf d 256 32 + j * esz,
                                               len := esz }]))) ∧
  (∀ (s : State) (p k : Nat), s.wants = [] →
    (∀ x rest, (s.pan p).core.sready = x :: rest → tget (s.pan p).core.sluices k = none → s.sluiceWorks p k = true →
      s.engineMayStart p x.issue x.rc x.gk x.lanes = true → (s.asSlot x.part x.asSlot).torn = false →
      let ms := x.moves (s.pan p).core.scratch
      (∀ g ∈ slicePages ms.1 x.comp, addressOk s x.part x.asSlot (g.1 * 4096) = true ∧
        ∃ e, tlbFind (s.pan p).l2tlb (asid x.part x.asSlot) (g.1 * 4096) = some e ∧ g.2.granted e = true ∧ isEndpoint (leafPa e (g.1 * 4096)) = false ∧
          isEndpoint (leafPa e (g.1 * 4096) + 4095) = false ∧ cxOf e = false ∧ pageBytes (pteSize e) % 4096 = 0 ∧ pteFrame e % 4096 = 0) →
      ∃ t, exec (.sluiceStart p k) s = .next t ∧ t.mem = s.mem ∧ (t.pan p).core.sready = rest ∧ (t.pan p).core.scratch = (s.pan p).core.scratch ∧
        ∃ q, tget (t.pan p).core.sluices k = some q ∧ q.slice = x ∧ q.moves = ms.1 ∧ q.oob = ms.2 ∧ q.done = 0 ∧ q.asked = [] ∧
          q.st = if x.mismatch then .ended 2 0 0 else if x.bad then .ended 1 0 0 else .ready) ∧
    (∀ (q : SliceRun) (m : Move) (rest : List Move) (bs : List Byte), tget (s.pan p).core.sluices k = some q → q.st = .ready →
      (s.pan p).off = false → (s.pan p).caughtUp = true → q.moves = m :: rest → MoveReads s p q m bs →
      (2 ≤ (s.pan p).paid ∨ ((s.pan p).paid = 0 ∧ s.budget p 2 = true)) →
      (m.toGlobal = true → ∀ pa e, MoveWrites s q m pa e →
        ∃ t, exec (.sliceComplete p k) s = .next t ∧ tget (t.pan p).core.sluices k = some { q with moves := rest, done := q.done + m.len } ∧
          viewOf t (cxOf e) = mwrite (viewOf s (cxOf e)) pa bs ∧ viewOf t (!cxOf e) = viewOf s (!cxOf e) ∧
          (t.pan p).core.scratch = (s.pan p).core.scratch) ∧
      (m.toGlobal = false →
        ∃ t, exec (.sliceComplete p k) s = .next t ∧ tget (t.pan p).core.sluices k = some { q with moves := rest, done := q.done + m.len } ∧
          t.mem = s.mem ∧ t.xmem = s.xmem ∧ (t.pan p).core.scratch = mwrite (s.pan p).core.scratch (q.slice.base + m.dst) bs)) ∧
    (∀ q : SliceRun, ∀ status errva bytes g tm, tget (s.pan p).core.sluices k = some q →
      (q.st = .ended status errva bytes ∨
        (status = 0 ∧ errva = 0 ∧ bytes = q.done ∧ q.st = .ready ∧ q.moves = [] ∧ q.asked = [])) →
      (s.pan p).off = false → (s.pan p).caughtUp = true → s.findGroup q.slice.gk = some (p, q.slice.slot, g, tm) →
      SoleIssue g q.slice.issue .cp q.slice.lanes .none → status < 8 → q.slice.op < 3 → k < 4 → q.slice.team < 8 → q.slice.slot < 136 →
      (∃ e ∈ g.th, e.2.st ≠ .exited) → compOk q.slice.comp = true → bitsOf q.slice.comp 62 2 ≠ 2 →
      let mode := bitsOf q.slice.comp 62 2
      let record := status ≠ 0 ∨ mode = 3
      (record → (s.pan p).core.evqFull = true → ∃ t, exec (.sliceComplete p k) s = .next t ∧
        tget (t.pan p).core.sluices k = some { q with st := .ended status errva bytes } ∧ t.group p q.slice.slot = s.group p q.slice.slot) ∧
      ((record → (s.pan p).core.evqFull = false) → ∃ t h, exec (.sliceComplete p k) s = .next t ∧ tget (t.pan p).core.sluices k = none ∧
        t.group p q.slice.slot = some h ∧ h.ctr = g.ctr.mod .cp (· - 1) ∧
        (mode = 1 → (s.pan p).core.evq.semen = false → (∀ e ∈ (s.pan p).core.teams, gkeyOf e.2 0 = q.slice.gk.team_ → e.1 = g.team) →
          let n := 8 * g.team + bitsOf q.slice.comp 0 6
          tgetD (t.pan p).core.sems n 0 = Nat.min (tgetD (s.pan p).core.sems n 0 + bitsOf q.slice.comp 8 8) (2 ^ 31 - 1)) ∧
        (¬ record → (t.pan p).core.evq = (s.pan p).core.evq) ∧
        (record → (t.pan p).core.evq.head = (s.pan p).core.evq.head + 1 ∧
          ∃ rec_, (t.pan p).core.evq.recs = (s.pan p).core.evq.recs ++ [rec_] ∧ rec_.length = 32 ∧ bitsOf (ofBytes rec_) 28 4 = 0 ∧
            bitsOf (ofBytes rec_) 24 4 = status))) ∧
    (∀ v : Word, (s.pan p).off = false → (s.pan p).core.held = [] → (s.pan p).core.evq.tail ≤ v.toNat → v.toNat ≤ (s.pan p).core.evq.head →
      (s.pan p).core.evq.head < 2 ^ 32 → (s.pan p).core.evq.recs.length = (s.pan p).core.evq.head - (s.pan p).core.evq.tail →
      ∃ t, exec (.evqTailWrite p v) s = .next t ∧ (t.pan p).core.evq.tail = v.toNat ∧ (t.pan p).core.evq.head = (s.pan p).core.evq.head ∧
        (t.pan p).core.evq.recs = (s.pan p).core.evq.recs.drop (v.toNat - (s.pan p).core.evq.tail)))

/-- R124, R149, R247, R248, R252: the semaphores of a team and its stage rings. An instruction whose wait is not satisfied stands
where it stood, as does one that is a release while an earlier access of its threads is under way; one that is an acquire drops the lines
of a private L1; and a ring that the team did not declare is trap 8. -/
def Obligations.SemaphoresAndStageRings : Prop :=
  ∀ (x : Std) (s : State) (g : Group) (r : RunIn) (tm : Team), (∃ l th, InLane x g r l th) → ∀ (opc : Nat), Executes opc x s g r tm →
    let p := s.actor.1
    let k := s.actor.2
    let core := (s.pan p).core
    let a := lowest g r x 1 x.a
    let b := lowest g r x 1 x.b
    let sem := 8 * g.team + a % 8
    let count (c : PanCore) : Nat := tgetD c.sems sem 0
    let goes (t : State) (c : PanCore) : Prop := OnlyGroup (s.modCore p fun _ => c) t p k ∧ PassesOn s t g r (stdWords x)
    let free := s.busy (gkeyOf tm g.num) (activeLanes g r x) = false
    let drops (t : State) : Prop := (s.pan p).fused = false → quarterOf k < 4 → tgetD (t.pan p).l1 (quarterOf k) [] = []
    let sets (t : State) (v : Nat) : Prop := ∃ c, goes t { core with sems := c } ∧ tgetD c sem 0 = v ∧ ∀ j, j ≠ sem → tgetD c j 0 = tgetD core.sems j 0
    (opc = 0x93 → ∃ t, exec (.seminit x) s = .next t ∧ sets t (Nat.min b (2 ^ 31 - 1))) ∧
    (opc = 0x95 → free → ∃ t, exec (.semrel x) s = .next t ∧ sets t (Nat.min (count core + b % 256) (2 ^ 31 - 1))) ∧
    (∀ e ∈ [(0x95, Instr.semrel x), (0x9C, .sgput x), (0x9E, .sgrel x)], opc = e.1 → ¬ free → (s.asSlot tm.part tm.slot).torn = false →
      (opc = 0x95 ∨ (tget core.rings sem).isSome = true) → ∃ t, exec e.2 s = .next t ∧ OnlyGroup s t p k ∧ t.group p k = some g) ∧
    (opc = 0x94 → b % 256 = 0 → ∃ t, exec (.semacq x) s = .next t ∧ PassesOn s t g r (stdWords x) ∧ drops t ∧
      (t.pan p).core.sems = core.sems ∧ (t.pan p).core.semq = core.semq ∧ t.mem = s.mem) ∧
    (opc = 0x94 → b % 256 ≠ 0 → k ∉ (tgetD core.semq sem []).tail →
      (tgetD core.semq sem [] = [] ∨ (tgetD core.semq sem []).head? = some k) → b % 256 ≤ count core →
      ∃ t, exec (.semacq x) s = .next t ∧ PassesOn s t g r (stdWords x) ∧ drops t ∧ tgetD (t.pan p).core.sems sem 0 = count core - b % 256 ∧
        k ∉ tgetD (t.pan p).core.semq sem [] ∧ t.mem = s.mem) ∧
    (opc = 0x94 → b % 256 ≠ 0 → k ∉ tgetD core.semq sem [] → (tgetD core.semq sem [] ≠ [] ∨ count core < b % 256) →
      (s.asSlot tm.part tm.slot).torn = false →
      ∃ t, exec (.semacq x) s = .next t ∧ t.group p k = some g ∧ tgetD (t.pan p).core.semq sem [] = tgetD core.semq sem [] ++ [k] ∧
        (t.pan p).core.sems = core.sems) ∧
    (∀ n q, n = 8 * g.team + a % 8 → tget core.rings n = some q → 0 < q.slots.length →
      let at_ (i : Nat) : RingSt × Nat := q.slots.getD (i % q.slots.length) (.empty, 0)
      let lap (i : Nat) : Nat := i / q.slots.length % 2
      let off (i : Nat) : Nat := q.base + i % q.slots.length * q.slotb
      let becomes (t : State) (w : Ring) : Prop := tget (t.pan p).core.rings n = some w ∧ t.mem = s.mem
      let writes (t : State) (v : Nat) : Prop := ∀ l th, InLane x g r l th → keepsLane x g r l →
        Sys2Proof.State.landed t p k l 1 x.d = some (cut x.d 1 v)
      (opc = 0x9C → at_ q.put = (.empty, lap q.put) →
        (free → ∃ t w, exec (.sgput x) s = .next t ∧ becomes t w ∧ PassesOn s t g r (stdWords x) ∧ w.put = q.put + 1 ∧ w.get = q.get ∧
          w.slots = q.slots.set (q.put % q.slots.length) (.full, lap q.put)) ∧
        ∃ t, exec (.sgputWait x) s = .next t ∧ becomes t q ∧ writes t (off q.put)) ∧
      (opc = 0x9C → at_ q.put ≠ (.empty, lap q.put) → (s.asSlot tm.part tm.slot).torn = false →
        (∃ t, exec (.sgput x) s = .next t ∧ becomes t q ∧ t.group p k = some g) ∧
        ∃ t, exec (.sgputWait x) s = .next t ∧ becomes t q ∧ t.group p k = some g) ∧
      (opc = 0x9D → at_ q.get = (.full, lap q.get) → ∃ t w, exec (.sgget x) s = .next t ∧ becomes t w ∧ writes t (off q.get) ∧ drops t ∧
        w.get = q.get + 1 ∧ w.put = q.put ∧ w.slots = q.slots.set (q.get % q.slots.length) (.held, lap q.get)) ∧
      (opc = 0x9D → at_ q.get ≠ (.full, lap q.get) → (s.asSlot tm.part tm.slot).torn = false →
        ∃ t, exec (.sgget x) s = .next t ∧ becomes t q ∧ t.group p k = some g) ∧
      (opc = 0x9E → free → ∃ t w, exec (.sgrel x) s = .next t ∧ becomes t w ∧
        (0 < q.slotb →
          (∀ j, j < q.slots.length → b = q.base + j * q.slotb → (at_ j).1 = .held → writes t 1 ∧ w.err = q.err ∧
            w.slots = q.slots.set j (.empty, 1 - (at_ j).2)) ∧
          ((∀ j, j < q.slots.length → b = q.base + j * q.slotb → (at_ j).1 ≠ .held) → writes t 0 ∧ w = { q with err := true })))) ∧
    (opc = 0x9D → ∃ t, exec (.sggetErr x) s = .next t ∧ t.mem = s.mem ∧ (∀ n w, tget (t.pan p).core.rings n = some w → n / 8 = g.team → w.err = false) ∧
      ∀ l th, InLane x g r l th → keepsLane x g r l → (∀ n, x.d ≠ .p n) → x.d ≠ .none → tSorted core.rings = true →
        ∃ v, Sys2Proof.State.landed t p k l 1 x.d = some v ∧ v < 2 ^ 8 ∧
          ∀ j, j < 8 → (v.testBit j = true ↔ ∃ w, tget core.rings (8 * g.team + j) = some w ∧ w.err = true)) ∧
    (∀ e ∈ [(0x9C, Instr.sgput x), (0x9C, .sgputWait x), (0x9D, .sgget x), (0x9E, .sgrel x)], opc = e.1 → tget core.rings sem = none →
      tm.trapva ≠ 0 → (s.asSlot tm.part tm.slot).torn = false →
      (∀ l ∈ lanesOf r.set, ∃ th, g.thread l = some th ∧ th.mode = false ∧ th.st ≠ .exited) →
      ∃ t h, exec e.2 s = .next t ∧ t.group p k = some h ∧ h.run = none ∧ t.mem = s.mem ∧
        ∀ l ∈ lanesOf r.set, ∃ u, h.thread l = some u ∧ u.addr = tm.trapva ∧ u.mode = true ∧ u.xcause.toNat % 2 ^ 30 = 8)

/-- R104, R124, R249 to R251: TBINIT, TBEXP and TBARR send their operation, posted, at SCOPE and as a release for all their threads, and
their group goes on; TBTST and TBWAIT send a test and hold their group; BAR, once its threads' earlier accesses have been accepted, parks
its active threads, and releases every arrived thread of the team, whose private L1 loses its lines, once each participant has arrived. -/
def Obligations.BarrierInstructions : Prop :=
  ∀ (x : Std) (s : State) (g : Group) (r : RunIn) (tm : Team),
    let p := s.actor.1
    let k := s.actor.2
    let act := activeLanes g r x
    let va := lowest g r x 2 x.a
    let b := lowest g r x 1 x.b
    let ok (e : Nat) : Prop := Mapped s tm .rw va e ∧ va % 16 = 0 ∧ isEndpoint (leafPa e va) = false ∧
      (cxOf e = true → s.lineHeld tm.part (lineOf (leafPa e va)) = true)
    let sent (t : State) (e : Nat) (op : TbOp) (rel : Bool) (ls : List Nat) (val key : Nat) : Prop :=
      ∃ q ∈ t.fabric, q.issue = s.nextId ∧ q.gk = gkeyOf tm g.num ∧ q.line = lineOf (leafPa e va) ∧ q.op = .tb op ∧ (rel = true → releases q.ord = true) ∧
        ((rel = true → g.fenceScope (act.take 1) = none) → pteDl e = false → q.scope = x.fn.toNat / 16) ∧
        q.rel = (if rel then act else []) ∧ q.accs.map (·.lane) = ls ∧
        ∀ a ∈ q.accs, a.off = leafPa e va - lineOf (leafPa e va) ∧ a.len = 16 ∧ (a.val = val ∧ a.key = key)
    (∀ c ∈ [(0x96, TbOp.init b, Instr.tbinit x), (0x97, .expect (BitVec.ofNat 32 b).toInt, .tbexp x), (0x98, .arrive b, .tbarr x)],
      Executes c.1 x s g r tm → (∃ l th, InLane x g r l th) → ∀ e, ok e →
      ∃ t, exec c.2.2 s = .next t ∧ PassesOn s t g r (stdWords x) ∧ t.mem = s.mem ∧ sent t e c.2.1 true (act.take 1) 0 0) ∧
    (Executes 0x99 x s g r tm → ∀ e, ok e → (∃ l th, InLane x g r l th) →
      ∃ t h, exec (.tbtst x) s = .next t ∧ t.group p k = some h ∧ h.ctr = g.ctr ∧ h.hold.map (·.issue) = some s.nextId ∧ t.mem = s.mem ∧
        sent t e .test false act (b % 2 ^ 16) 0 ∧
        ∀ l a, g.thread l = some a → ∃ u, h.thread l = some u ∧ u.pe = a.pe ||| if l ∈ act then marksP x.d else 0) ∧
    (Executes 0x9A x s g r tm → ∀ e, ok e →
      ∃ t h, exec (.tbwait x) s = .next t ∧ t.group p k = some h ∧ h.run = some r ∧ h.ctr = g.ctr ∧ h.hold.map (·.issue) = some s.nextId ∧
        h.th = g.th ∧ t.mem = s.mem ∧ sent t e .test false act (b % 2 ^ 16) 1) ∧
    (Executes 0x9B x s g r tm → s.busy (gkeyOf tm g.num) act = true → (s.asSlot tm.part tm.slot).torn = false →
      ∃ t, exec (.bar x) s = .next t ∧ OnlyGroup s t p k ∧ t.group p k = some g) ∧
    (Executes 0x9B x s g r tm → (∃ l th, InLane x g r l th) → act = lanesOf r.set → s.busy (gkeyOf tm g.num) act = false →
      let id := lowest g r x 1 x.a % 4
      let M := b % 16
      let arrived (th : Thread) : Prop := ∃ a q, th.park = some (.bar id M a q)
      let goneOrHere (j : Nat) (e : Nat × Thread) : Prop := e.2.st = .exited ∨ arrived e.2 ∨ (j = k ∧ e.1 ∈ act)
      let others : Prop := ∀ e ∈ (s.pan p).core.groups, e.2.team = g.team → ∀ u ∈ e.2.th, (e.1 = k ∧ u.1 ∈ act) ∨
        match u.2.park with
        | some (.bar i m _ _) => i = id ∧ m = M
        | _ => True
      let partOk : Prop := ∀ e ∈ (s.pan p).core.groups, e.2.team = g.team → (M = 0 ∨ M.testBit e.2.role.code = true) → ∀ u ∈ e.2.th, goneOrHere e.1 u
      let next (b : Thread) : Prop := (b.addr, b.entry) = if r.pos + stdWords x = r.count then (r.after, none) else (r.addr, some (r.pos + stdWords x))
      others → tSorted (s.pan p).core.groups = true → (∀ j ∈ s.joined, j.gk.team_ ≠ gkeyOf tm 0) →
      (¬ partOk → ∃ t h, exec (.bar x) s = .next t ∧ t.group p k = some h ∧ h.run = none ∧ t.mem = s.mem ∧
        ∀ l ∈ act, ∃ u, h.thread l = some u ∧ u.st = .parked ∧ u.park = some (.bar id M r.addr r.pos) ∧ u.t = [] ∧ next u) ∧
      (partOk → ∃ t h, exec (.bar x) s = .next t ∧ t.group p k = some h ∧ t.mem = s.mem ∧
        ((s.pan p).fused = false → quarterOf k < 4 → tgetD (t.pan p).l1 (quarterOf k) [] = []) ∧
        (∀ l ∈ act, ∃ u, h.thread l = some u ∧ u.st = .runnable ∧ u.park = none ∧ next u) ∧
        ∀ e ∈ (t.pan p).core.groups, e.2.team = g.team → ∀ u ∈ e.2.th, ¬ arrived u.2))
/-- R254, R255, R257, R263, R264: the matrix instructions raise MX; a command with its parameter block joins its array's queue,
MLDB's registers become an arrival; a full queue and a third arrival wait; MQRY's destination is marked empty. -/
def Obligations.MatrixInstructionsQueue : Prop :=
  ∀ (x : Std) (s : State) (g : Group) (r : RunIn) (tm : Team),
    let p := s.actor.1
    let core := (s.pan p).core
    let q := quarterOf s.actor.2
    let queue := tgetD core.arrays q []
    let off := lowest g r x 1 x.a
    let joins (i : Instr) (opc fn desc o : Nat) (d : Dst) : Prop := ∃ t c, exec i s = .next t ∧ Counted s t g r x d 1 .mx ∧ t.mem = s.mem ∧
      tgetD (t.pan p).core.arrays q [] = queue ++ [c] ∧ (t.pan p).core.scratch = core.scratch ∧ c.gk = gkeyOf tm g.num ∧ c.issue = s.nextId ∧
      c.lanes = activeLanes g r x ∧ c.opc = opc ∧ c.fn = fn ∧ c.desc = desc ∧ c.off = o ∧ c.base = tm.base ∧ c.size = tm.size ∧ c.admitted = false
    (∀ e ∈ [(0xA0, Instr.mma x), (0xA1, .mmas x), (0xA2, .mtrn x), (0xA3, .mprm x), (0xA4, .mred x), (0xA6, .mstc x)],
      Executes e.1 x s g r tm → g.ctr.mx < 63 →
      (off % 64 = 0 → off + 64 ≤ tm.size → queue.length < 8 → joins e.2 e.1 0 (mnat core.scratch (tm.base + off) 48) off x.d) ∧
      (off % 64 = 0 → off + 64 ≤ tm.size → 8 ≤ queue.length → (s.asSlot tm.part tm.slot).torn = false →
        ∃ t, exec e.2 s = .next t ∧ OnlyGroup s t p s.actor.2 ∧ t.group p s.actor.2 = some g) ∧
      (off % 64 ≠ 0 ∨ tm.size < off + 64 → ∃ t, exec e.2 s = .next t ∧ (t.asSlot tm.part tm.slot).torn = true ∧ t.mem = s.mem)) ∧
    (Executes 0xA7 x s g r tm → g.ctr.mx < 63 → queue.length < 8 → joins (.mzero x) 0xA7 x.fn.toNat 0 0 x.d) ∧
    (Executes 0xA8 x s g r tm → g.ctr.mx < 63 → queue.length < 8 → joins (.mqry x) 0xA8 x.fn.toNat 0 0 x.d) ∧
    (∀ n, Executes 0xA5 x s g r tm → g.ctr.mx < 63 → x.a = .v n → (x.b = .none ∨ ∃ m, x.b = .v m) →
      let aux := x.fn.toNat / 2 % 16
      let m := match x.b with
        | .v m => m.toNat
        | _ => 0
      (∀ e ∈ g.th, e.2.ve &&& spanMask 256 n.toNat 16 = 0 ∧ e.2.ve &&& spanMask 256 m aux = 0) → g.barr.length < 2 →
      ∃ t h a, exec (.mldb x) s = .next t ∧ Counted s t g r x .none 1 .mx ∧ t.mem = s.mem ∧ t.group p s.actor.2 = some h ∧
        h.barr = g.barr ++ [a] ∧ a.rc = (s.pan p).rc + 1 ∧ a.bbuf = x.fn.toNat / 32 ∧ a.issue = s.nextId ∧ a.b.aux = aux ∧ a.b.data.length = 2048 ∧
        ∀ o, o < 2048 → a.b.data[o]? = some (BitVec.ofNat 8 ((match g.thread (o % 128 / 4) with
          | some th => (th.rv (n.toNat + o / 128)).toNat
          | none => 0) >>> (8 * (o % 4))))) ∧
    (∀ n, Executes 0xA5 x s g r tm → g.ctr.mx < 63 → x.a = .v n → 2 ≤ g.barr.length → (s.asSlot tm.part tm.slot).torn = false →
      ∃ t, exec (.mldb x) s = .next t ∧ OnlyGroup s t p s.actor.2 ∧ t.group p s.actor.2 = some g)

/-- Element `idx` of `w` bits in a string of bytes. -/
def bitsAt (w idx : Nat) (bs : List Byte) : Nat := ofBytes bs / 2 ^ (w * idx) % 2 ^ w

/-- GroupSum of R185 over the products of one K-group, with the flag of R186. -/
def groupSpec (ps : List (FVal × FVal)) : FVal × Nat :=
  let prods := ps.map fun p => wholeProduct p.1 p.2
  let bad := ps.any fun p => !p.1.isNan && !p.2.isNan && zeroTimesInf p.1 p.2
  if ps = [] then (.fin false 0 1, 0)
  else if bad || ps.any (fun p => p.1.isNan || p.2.isNan) then
    (.nan false, if bad || ps.any (fun p => p.1.isSig || p.2.isSig) then fv else 0)
  else if prods.any (fun v => v.isInf && v.neg) && prods.any (fun v => v.isInf && !v.neg) then (.nan false, fv)
  else if prods.any (fun v => v.isInf && !v.neg) then (.inf false, 0)
  else if prods.any (fun v => v.isInf) then (.inf true, 0)
  else (ofRat (prods.all fun v => v.isZero && v.neg) (prods.map ratOf).sum, 0)

/-- One Add of R185 into an accumulator: its code and the flags so far. -/
def accumulateSpec (f : Fmt) (acc : Nat × Nat) (v : FVal × Nat) : Nat × Nat :=
  let a := decodeF f acc.1
  let r := arith f [a, v.1] (oppositeInf a v.1) (wholeSum a v.1 0) 0
  (r.code, acc.2 ||| r.flags ||| v.2)

/-- Where operands lie, and the K-groups of a product at a cell (R258, R260, R261): the pairs of each group that are present, and
whether its metadata is illegal. -/
def kGroups (c : MxCmd) (scratch : Memory) (b : MxBank) (m n : Nat) : List (List (FVal × FVal) × Bool) :=
  let f := c.afmt
  let w := mxBits f
  let kq := mxKt c.bfmt / 4
  let tile (i j : Nat) : Nat := bitsAt w j (mread scratch (c.base + c.aoff + i * c.apitch) ((j + 1) * 8))
  let decode (fmt code scale : Nat) : FVal := if fmt = 4 then q4Decode scale code else decodeF (mxFmt fmt) code
  let a (k : Nat) : FVal := decode f (tile m k) (mget scratch (c.base + c.asoff + m * ((c.k + 31) / 32) + k / 32)).toNat
  let quarter (q : Nat) : BQuarter := tgetD b.bufs (4 * c.bbuf + q) {}
  let stored (pos : Nat) : Nat := bitsAt (mxBits c.bfmt) (pos % kq * mxNt c.bfmt + n) (quarter (pos / kq)).data
  let aux (q o : Nat) : Nat := ((quarter q).auxb.getD o 0).toNat
  let sparse := c.opc = 0xA1
  let scale (k : Nat) : Nat := if sparse then aux (k / 32 / 4) (4 * mxKt c.bfmt + n * 4 + k / 32 % 4) else aux (k / 32 / 2) (n * 2 + k / 32 % 2)
  let nib (g : Nat) : Nat := bitsAt 4 (g % (kq / 2) * mxNt c.bfmt + n) (quarter (g / (kq / 2))).auxb
  let one : FVal := .fin false 1 1
  let x (i j : Nat) : FVal × FVal := (one, decode f (tile i j) 0)
  let ks (g : Nat) : List Nat := ((List.range 32).map (32 * g + ·)).filter (· < c.k)
  match c.opc with
  | 0xA0 => (List.range ((c.k + 31) / 32)).map fun g => ((ks g).map fun k => (a k, decode c.bfmt (stored k) (scale k)), false)
  | 0xA1 => (List.range ((c.k + 31) / 32)).map fun g =>
      ((ks g).filterMap fun k =>
          if k % 4 = nib (k / 4) % 4 then some (a k, decode c.bfmt (stored (k / 4 * 2)) (scale k))
          else if k % 4 = nib (k / 4) / 4 then some (a k, decode c.bfmt (stored (k / 4 * 2 + 1)) (scale k)) else none,
        (ks g).any fun k => decide (nib (k / 4) / 4 ≤ nib (k / 4) % 4))
  | 0xA2 => [([x n m], false)]
  | 0xA3 =>
    let i := (mget scratch (c.base + c.permoff + m)).toNat
    [(if i < c.k then [x i n] else [], false)]
  | _ => (List.range ((c.k + 31) / 32)).map fun g => ((ks g).map fun k => x k n, false)

/-- The cell that MatrixAccumulate of R185 gives, with the bits that its record gathers. -/
def cellSpec (c : MxCmd) (scratch : Memory) (b : MxBank) (f : Fmt) (init m n : Nat) : Nat × Nat :=
  (kGroups c scratch b m n).foldl (fun acc g => accumulateSpec f acc (if g.2 then (.nan false, 32 + fv) else groupSpec g.1)) (init, 0)

/-- R129, R148, R185, R186, R254 to R264: what the command at the head of an array's queue leaves of its bank, scratchpad, record, event
queue and counter: its effect, and status 0; status 1 and no effect where it fails its checks; status 5 and no effect where it reads an
uncorrectable datum; and what the broadcast of a set's quarters, whose MLDBs have retired, leaves of the B buffers. -/
def Obligations.MatrixCommandsCompute : Prop :=
  ∀ (s : State) (p qt : Nat),
    (∀ c rest g tm, tgetD (s.pan p).core.arrays qt [] = c :: rest → s.findGroup c.gk = some (p, c.slot, g, tm) → s.group p c.slot = some g →
      SoleIssue g c.issue .mx c.lanes (if c.opc = 0xA8 then .v 9 else .none) → (∃ e ∈ g.th, e.2.st ≠ .exited) → s.testing .matrix p (· == qt) = false →
      c.awaits g = false → s.engineMayStart p c.issue c.rc c.gk c.lanes = true → (s.pan p).core.evqFull = false → g.mx.seq < 2 ^ 32 →
      let scratch := (s.pan p).core.scratch
      let done (t : State) (h : Group) : Prop := exec (.matrixCommandComplete p qt) s = .next t ∧ t.group p c.slot = some h ∧
        h.ctr = g.ctr.mod .mx (· - 1) ∧ tgetD (t.pan p).core.arrays qt [] = rest ∧ t.mem = s.mem
      let w := mxBits c.afmt / 8
      let cells := (List.range c.m).flatMap fun m => (List.range c.n).map fun n => (m, n)
      let record (status bits : Nat) : List Byte := bytesOf (status * 2 ^ 28 + bits) 4 ++ bytesOf ((g.mx.seq + 1) % 2 ^ 32) 4 ++ bytesOf 0 8
      let recordAt (m : Memory) (status bits : Nat) : Memory := mwrite m (c.base + c.off + 48) (record status bits)
      let clean := (∀ r ∈ c.reads, (s.pan p).spoiltIn (c.base + r.1) r.2 = none) ∧
        (c.opc ∈ [0xA0, 0xA1] → ∀ q, q < 4 → (tgetD g.mx.bufs (4 * c.bbuf + q) {}).bad = false)
      let posts (t : State) (status : Nat) : Prop := (t.pan p).core.evq.recs.length = (s.pan p).core.evq.recs.length +
        if c.evq = true ∨ status ≠ 0 then 1 else 0
      (c.opc ∈ [0xA0, 0xA1, 0xA2, 0xA3, 0xA4] → c.admitted = true → c.blockOk = true → c.headOk g.mx = true → clean →
        let f := if c.afmt = 6 then f64 else f32
        let zero := c.zi
        let rows := if c.opc = 0xA4 then [c.row] else List.range c.m
        let cellOf (m n : Nat) : Nat × Nat := cellSpec c scratch g.mx f (if zero then 0 else tgetD g.mx.cells (64 * m + n) 0) m n
        ∃ t h, done t h ∧ h.mx.mode64 = decide (c.afmt = 6) ∧ h.mx.seq = (g.mx.seq + 1) % 2 ^ 32 ∧ h.mx.bufs = g.mx.bufs ∧
          (∀ m ∈ rows, ∀ n, n < c.n → tgetD h.mx.cells (64 * m + n) 0 = (cellOf m n).1) ∧
          (g.mx.mode64 = decide (c.afmt = 6) → ∀ k, (∀ m ∈ rows, ∀ n, n < c.n → k ≠ 64 * m + n) → tgetD h.mx.cells k 0 = tgetD g.mx.cells k 0) ∧
          (let bits := (rows.flatMap fun m => (List.range c.n).map fun n => (cellOf m n).2).foldl (· ||| ·) 0
           (t.pan p).core.scratch = recordAt scratch 0 bits ∧ h.mx.status = g.mx.status ||| bits) ∧ posts t 0) ∧
      (c.opc = 0xA6 → c.admitted = true → c.blockOk = true → c.headOk g.mx = true → clean →
        let out (k : Nat × Nat) : FRes := roundF (mxFmt c.afmt) (decodeF (if g.mx.mode64 then f64 else f32) (tgetD g.mx.cells (64 * k.1 + k.2) 0)) c.rnd c.sat
        let stored := cells.foldl (fun m k => poke m (c.base + c.aoff + k.1 * c.apitch + k.2 * w) w (out k).code) scratch
        ∃ t h, done t h ∧ (t.pan p).core.scratch = recordAt stored 0 (cells.foldl (fun a k => a ||| (out k).flags) 0) ∧
          h.mx.mode64 = g.mx.mode64 ∧ (∀ k, tgetD h.mx.cells k 0 = if c.zi then 0 else tgetD g.mx.cells k 0) ∧ posts t 0) ∧
      (c.opc ∈ [0xA0, 0xA1, 0xA2, 0xA3, 0xA4, 0xA6] → c.blockOk = false ∨ c.headOk g.mx = false →
        ∃ t h, done t h ∧ (t.pan p).core.scratch = recordAt scratch 1 0 ∧ h.mx.cells = g.mx.cells ∧ h.mx.mode64 = g.mx.mode64 ∧
          h.mx.failed = Nat.min (g.mx.failed + 1) 255 ∧ posts t 1) ∧
      (c.opc ∈ [0xA0, 0xA1, 0xA2, 0xA3, 0xA4] → c.admitted = true → c.blockOk = true → c.headOk g.mx = true → ¬ clean →
        ∃ t h, done t h ∧ (t.pan p).core.scratch = recordAt scratch 5 0 ∧ h.mx.cells = g.mx.cells ∧ h.mx.mode64 = g.mx.mode64 ∧
          h.mx.failed = Nat.min (g.mx.failed + 1) 255 ∧ posts t 5) ∧
      (c.opc = 0xA7 → c.admitted = true → ∃ t h, done t h ∧ (∀ k, tgetD h.mx.cells k 0 = 0) ∧ h.mx.mode64 = bitOf c.fn 5 ∧
        (t.pan p).core.scratch = scratch) ∧
      (c.opc = 0xA8 → ∃ t h, done t h ∧ h.mx.cells = g.mx.cells ∧ (t.pan p).core.scratch = scratch ∧
        (if c.fn = 1 then h.mx.failed = 0 ∧ h.mx.status = 0 else h.mx.failed = g.mx.failed ∧ h.mx.status = g.mx.status) ∧
        (g.mx.failed < 256 → g.mx.status < 64 → ∀ l ∈ c.lanes, ∀ a, g.thread l = some a → a.st ≠ .exited → ∃ b, h.thread l = some b ∧
          b.rv 9 = BitVec.ofNat 32 (g.mx.seq % 2 ^ 16 * 2 ^ 16 + g.mx.failed * 2 ^ 8 + g.mx.mode64.toNat * 2 ^ 7 + g.mx.status) ∧ b.ve.getLsbD 9 = false))) ∧
    (∀ team set (bb : Bool) tm s1, tget (s.pan p).core.teams team = some tm → (s.pan p).off = false → (s.pan p).caughtUp = true → s.joined = [] →
      let gs := (s.pan p).core.setGroups team set
      gs ≠ [] → tSorted (s.pan p).core.groups = true → (gs.map (·.2.num % 4)).Nodup →
      s.affords p tm.part (s.holdsChain (gkeyOf tm 0)) tm.cls 6 gs.length = some s1 →
      (∀ e ∈ gs, ∃ a, e.2.barr.find? (·.bbuf == bb.toNat) = some a ∧ a.rc ≤ (s.pan p).drc ∧ SoleIssue e.2 a.issue .mx a.lanes .none ∧
        s.findGroup (gkeyOf tm e.2.num) = some (p, e.1, e.2, tm) ∧ (∃ u ∈ e.2.th, u.2.st ≠ .exited) ∧
        ∀ c ∈ tgetD (s.pan p).core.arrays (quarterOf e.1) [], c.slot = e.1 → c.opc = 0xA0 ∨ c.opc = 0xA1 → c.bbuf = bb.toNat → a.issue ≤ c.issue) →
      ∃ t, exec (.mldbBroadcast p team set bb) s = .next t ∧ t.mem = s.mem ∧
        ∀ e ∈ gs, ∃ h, t.group p e.1 = some h ∧ h.ctr = e.2.ctr.mod .mx (· - 1) ∧ h.barr.length + 1 = e.2.barr.length ∧
          h.mx.cells = e.2.mx.cells ∧ ∀ q, q < 4 → tgetD h.mx.bufs (4 * bb.toNat + q) {} =
            match gs.find? (fun u => u.2.num % 4 == q) with
            | some u => ((u.2.barr.find? (·.bbuf == bb.toNat)).map (·.b)).getD {}
            | none => {})

/-! ## Control, traps and special registers -/

/-- The active threads of an instruction of `n` words leave the run as `f` gives them; the others go on, or fall through at the
run's end (R17, R318). Nothing else of the machine has changed but active places and energy. -/
def Leaves (s t : State) (g : Group) (r : RunIn) (act : List Nat) (n : Nat) (f : Thread → Thread) : Prop :=
  ∃ h, t.group s.actor.1 s.actor.2 = some h ∧ OnlyGroup s t s.actor.1 s.actor.2 ∧
    h = { g with st := h.st, active := h.active, readySince := h.readySince, activeSince := h.activeSince, run := h.run,
                 overtaken := h.overtaken, th := h.th } ∧
    (if (∀ l ∈ lanesOf r.set, l ∈ act) ∨ r.count ≤ r.pos + n then h.run = none
     else ∃ q, h.run = some q ∧ q.addr = r.addr ∧ q.pos = r.pos + n ∧ ∀ l, l ∈ lanesOf q.set ↔ l ∈ lanesOf r.set ∧ l ∉ act) ∧
    ∀ l a, g.thread l = some a → h.thread l = some (if l ∈ act then f a
      else if l ∈ lanesOf r.set ∧ r.count ≤ r.pos + n then { a with addr := r.after, entry := none } else a)

/-- The thread after TrapEntry of R330: `act` is whether the instruction was active in it, `lanes` the lanes that enter. -/
def entered (a : Thread) (r : RunIn) (tm : Team) (act : Bool) (lanes : BitVec 32) (cause pos info : Nat) : Thread :=
  { a with
    xpc := BitVec.ofNat 64 r.addr
    xpos := BitVec.ofNat 32 pos
    xcause := BitVec.ofNat 32 (cause + 2 ^ 31 + if act then 2 ^ 30 else 0)
    xinfo := BitVec.ofNat 64 info
    xlanes := lanes
    tsave := a.t
    addr := tm.trapva
    entry := none
    mode := true
    pass := 0
    st := .runnable
    park := none }

/-- Every thread of the set takes the trap, and the machine is otherwise as it was but for the counter of free values and energy
(R330). -/
def TrapTaken (s t : State) (g : Group) (r : RunIn) (tm : Team) (act : List Nat) (cause pos : Nat) (info : Thread → Nat) : Prop :=
  ∃ h, t.group s.actor.1 s.actor.2 = some h ∧ OnlyGroup { s with freeCtr := t.freeCtr } t s.actor.1 s.actor.2 ∧
    h = { g with st := h.st, run := none, overtaken := h.overtaken, th := h.th } ∧
    ∀ l a, g.thread l = some a → h.thread l = some (if l ∈ lanesOf r.set then
      entered a r tm (decide (l ∈ act)) r.set cause pos (info a) else a)

/-- The threads of these lanes can take a trap that is not fatal (R330): the grid has a trap routine, the slot is not torn, and
no such thread is in the routine or parked; no completed issue waits to leave. -/
structure Trappable (s : State) (g : Group) (tm : Team) (ls : List Nat) : Prop where
  routine : tm.trapva ≠ 0
  whole : (s.asSlot tm.part tm.slot).torn = false
  settled : g.retire = g
  some_ : ∃ l ∈ ls, (g.thread l).isSome = true
  plain : ∀ l ∈ ls, ∀ th, g.thread l = some th → th.mode = false ∧ th.park = none

/-- R155: the role is entitled to the opcode, with R334 for the codes of the event queue. -/
def Entitled (opc fn : Nat) (role : Role) : Prop :=
  (opc ∈ [0x90, 0x91, 0x92] → role = .feed) ∧ (0xA0 ≤ opc ∧ opc ≤ 0xA8 → role = .matrix) ∧
  (0xB0 ≤ opc ∧ opc ≤ 0xB7 → role = .feed ∨ role = .vector) ∧ (0xC0 ≤ opc ∧ opc ≤ 0xC7 → role = .vector ∨ role = .control) ∧
  (opc = 0xD8 → role = .feed ∨ role = .vector) ∧ (opc = 0xDF → role = .control) ∧
  (opc = 0xDA ∨ opc = 0xDB → 0x18 ≤ fn ∧ fn ≤ 0x27 → role = .control)

/-- R27, R28, R38 to R40, R155, R168, R330, R331, R375: what every instruction of the standard form meets before its effect, in
order: an encoding that is not allowed, or an SWR of a register that is RO at that moment, is trap 3, a role not entitled trap 5, an empty guard waits; a register whose overtaken
write is still in flight is trap 6 (whether it is, is a free value: log 8); an empty source of the trap policy is trap 7, any
other empty source and an empty destination wait; without an active thread there is no effect; and at a faultable or sealing
instruction the active threads of a torn slot end. -/
def Obligations.StandardFormsMeetTheGate : Prop :=
  ∀ (i : Instr) (opc : Nat) (x : Std), i.stdForm = some (opc, x) →
    ∀ (s : State) (g : Group) (r : RunIn) (tm : Team), s.issuer = some (g, r, tm) →
      let set := lanesOf r.set
      let act := activeLanes g r x
      let rd := if actsOnce opc then act.take 1 else act
      let ro := opc = 0xDB ∧ x.fn.toNat ∉ [0x0C, 0x0D, 0x0E, 0x18, 0x1A, 0x28] ∧
        ¬ ((x.fn.toNat = 0x10 ∨ x.fn.toNat = 0x11) ∧ ∃ l ∈ set, ∃ th, g.thread l = some th ∧ th.mode = true)
      let legal := x.ok opc = true ∧ (∃ sg, x.sig opc = some sg ∧ ∀ n ∈ stdVregs x sg, n < tm.budget g.role) ∧ ¬ ro
      let guardReady := ∀ l ∈ set, ∀ th, g.thread l = some th → th.predEmpty x.grd.toNat = false
      let late (e : Nat × Nat) := e ∈ g.overtaken ∧ e ∈ touches opc x act
      let traps (cause : Nat) (info : Thread → Nat) : Prop := Trappable s g tm set →
        ∃ t, exec i s = .next t ∧ TrapTaken s t g r tm act cause r.pos info
      (¬ legal → traps 3 fun _ => 0) ∧
      (legal → ¬ Entitled opc x.fn.toNat g.role → traps 5 fun _ => 0) ∧
      (legal → Entitled opc x.fn.toNat g.role → ¬ guardReady → exec i s = .next s) ∧
      (legal → Entitled opc x.fn.toNat g.role → guardReady → ∀ sg, x.sig opc = some sg →
        let bare (k : Nat) : Prop := slotEmpty g rd x sg k = true
        let policy (k : Nat) : Prop := stdTrapPolicy x opc k = true
        let flying := Config.stillInFlight s.freeCtr = true
        (∀ e, late e → flying → ∃ m, late m ∧ traps 6 fun _ => m.2) ∧
        ((∀ e, ¬ late e) →
          (∀ k, k < 3 → bare k → policy k → (∀ j, j < k → ¬ (bare j ∧ policy j)) → traps 7 fun _ => k) ∧
          ((∀ k, k < 3 → ¬ (bare k ∧ policy k)) →
            ((∃ k, k < 3 ∧ bare k) ∨ (∃ l ∈ act, ∃ th, g.thread l = some th ∧ dstEmpty g th (dstRegs sg.d) x.d = true) →
              exec i s = .next s) ∧
            ((∀ k, k < 3 → ¬ bare k) → (∀ l ∈ act, ∀ th, g.thread l = some th → dstEmpty g th (dstRegs sg.d) x.d = false) →
              (∃ e ∈ g.th, e.2.st ≠ .exited) →
              (act = [] → ∃ t, exec i s = .next t ∧ Leaves s t g r [] (stdWords x) id) ∧
              (act ≠ [] → tornExits opc x.fn.toNat = true → (s.asSlot tm.part tm.slot).torn = true →
                (∃ e ∈ g.th, e.1 ∉ act ∧ e.2.st ≠ .exited) → (∀ l ∈ act, ∀ th, g.thread l = some th → th.park = none) →
                g.retire = g →
                ∃ t, exec i s = .next t ∧ Leaves s t g r act (stdWords x) fun a => { a with st := .exited, park := none })))))

/-- R318 to R320: each active thread continues at its own target, and the others at the fall-through run; a call pushes the
fall-through address and RET pops one; at depth 16 or 0 every thread of the set takes trap 10, and nothing else happens. -/
def Obligations.BranchesAndCalls : Prop :=
  ∀ (x : Std) (s : State) (g : Group) (r : RunIn) (tm : Team),
    let act := activeLanes g r x
    let near (th : Thread) : Nat := (BitVec.ofInt 64 (r.addr + 4 * (BitVec.ofNat 32 (srcNat g th 1 x.a)).toInt)).toNat
    let far (th : Thread) : Nat := srcNat g th 2 x.a
    let goes (i : Instr) (f : Thread → Thread) : Prop := ∃ t, exec i s = .next t ∧ Leaves s t g r act (stdWords x) f
    let alive := ∃ l th, InLane x g r l th
    (Executes 0xD0 x s g r tm → alive → goes (.bra x) fun th => { th with addr := near th, entry := none }) ∧
    (Executes 0xD1 x s g r tm → alive → goes (.brx x) fun th => { th with addr := far th, entry := none }) ∧
    (∀ c ∈ [(0xD2, Instr.call x, near), (0xD3, .callx x, far)], Executes c.1 x s g r tm →
      ((∀ l ∈ act, ∀ th, g.thread l = some th → th.stack.length < 16) → alive →
        goes c.2.1 fun th => { th with addr := c.2.2 th, entry := none, stack := r.after :: th.stack }) ∧
      ((∃ l ∈ act, ∃ th, g.thread l = some th ∧ th.stack.length = 16) → Trappable s g tm (lanesOf r.set) →
        ∃ t, exec c.2.1 s = .next t ∧ TrapTaken s t g r tm act 10 r.pos fun th => th.stack.length)) ∧
    (Executes 0xD4 x s g r tm →
      ((∀ l ∈ act, ∀ th, g.thread l = some th → th.stack ≠ []) → alive →
        goes (.ret x) fun th => { th with addr := th.stack.headD 0, entry := none, stack := th.stack.tail }) ∧
      ((∃ l ∈ act, ∃ th, g.thread l = some th ∧ th.stack = []) → Trappable s g tm (lanesOf r.set) →
        ∃ t, exec (.ret x) s = .next t ∧ TrapTaken s t g r tm act 10 r.pos fun th => th.stack.length)) ∧
    (s.issuer = some (g, r, tm) → (∃ e ∈ g.th, e.2.st ≠ .exited) →
      let dest (off : Int) : Nat := (BitVec.ofInt 64 (r.addr + 4 * off)).toNat
      (∀ off : BitVec 24, ∃ t, exec (.brs off) s = .next t ∧
        Leaves s t g r (lanesOf r.set) 1 fun th => { th with addr := dest off.toInt, entry := none }) ∧
      ∀ (code : BitVec 6) (neg : Bool) (off : BitVec 17), code.toNat < 39 →
        (∀ l ∈ lanesOf r.set, ∀ th, g.thread l = some th → th.predEmpty code.toNat = false) →
        ∀ ls : List Nat, (∀ l, l ∈ ls ↔ l ∈ lanesOf r.set ∧ ∃ th, g.thread l = some th ∧ th.pred code.toNat ≠ neg) →
        ∃ t, exec (.brp code neg off) s = .next t ∧
          Leaves s t g r ls 1 fun th => { th with addr := dest off.toInt, entry := none })

/-- The group `c`, in slot `j`, is the one that an active place of quarter `q` goes to next (R164, R358): pending and ready, of
class 3 if any such group is, and ready the longest. -/
def NextIn (core : PanCore) (q j : Nat) (c : Group) : Prop :=
  let cand (e : Nat × Group) : Prop := e ∈ core.groups ∧ quarterOf e.1 = q ∧ e.2.active = false ∧ e.2.ready = true
  let urgent (e : Group) : Prop := ∃ tm, tget core.teams e.team = some tm ∧ tm.cls = 3
  cand (j, c) ∧ ((∃ e, cand e ∧ urgent e.2) → urgent c) ∧
  ∀ e, cand e → (urgent e.2 ↔ urgent c) → c.readySince < e.2.readySince ∨ (c.readySince = e.2.readySince ∧ j ≤ e.1)

/-- R320 to R323, R19, R153: NOP and a satisfied WAIT or TWAIT pass on, and an unsatisfied one stands; MOVI writes its immediate;
YIELD puts its threads at the next position and gives the place to a ready pending group; EXIT ends its threads, and with the
last of them its group, and with the last group its team. -/
def Obligations.WaitsAndEnds : Prop :=
  ∀ (x : Std) (s : State) (g : Group) (r : RunIn) (tm : Team), s.issuer = some (g, r, tm) →
    let p := s.actor.1
    let k := s.actor.2
    let set := lanesOf r.set
    let goesOn (i : Instr) : Prop := ∃ t, exec i s = .next t ∧ Leaves s t g r [] 1 id
    let stands (i : Instr) : Prop := ∃ t, exec i s = .next t ∧ OnlyGroup s t p k ∧ t.group p k = some g
    let alive := ∃ e ∈ g.th, e.2.st ≠ .exited
    let whole := (s.asSlot tm.part tm.slot).torn = false
    (alive → goesOn .nop) ∧
    (∀ (n : BitVec 6) (sel : Byte),
      let ctrs := [g.ctr.ld, g.ctr.st, g.ctr.cp, g.ctr.mx, g.ctr.gt, g.ctr.cl, g.ctr.gr, g.ctr.ev]
      let holds := ∀ j (h : j < ctrs.length), sel.getLsbD j = true → ctrs[j] ≤ n.toNat
      (holds → alive → goesOn (.wait n sel)) ∧ (¬ holds → whole → stands (.wait n sel))) ∧
    (∀ (imm : BitVec 16) (d : Byte), (∀ l ∈ set, (l, d.toNat) ∉ g.overtaken) →
      (d.toNat < tm.budget g.role → alive → (∀ l ∈ set, ∀ th, g.thread l = some th → th.ve.getLsbD d.toNat = false) →
        ∃ t h, exec (.movi imm d) s = .next t ∧ OnlyGroup s t p k ∧ t.group p k = some h ∧ OnlyLanes g h (.v d) 1 set ∧
          ∀ l ∈ set, ∀ a, g.thread l = some a → ∃ b, h.thread l = some b ∧ b.rv d.toNat = imm.signExtend 32) ∧
      (d.toNat < tm.budget g.role → (∃ l ∈ set, ∃ th, g.thread l = some th ∧ th.ve.getLsbD d.toNat = true) → stands (.movi imm d)) ∧
      (tm.budget g.role ≤ d.toNat → Trappable s g tm set →
        ∃ t, exec (.movi imm d) s = .next t ∧ TrapTaken s t g r tm set 3 r.pos fun _ => 0)) ∧
    (alive → g.active = true → tSorted (s.pan p).core.groups = true → ∃ t h, exec .yield s = .next t ∧
      Leaves s t g r set 1 (fun th => if r.pos + 1 = r.count then { th with addr := r.after, entry := none }
        else { th with addr := r.addr, entry := some (r.pos + 1) }) ∧ t.group p k = some h ∧
      ∀ j c, j ≠ k → NextIn (s.pan p).core (quarterOf k) j c → h.active = false ∧ h.readySince = s.clock.cycles ∧
        t.group p j = some { c with active := true, activeSince := s.clock.cycles }) ∧
    ((∀ e ∈ (s.pan p).core.groups, e.2.team = g.team → ∀ u ∈ e.2.th, u.2.park = none) → g.issues = [] →
      (∀ j ∈ s.joined, j.gk.team_ = gkeyOf tm 0 → ∀ u ∈ j.g.th, ∀ i m a b, u.2.park ≠ some (.bar i m a b)) →
      tSorted (s.pan p).core.groups = true →
      ((∃ e ∈ g.th, e.1 ∉ set ∧ e.2.st ≠ .exited) → ∃ t, exec .exit s = .next t ∧
        Leaves s t g r set 1 fun a => { a with st := .exited, park := none }) ∧
      ((∀ e ∈ g.th, e.1 ∈ set ∨ e.2.st = .exited) → g.ctr = {} → ∃ t, exec .exit s = .next t ∧ t.group p k = none ∧ t.mem = s.mem ∧
        ((∃ e ∈ (s.pan p).core.groups, e.1 ≠ k ∧ e.2.team = g.team) → t.team p g.team = some tm ∧ t.grids = s.grids) ∧
        ((∀ e ∈ (s.pan p).core.groups, e.2.team = g.team → e.1 = k) → (∀ j ∈ s.joined, j.gk.team_ ≠ gkeyOf tm 0) →
          t.team p g.team = none ∧ ∀ d, tget s.grids (gridKey tm.part tm.grid) = some d →
            tget t.grids (gridKey tm.part tm.grid) = some { d with exited := d.exited + 1 }))) ∧
    (let time (th : Thread) : Nat := srcNat g th 2 x.a / 2 ^ 32 * 10 ^ 9 + srcNat g th 2 x.a % 2 ^ 32
     let past := ∀ l ∈ activeLanes g r x, ∀ th, g.thread l = some th → time th ≤ s.clock.sec % 2 ^ 32 * 10 ^ 9 + s.clock.ns
     Executes 0xDC x s g r tm → s.clock.ns < 10 ^ 9 → (∀ l ∈ activeLanes g r x, (g.thread l).isSome = true) →
      (past → alive → ∃ t, exec (.twait x) s = .next t ∧ Leaves s t g r [] (stdWords x) id) ∧
      (¬ past → whole → stands (.twait x)) ∧
      (past → alive → s.mayIssue p k g = true → (decodeRunWord (r.words.drop r.pos)).1 = some (.twait x) →
        ∀ a b, ∃ t, exec (.twaitExpiry p k) { s with actor := (a, b) } = .next t ∧ Leaves s t g r [] (stdWords x) id))

/-- R324 to R329, R34: LAUNCH, POST and RECX raise EV, mark their destination empty, and leave their record for the front end, with the
number of their journal record; JOIN parks its threads until EV is 0, or, with EV 0, until their group has no children, and with neither
outstanding passes and drops the L1 lines that their later reads could hit; a group none of whose threads can run and that waits for
children leaves its slot; REGROUP parks its threads with their keys. -/
def Obligations.LaunchesAndJoins : Prop :=
  ∀ (x : Std) (s : State) (g : Group) (r : RunIn) (tm : Team),
    let p := s.actor.1
    let k := s.actor.2
    let act := activeLanes g r x
    let gk := gkeyOf tm g.num
    let off := lowest g r x 1 x.a
    let word (o n : Nat) : Nat := mnat (s.pan p).core.scratch (tm.base + off + o) n
    let alive := ∃ l th, InLane x g r l th
    (Executes 0xD5 x s g r tm → g.ctr.ev < 63 → off % 16 = 0 → off + 32 ≤ tm.size →
      ∃ t q, exec (.launch x) s = .next t ∧ Counted s t g r x x.d 1 .ev ∧ t.launches = s.launches ++ [q] ∧ t.mem = s.mem ∧
        t.posts = s.posts ∧ t.recs = s.recs ∧ q.gk = gk ∧ q.pan = p ∧ q.slot = k ∧ q.asSlot = tm.slot ∧ q.issue = s.nextId ∧
        q.lanes = act ∧ q.desc = word 0 8 ∧ q.param = word 8 8 ∧ q.teams = word 16 4 ∧ q.tag = word 20 4 ∧
        (q.ok = true ↔ word 24 8 = 0) ∧ q.rc = (s.pan p).rc + 1) ∧
    (Executes 0xD5 x s g r tm → g.ctr.ev < 63 → (off % 16 ≠ 0 ∨ tm.size < off + 32) →
      ∃ t, exec (.launch x) s = .next t ∧ (t.asSlot tm.part tm.slot).torn = true ∧ t.mem = s.mem ∧ t.launches = s.launches) ∧
    (Executes 0xD7 x s g r tm → g.ctr.ev < 63 →
      ∃ t q, exec (.post x) s = .next t ∧ Counted s t g r x .none 1 .ev ∧ t.posts = s.posts ++ [q] ∧ t.mem = s.mem ∧
        q.gk = gk ∧ q.issue = s.nextId ∧ q.lanes = act ∧ q.word = lowest g r x 1 x.b % 8 ∧ q.val = BitVec.ofNat 32 off ∧
        q.rc = (s.pan p).rc + 1) ∧
    (∀ n, Executes 0xDD x s g r tm → g.ctr.ev < 63 → x.b = .v n → (∀ l ∈ act, (g.thread l).isSome = true) →
      ∃ t qs, exec (.recx x) s = .next t ∧ Counted s t g r x x.d 1 .ev ∧ t.recs = s.recs ++ qs ∧ t.mem = s.mem ∧
        qs.map (·.lane) = act ∧ ∀ q ∈ qs, q.gk = gk ∧ q.issue = s.nextId ∧ q.wait = none ∧ q.rc = (s.pan p).rc + 1 ∧
          ∀ th, g.thread q.lane = some th → q.node = srcNat g th 1 x.a ∧ q.words.length = x.fn.toNat / 8 + 1 ∧
            ∀ j (h : j < q.words.length), q.words[j] = th.rv (n.toNat + j)) ∧
    (∀ e ∈ [(0xD5, Instr.launch x), (0xD7, .post x), (0xDD, .recx x)], Executes e.1 x s g r tm → g.ctr.ev = 63 →
      ∃ t, exec e.2 s = .next t ∧ OnlyGroup s t p k ∧ t.group p k = some g) ∧
    (Executes 0xD6 x s g r tm → alive →
      (g.ctr.ev ≠ 0 → ∃ t, exec (.join x) s = .next t ∧
        Leaves s t g r act (stdWords x) fun a => { a with addr := r.after, entry := none, st := .parked, park := some .joinEv }) ∧
      (g.ctr.ev = 0 → g.children = 0 → ∃ t, exec (.join x) s = .next t ∧ Leaves (s.acquireAt p (quarterOf k) 2) t g r [] (stdWords x) id ∧
        ∀ key ∈ (s.pan p).l1Keys (quarterOf k), tgetD (t.pan p).l1 key [] = []) ∧
      (g.ctr.ev = 0 → g.children ≠ 0 → ∃ t, exec (.join x) s = .next t ∧
        Leaves s t g r act (stdWords x) fun a => { a with addr := r.after, entry := none, st := .parked, park := some .join })) ∧
    (Executes 0xD8 x s g r tm → alive → ∃ t, exec (.regroup x) s = .next t ∧
      Leaves s t g r act (stdWords x) fun a =>
        { a with addr := r.after, entry := none, st := .parked, park := some (.regroup (BitVec.ofNat 32 (srcNat g a 1 x.a))) }) ∧
    (∀ p k, s.group p k = some g → s.team p g.team = some tm → g.run = none → g.st ≠ .faultw → g.hold = none →
      (s.pan p).off = false → s.heldByTest p k = false → (s.pan p).isSealing g.team = false → g.pwait ≤ (s.pan p).drc → (s.asSlot tm.part tm.slot).torn = false →
      (s.hadTurn p k).isBehind p k = false → g.choice = none → g.children ≠ 0 → (∀ e ∈ g.th, e.2.st ≠ .runnable) →
      (∃ e ∈ g.th, e.2.park = some .join) → (∀ e ∈ g.th, e.2.park ≠ some .joinEv) →
      (∀ e ∈ (s.pan p).core.arrays, ∀ c ∈ e.2, c.gk ≠ gk) → (s.pan p).undo = [] → ∃ t, exec (.runBegin p k) s = .next t ∧ t.group p k = none ∧ t.mem = s.mem ∧
        t.joined = s.joined ++ [{ gk := gk, g := { g with overtaken := [] } }] ∧ (t.pan p).core.scratch = (s.pan p).core.scratch ∧
        t.team p g.team = some tm)

/-- Where the instructions of a run begin (R332). -/
inductive BeginsAt : List Word → Nat → Prop where
  | first (w : Word) (ws : List Word) : BeginsAt (w :: ws) 0
  | later (w : Word) (ws : List Word) (p : Nat) :
      BeginsAt ((w :: ws).drop (wordCount w.toNat (ws.headD 0).toNat)) p →
      BeginsAt (w :: ws) (wordCount w.toNat (ws.headD 0).toNat + p)

/-- R62, R330 to R333: TRAP enters for its active threads with position COUNT, BKPT for every thread with the position after it;
ERET restores t0 to t7 and returns to the position saved, or to the fall-through run; a trap in the routine, without a routine,
or an ERET to no instruction tears the slot down with one error record of KIND 3. -/
def Obligations.TrapsAndReturns : Prop :=
  ∀ (x : Std) (s : State) (g : Group) (r : RunIn) (tm : Team), s.issuer = some (g, r, tm) →
    let act := activeLanes g r x
    let p := s.actor.1
    let quarter := quarterOf s.actor.2
    let fatal (i : Instr) : Prop := (s.asSlot tm.part tm.slot).torn = false → tm.part < 8 →
      ∃ t rec, exec i s = .next t ∧ (t.asSlot tm.part tm.slot).torn = true ∧ t.mem = s.mem ∧ t.err.wait = s.err.wait ++ [rec] ∧
        (rec.getD 3 0).toNat / 16 = 3
    (Executes 0xD9 x s g r tm →
      (Trappable s g tm act → ∃ t, exec (.trap x) s = .next t ∧ Leaves s t g r act (stdWords x) fun a =>
        entered a r tm true (maskOf act) 1 r.count (srcNat g a 1 x.a)) ∧
      (tm.trapva = 0 ∨ (∃ l ∈ act, ∃ th, g.thread l = some th ∧ th.mode = true) → fatal (.trap x))) ∧
    (∀ code : Byte,
      (Trappable s g tm (lanesOf r.set) → ∃ t, exec (.bkpt code) s = .next t ∧
        TrapTaken s t g r tm (lanesOf r.set) 2 (r.pos + 1) fun _ => code.toNat) ∧
      (tm.trapva = 0 ∨ (∃ l ∈ lanesOf r.set, ∃ th, g.thread l = some th ∧ th.mode = true) → fatal (.bkpt code))) ∧
    (Executes 0xDE x s g r tm →
      ((∃ l ∈ act, ∃ th, g.thread l = some th ∧ th.mode = false) →
        (Trappable s g tm (lanesOf r.set) → ∃ t, exec (.eret x) s = .next t ∧ TrapTaken s t g r tm act 3 r.pos fun _ => 0) ∧
        ((∃ l ∈ lanesOf r.set, ∃ th, g.thread l = some th ∧ th.mode = true) → fatal (.eret x))) ∧
      ((∀ l ∈ act, ∃ th, g.thread l = some th ∧ th.mode = true) →
        (tgetD (s.pan p).decoded quarter []).length ≤ 16 →
        ∀ run : Thread → DecodedRun,
        (∀ l ∈ act, ∀ th, g.thread l = some th → runOk (run th).words (tm.budget g.role) = true ∧
          (s.pan p).decodedRun quarter (asid tm.part tm.slot) th.xpc.toNat = some (run th)) →
        let header (th : Thread) : Nat := ((run th).words.headD 0).toNat
        let count (th : Thread) : Nat := header th % 32
        let begins (th : Thread) : Prop := BeginsAt (((run th).words.drop 1).take (count th)) th.xpos.toNat
        ((∃ l th, InLane x g r l th) → (∀ l ∈ act, ∀ th, g.thread l = some th → th.xpos.toNat = count th ∨ begins th) →
          ∃ t, exec (.eret x) s = .next t ∧
            Leaves { s with pans := tput s.pans p { s.pan p with decoded := (t.pan p).decoded } } t g r act (stdWords x) fun a =>
              { a with
                t := a.tsave
                mode := false
                pass := 0
                st := .runnable
                addr := if a.xpos.toNat = count a then
                    (a.xpc.toNat + 4 * (1 + count a + if (header a).testBit 11 then 1 else 0)) % 2 ^ 64 else a.xpc.toNat
                entry := if a.xpos.toNat = count a then none else some a.xpos.toNat }) ∧
        ((∃ l ∈ act, ∃ th, g.thread l = some th ∧ th.xpos.toNat ≠ count th ∧ ¬ begins th) → fatal (.eret x))))

/-- R169, R331, R334: the value of each special register. -/
def specialValue (s : State) (g : Group) (tm : Team) (fn l : Nat) (th : Thread) : Option Nat :=
  let q := (s.pan s.actor.1).core.evq
  let c := g.ctr
  match fn with
  | 0x00 => some l
  | 0x01 => some g.num
  | 0x02 => some tm.num
  | 0x03 => some tm.grid
  | 0x04 => some s.actor.1
  | 0x05 => some (if s.actor.2 < 128 then s.actor.2 / 32 else 4)
  | 0x06 => some (match g.role with
    | .feed => 0
    | .matrix => 1
    | .vector => 2
    | .control => 3)
  | 0x08 => some (s.clock.sec % 2 ^ 32 * 2 ^ 32 + s.clock.ns)
  | 0x09 => some g.dline.toNat
  | 0x0A => some g.rung
  | 0x0B => some (BitVec.ofInt 32 (s.pan s.actor.1).pw.bal).toNat
  | 0x0C => some 0
  | 0x0D => some th.rng.toNat
  | 0x0E => some th.flags.toNat
  | 0x0F => some (c.ld + 2 ^ 6 * c.st + 2 ^ 12 * c.cp + 2 ^ 18 * c.mx + 2 ^ 24 * c.gt + 2 ^ 30 * c.cl + 2 ^ 36 * c.gr + 2 ^ 42 * c.ev)
  | 0x10 => some th.xpc.toNat
  | 0x11 => some th.xpos.toNat
  | 0x12 => some th.xcause.toNat
  | 0x13 => some th.xinfo.toNat
  | 0x14 => some th.xlanes.toNat
  | 0x15 => some th.stack.length
  | 0x18 => some (q.sem + if q.semen then 64 else 0)
  | 0x19 => some (q.head % 2 ^ 32)
  | 0x1A => some (q.tail % 2 ^ 32)
  | 0x28 => some (s.part tm.part).dstat
  | _ => if 0x20 ≤ fn ∧ fn ≤ 0x27 then
      some (match q.recs with
        | [] => 0
        | b :: _ => ofBytes ((b.drop (4 * (fn - 0x20))).take 4))
    else none

/-- R6, R148, R166, R169, R331, R334: SRD gives each register's value per active thread; SWR writes the registers that a thread
holds, the event queue and SAL_DSTAT; one of a register that is RO at that moment is trap 3, whatever its sources. -/
def Obligations.SpecialRegisters : Prop :=
  ∀ (x : Std) (s : State) (g : Group) (r : RunIn) (tm : Team),
    let p := s.actor.1
    let k := s.actor.2
    let fn := x.fn.toNat
    let act := activeLanes g r x
    let n := if fn ∈ [0x08, 0x09, 0x0C, 0x0D, 0x0F, 0x10, 0x13] then 2 else 1
    let v (th : Thread) : Nat := srcNat g th n x.a
    let top := laneVal g v (act.getLastD 0)
    let ro := fn ∉ [0x0C, 0x0D, 0x0E, 0x18, 0x1A, 0x28] ∧
      ¬ ((fn = 0x10 ∨ fn = 0x11) ∧ ∃ l ∈ lanesOf r.set, ∃ th, g.thread l = some th ∧ th.mode = true)
    (Executes 0xDA x s g r tm → (∃ l th, InLane x g r l th) → ∃ t h, exec (.srd x) s = .next t ∧ OnlyGroup s t p k ∧
      t.group p k = some h ∧ OnlyLanes g h x.d n act ∧
      ∀ l th, InLane x g r l th → keepsLane x g r l → ∃ w, specialValue s g tm fn l th = some w ∧
        Sys2Proof.State.landed t p k l n x.d = some (cut x.d n w)) ∧
    (Executes 0xDB x s g r tm → (∃ l th, InLane x g r l th) → fn ∉ [0x18, 0x1A, 0x28] →
      ∃ t h, exec (.swr x) s = .next t ∧ OnlyGroup s t p k ∧ t.group p k = some h ∧ OnlyLanes { g with th := h.th } h .none 1 [] ∧
        ∀ l a, g.thread l = some a → ∃ b, h.thread l = some b ∧ { b with addr := a.addr, entry := a.entry } =
          if l ∉ act then a else match fn with
            | 0x0C => { a with rng := BitVec.ofNat 64 (v a) ^^^ BitVec.ofNat 64 (l * 0x9E3779B97F4A7C15) }
            | 0x0D => { a with rng := BitVec.ofNat 64 (v a) }
            | 0x0E => { a with flags := BitVec.ofNat 5 (v a) }
            | 0x10 => { a with xpc := BitVec.ofNat 64 (v a) }
            | 0x11 => { a with xpos := BitVec.ofNat 32 (v a % 32) }
            | _ => a) ∧
    (Executes 0xDB x s g r tm → (∃ l th, InLane x g r l th) → fn = 0x28 → ∃ t, exec (.swr x) s = .next t ∧
      t.dstatClears = s.dstatClears ++ [(p, tm.part, top, (s.pan p).rc + 1)] ∧ PassesOn s t g r (stdWords x) ∧ t.mem = s.mem) ∧
    (Executes 0xDB x s g r tm → (∃ l th, InLane x g r l th) → (s.pan p).core.held = [] → fn = 0x18 ∨ fn = 0x1A →
      let q := (s.pan p).core.evq
      ∃ t, exec (.swr x) s = .next t ∧ PassesOn s t g r (stdWords x) ∧ t.mem = s.mem ∧
        (t.pan p).core.evq = if fn = 0x18 then { q with semen := top.testBit 6, sem := top % 64 }
          else
            let d := (top + 2 ^ 32 - q.tail % 2 ^ 32) % 2 ^ 32
            if d ≤ q.head - q.tail then { q with tail := q.tail + d, recs := q.recs.drop d } else q) ∧
    (s.issuer = some (g, r, tm) → ro → Trappable s g tm (lanesOf r.set) →
      ∃ t, exec (.swr x) s = .next t ∧ TrapTaken s t g r tm act 3 r.pos fun _ => 0)

/-- R151, R162, R164, R170 to R172, R335, R358: a place of the active set goes to the pending group that has been ready longest,
taken from a group that is not ready, or from the longest active one once the other has waited 2,048 cycles (128 for class 3);
a regroup sorts the arrived threads lane by lane into the role's groups; HALT ends every thread of its team. -/
def Obligations.PlacesRegroupsAndHalts : Prop :=
  ∀ (s : State) (p k : Nat), (s.pan p).off = false → tSorted (s.pan p).core.groups = true →
    let core := (s.pan p).core
    let q := quarterOf k
    let now := s.clock.cycles
    let places := (core.groups.filter fun e => quarterOf e.1 == q && e.2.active).length
    let swapped (t : State) (j : Nat) (c : Group) : Prop := t.group p j = some { c with active := true, activeSince := now }
    (∀ j c, NextIn core q j c → places < 8 → ∃ t, exec (.groupExchange p k) s = .next t ∧ swapped t j c ∧
      ∀ i, i ≠ j → t.group p i = s.group p i) ∧
    (∀ g, s.group p k = some g → g.active = true →
      (∀ j c, NextIn core q j c → 8 ≤ places → g.ready = false → ∃ t, exec (.groupExchange p k) s = .next t ∧ swapped t j c ∧
        t.group p k = some { g with active := false, readySince := now } ∧ ∀ i, i ≠ j → i ≠ k → t.group p i = s.group p i) ∧
      (∀ j c, NextIn core q j c → g.run = none →
        c.readySince + (if ∃ tm, tget core.teams c.team = some tm ∧ tm.cls = 3 then 128 else 2048) ≤ now →
        (∀ e ∈ core.groups, quarterOf e.1 = q → e.2.active = true → g.activeSince ≤ e.2.activeSince) →
        ∃ t, exec (.forcedExchange p k) s = .next t ∧ swapped t j c ∧
          t.group p k = some { g with active := false, readySince := now } ∧ ∀ i, i ≠ j → i ≠ k → t.group p i = s.group p i)) ∧
    (∀ team role tm, s.team p team = some tm →
      let gs := core.groups.filter fun e => e.2.team == team && e.2.role.code == role
      let key (th : Thread) : Option Nat := match th.park with
        | some (.regroup n) => some n.toNat
        | _ => none
      (∀ e ∈ gs, ∀ f ∈ gs, e.2.num = f.2.num → e = f) →
      (∀ e ∈ gs, e.2.ctr = {} ∧ e.2.run = none ∧ ∀ u ∈ e.2.th, u.2.st = .exited ∨ (key u.2).isSome = true) →
      (∃ e ∈ gs, ∃ u ∈ e.2.th, (key u.2).isSome = true) →
      (∀ j ∈ s.joined, j.gk.team_ = gkeyOf tm 0 → j.g.role.code ≠ role) →
      ∃ t, exec (.regroupComplete p team role) s = .next t ∧ t.mem = s.mem ∧ (t.pan p).core.scratch = core.scratch ∧
        (∀ i g, s.group p i = some g → (g.team ≠ team ∨ g.role.code ≠ role) → ∃ h, t.group p i = some h ∧ SamePlace h g) ∧
        ∀ l, l < 32 → ∃ order : List (Nat × Nat × Thread),
          order.Pairwise (fun a b => a.1 < b.1 ∨ (a.1 = b.1 ∧ a.2.1 < b.2.1)) ∧
          (∀ a, a ∈ order ↔ ∃ e ∈ gs, e.2.num = a.2.1 ∧ e.2.thread l = some a.2.2 ∧ key a.2.2 = some a.1) ∧
          ∀ e ∈ gs,
            let i := (gs.filter fun f => decide (f.2.num < e.2.num)).length
            let moved := (order[i]?).map fun a => { a.2.2 with st := ThState.runnable, park := none, pass := 0 }
            (moved.isSome = true → (t.group p e.1).isSome = true) ∧
            ∀ h, t.group p e.1 = some h → h.thread l = moved ∧ h.num = e.2.num ∧ h.g = e.2.g ∧ h.ctr = e.2.ctr) ∧
    (∀ x g r tm, s.actor = (p, k) → Executes 0xDF x s g r tm → (∀ e ∈ core.groups, e.2.team = g.team → ∀ u ∈ e.2.th, u.1 < 32) →
      ∃ t, exec (.halt x) s = .next t ∧ t.mem = s.mem ∧ (t.pan p).core.scratch = core.scratch ∧
        (∀ e ∈ core.groups, e.2.team = g.team →
          (∀ h, t.group p e.1 = some h → h.run = none ∧ ∀ u ∈ h.th, u.2.st = .exited) ∧
          (e.2.ctr = {} → e.2.issues = [] → t.group p e.1 = none)) ∧
        ((∀ e ∈ core.groups, e.2.team = g.team → e.2.ctr = {} ∧ e.2.issues = []) → t.team p g.team = none) ∧
        ∀ i c, s.group p i = some c → c.team ≠ g.team → (∃ u ∈ c.th, u.2.st ≠ .exited) → ∃ h, t.group p i = some h ∧ SamePlace h c)

/-! ## The rake -/

/-- R31, R283 to R288: the instructions of the rake raise GT and join the pan's queue of 16, with their operands, their descriptor or
refit block read from scratchpad; RKRAY and RKQRY leave two issues, one for the predicate and one on GT; a full queue holds
them, and an operand block outside the allocation, or misaligned, tears the slot down. -/
def Obligations.RakeInstructionsQueue : Prop :=
  ∀ (x : Std) (s : State) (g : Group) (r : RunIn) (tm : Team),
    let p := s.actor.1
    let k := s.actor.2
    let core := (s.pan p).core
    let act := activeLanes g r x
    let off := lowest g r x 1 x.a
    let block (n : Nat) : Nat := mnat core.scratch (tm.base + off) n
    let inside (n : Nat) : Prop := off % 16 = 0 ∧ off + n ≤ tm.size
    let bslot := x.fn.toNat % 4
    let cmdOf (opc : Nat) (c : RkCmd) : Prop := c.gk = gkeyOf tm g.num ∧ c.slot = k ∧ c.team = g.team ∧ c.part = tm.part ∧
      c.asSlot = tm.slot ∧ c.cls = tm.cls ∧ c.issue = s.nextId ∧ c.lanes = act ∧ c.opc = opc ∧ c.rc = (s.pan p).rc + 1 ∧
      c.charged = false ∧ c.wait = 0 ∧ c.base = tm.base
    let joins (i : Instr) (opc : Nat) (P : RkCmd → Prop) : Prop := Executes opc x s g r tm → g.ctr.gt < 63 → core.rqueue.length < 16 →
      ∃ t c, exec i s = .next t ∧ Counted s t g r x x.d 1 .gt ∧ (t.pan p).core.rqueue = core.rqueue ++ [c] ∧ t.mem = s.mem ∧
        (t.pan p).core.scratch = core.scratch ∧ cmdOf opc c ∧ P c
    let perLane (c : RkCmd) (f : Thread → List Nat) : Prop := c.args.map (·.1) = act ∧
      ∀ e ∈ c.args, ∀ th, g.thread e.1 = some th → e.2 = f th
    (inside 64 → joins (.rkbind x) 0xB0 fun c => c.desc = block 64 ∧ c.bslot = bitsOf (block 64) 488 2) ∧
    (inside 48 → joins (.rkref x) 0xB5 fun c => c.desc = block 48 ∧ c.off = off ∧ c.bslot = bitsOf (block 48) 256 2) ∧
    joins (.rksav x) 0xB3 (fun c => c.bslot = off % 4) ∧
    joins (.rkflsh x) 0xB6 (fun _ => True) ∧
    joins (.rkres x) 0xB4 (fun c => c.bslot = bslot ∧ perLane c fun th => [srcNat g th 2 x.a]) ∧
    joins (.rkcan x) 0xB7 (fun c => c.bslot = bslot ∧ perLane c fun th => [srcNat g th 1 x.a]) ∧
    (∀ e ∈ [(0xB1, 8, Instr.rkray x), (0xB2, 6, .rkqry x)], ∀ n, x.a = .v n → Executes e.1 x s g r tm → g.ctr.gt < 63 →
      core.rqueue.length < 16 →
      ∃ t h c i j, exec e.2.2 s = .next t ∧ t.group p k = some h ∧ (t.pan p).core.rqueue = core.rqueue ++ [c] ∧ t.mem = s.mem ∧
        cmdOf e.1 c ∧ c.bslot = bslot ∧
        perLane c (fun th => srcNat g th 1 x.b :: (List.range e.2.1).map fun q => (th.rv (n.toNat + q)).toNat) ∧
        h.ctr = g.ctr.mod .gt (· + 1) ∧ h.issues = g.issues ++ [i, j] ∧ i.id = s.nextId ∧ i.ctr = none ∧ i.dst = x.d ∧
        i.lanes.map (·.1) = act ∧ j.id = s.nextId + 1 ∧ j.ctr = some .gt ∧ j.dst = .none ∧ j.lanes.map (·.1) = act ∧ h.g = g.g ∧
        ∀ l a, g.thread l = some a → ∃ b, h.thread l = some b ∧
          b = { a with addr := b.addr, entry := b.entry, pe := a.pe ||| if l ∈ act then marksP x.d else 0 }) ∧
    (∀ e ∈ [(0xB1, Instr.rkray x), (0xB2, .rkqry x), (0xB3, .rksav x), (0xB4, .rkres x), (0xB6, .rkflsh x), (0xB7, .rkcan x)],
      Executes e.1 x s g r tm → g.ctr.gt = 63 ∨ 16 ≤ core.rqueue.length →
      ∃ t, exec e.2 s = .next t ∧ OnlyGroup s t p k ∧ t.group p k = some g) ∧
    (∀ e ∈ [(0xB0, 64, Instr.rkbind x), (0xB5, 48, .rkref x)], Executes e.1 x s g r tm → off % 16 ≠ 0 ∨ tm.size < off + e.2.1 →
      ∃ t, exec e.2.2 s = .next t ∧ (t.asSlot tm.part tm.slot).torn = true ∧ t.mem = s.mem ∧ (t.pan p).core.scratch = core.scratch)

/-- A byte of a context's bookkeeping is reached (R271): its page is in the pan's L2 TLB, readable and writable, CODEC 0, no
endpoint, and its line is good. -/
structure BookAt (s : State) (pan : Nat) (b : RkBind) (va pa : Nat) : Prop where
  ok : addressOk s b.part b.asSlot va = true
  leaf : ∃ e, tlbFind (s.pan pan).l2tlb (asid b.part b.asSlot) va = some e ∧ pteR e = true ∧ pteW e = true ∧ pteCodec e = 0 ∧
    pa = leafPa e va
  plain : isEndpoint pa = false
  clean : s.badLine pa = false

/-- A byte of bookkeeping is reached whose line can be read at its bed at once (R86, R271). -/
structure BookLine (s : State) (pan : Nat) (b : RkBind) (va pa : Nat) : Prop where
  reached : BookAt s pan b va pa
  readable : ∀ e, tlbFind (s.pan pan).l2tlb (asid b.part b.asSlot) va = some e → LineReadable s b.part (lineOf pa) false (pteRet e)

/-- A byte of bookkeeping is reached whose line is uncorrectable. -/
structure BookSpoilt (s : State) (pan : Nat) (b : RkBind) (va : Nat) : Prop where
  ok : addressOk s b.part b.asSlot va = true
  leaf : ∃ e, tlbFind (s.pan pan).l2tlb (asid b.part b.asSlot) va = some e ∧ pteR e = true ∧ pteW e = true ∧ pteCodec e = 0 ∧
    isEndpoint (leafPa e va) = false ∧ s.badLine (leafPa e va) = true

/-- Nothing but the lines themselves makes an access of a unit of the pan wait: its byte budget covers `n` line requests, fewer than 256
requests are outstanding, every bed has room for `w` merge entries, and no line is held or under test (R86, R90, R105, R387, R418). -/
structure Unhindered (s : State) (p n w : Nat) : Prop where
  idle : s.wants = []
  budget : (s.pan p).pbud = 0xFFFF ∨ n ≤ (s.pan p).pbal
  answers : s.outstanding p < 256
  room : ∀ b ∈ s.beds, b.2.merge.length + w ≤ 2048
  open_ : ∀ line, s.shut line 0 = false

/-- No bed holds an ordered update, so that a write closes no window. -/
def NoWindows (s : State) : Prop := ∀ b ∈ s.beds, b.2.held = []

/-- A binary32 code as an extended real. -/
def xr (c : Nat) : FVal := decodeF f32 (c % 2 ^ 32)

/-- Exact arithmetic on the extended reals, whose zero has no sign; an undefined step gives NaN (R277). -/
def xAdd (x y : FVal) : FVal :=
  if x.isNan || y.isNan || oppositeInf x y then .nan false else if x.isInf then x else if y.isInf then y
  else ofRat false (ratOf x + ratOf y)

def xSub (x y : FVal) : FVal := xAdd x y.negate

def xMul (x y : FVal) : FVal :=
  if x.isNan || y.isNan || zeroTimesInf x y then .nan false
  else if x.isInf || y.isInf then .inf (x.neg != y.neg) else ofRat false (ratOf x * ratOf y)

def xDiv (x y : FVal) : FVal :=
  if x.isNan || y.isNan || (x.isInf && y.isInf) then .nan false
  else if x.isInf then .inf (x.neg != y.neg) else if y.isInf then .fin false 0 1 else ofRat false (ratOf x / ratOf y)

/-- The numerical order of two values that are not NaN. -/
def xLt (x y : FVal) : Bool :=
  !x.isNan && !y.isNan && match x, y with
    | .inf a, .inf b => a && !b
    | .inf a, _ => a
    | _, .inf b => !b
    | _, _ => decide (ratOf x < ratOf y)

def xLe (x y : FVal) : Bool := !x.isNan && !y.isNan && !xLt y x

def xMin (x y : FVal) : FVal := if x.isNan || y.isNan then .nan false else if xLt y x then y else x

def xMax (x y : FVal) : FVal := if x.isNan || y.isNan then .nan false else if xLt x y then y else x

/-- The query of a visit as values: origin or lower corner, direction or upper corner, and the corners of its box. -/
def Lower (v : Visit) (i : Nat) : FVal := xr (v.q.getD i 0)
def Upper (v : Visit) (i : Nat) : FVal := xr (v.q.getD (if v.box then i + 3 else i) 0)
def Along (v : Visit) (i : Nat) : FVal := xr (v.q.getD (i + 3) 0)

/-- Min(TMAX, HS). -/
def Reach (v : Visit) : FVal := xMin (xr v.tmax) (xr v.hs)

/-- BOX of R277: C and m[D]. A zero has no sign there (DEDUCED: log 43). -/
def boxSpec (v : Visit) (lo hi : Nat → FVal) : Bool × Nat :=
  let nan : Bool × Nat := (false, 0x7FC00000)
  let axes := [0, 1, 2]
  if v.box then
    if axes.any fun i => (lo i).isNan || (hi i).isNan || (Lower v i).isNan || (Upper v i).isNan then nan
    else (!(axes.all fun i => lo i == .inf false && hi i == .inf true) &&
      axes.all fun i => xLe (Lower v i) (hi i) && xLe (lo i) (Upper v i), 0)
  else
    let o := Lower v
    let pair (i : Nat) : FVal × FVal :=
      if (Along v i).isZero then
        if (lo i).isNan || (hi i).isNan || (o i).isNan then (.nan false, .nan false)
        else if xLe (lo i) (o i) && xLe (o i) (hi i) then (.inf true, .inf false) else (.inf false, .inf true)
      else
        let n := xDiv (xSub (lo i) (o i)) (Along v i)
        let f := xDiv (xSub (hi i) (o i)) (Along v i)
        if xLt f n then (f, n) else (n, f)
    let near := xMax (xMax (pair 0).1 (pair 1).1) (pair 2).1
    let far := xMin (xMin (pair 0).2 (pair 1).2) (pair 2).2
    if (axes.any fun i => (pair i).1.isNan || (pair i).2.isNan) || (xr v.tmin).isNan || (Reach v).isNan then nan
    else
      let en := (roundF f32 near 3).code
      let ex := (roundF f32 far 2).code
      let empty := axes.all fun i => lo i == .inf false && hi i == .inf true
      (!empty && xLe (xr en) (xr ex) && xLe (xr v.tmin) (xr ex) && xLe (xr en) (Reach v),
        if xLt (xr en) (xr v.tmin) then v.tmin else en)

/-- TRI of R277: C and m[D], `p j i` being coordinate `i` of vertex `j`. -/
def triSpec (v : Visit) (p : Nat → Nat → FVal) : Bool × Nat :=
  let nan : Bool × Nat := (false, 0x7FC00000)
  if [0, 1, 2].any fun i => ((if v.box then [] else [Lower v i, Along v i]) ++ [p 0 i, p 1 i, p 2 i]).any fun c => c.isNan || c.isInf then nan
  else if v.box then
    boxSpec v (fun i => xMin (p 0 i) (xMin (p 1 i) (p 2 i))) fun i => xMax (p 0 i) (xMax (p 1 i) (p 2 i))
  else
    let q (f : Nat → FVal) (i : Nat) : ℚ := ratOf (f i)
    let sub (a b : Nat → ℚ) (i : Nat) : ℚ := a i - b i
    let dot (a b : Nat → ℚ) : ℚ := a 0 * b 0 + a 1 * b 1 + a 2 * b 2
    let cross (a b : Nat → ℚ) (i : Nat) : ℚ := a ((i + 1) % 3) * b ((i + 2) % 3) - a ((i + 2) % 3) * b ((i + 1) % 3)
    let e1 := sub (q (p 1)) (q (p 0))
    let e2 := sub (q (p 2)) (q (p 0))
    let dir := q (Along v)
    let h := cross dir e2
    let det := dot e1 h
    let o := sub (q (Lower v)) (q (p 0))
    let u := dot o h / det
    let qv := cross o e1
    let w := dot dir qv / det
    let t := dot e2 qv / det
    if det = 0 then (false, 0)
    else if (xr v.tmin).isNan || (Reach v).isNan then nan
    else
      let tr := (roundF f32 (ofRat false t) 0).code
      (decide (0 ≤ u) && decide (0 ≤ w) && decide (u + w ≤ 1) && xLe (xr v.tmin) (xr tr) && xLe (xr tr) (Reach v), tr)

/-- The squared gap of PTD (R277). -/
def gapSpec (v : Visit) (lo hi : Nat → FVal) : FVal :=
  let g (i : Nat) : FVal := xMax (xMax (xSub (lo i) (Upper v i)) (xSub (Lower v i) (hi i))) (.fin false 0 1)
  xAdd (xAdd (xMul (g 0) (g 0)) (xMul (g 1) (g 1))) (xMul (g 2) (g 2))

/-- Scalar `e` of layout field `f` in a node (R268): its kind, and its bits. -/
def scalarOf (b : RkBind) (bytes : List Byte) (f e : Nat) : Nat × Nat :=
  let w := if f ≤ bitsOf (b.lay.getD 0 0) 20 4 then b.lay.getD (f + 1) 0 else 0
  let kind := bitsOf w 28 4
  let size := if kind = 3 then 1 else if kind = 2 ∨ kind = 4 then 2 else 4
  (kind, ofBytes ((bytes.drop (bitsOf w 16 8 + e * size)).take size))

/-- A visit that can take its next micro-step (R276, R287): its slot is bound, its query is not cancelled, its steps are not used up, and
nothing but the lines that it meets makes its accesses wait. -/
structure MicroReady (s : State) (v : Visit) (b : RkBind) : Prop where
  visit : tget (s.pan s.actor.1).rake.visits s.actor.2 = some v
  bound : tget (s.pan s.actor.1).rake.binds v.bslot = some b
  ready : v.st = .ready
  on : (s.pan s.actor.1).off = false
  status : ∃ pa, BookAt s s.actor.1 b (b.raytab + 64 * v.qid + 52) pa ∧ (mget s.mem pa).toNat ≠ 4
  steps : v.steps < b.stepcap
  free : Unhindered s s.actor.1 8 8

/-- A visit has ended (R272, R290): it has left its slot, with its unused steps credited where they were charged; PEND is one lower, and
where that makes it 0, STATUS goes from RUN to DONE and the query's notice is under way. -/
def VisitEnds (s t : State) (pan k : Nat) (b : RkBind) (v : Visit) (steps : Nat) : Prop :=
  let qid := v.qid
  ∀ pend stat, BookLine s pan b (b.raytab + 64 * qid + 40) pend → BookLine s pan b (b.raytab + 64 * qid + 52) stat → NoWindows s →
    Unhindered s pan 4 4 →
    let old := mnat s.mem pend 4
    let m1 := poke s.mem pend 4 ((old + 2 ^ 32 - 1) % 2 ^ 32)
    tget (t.pan pan).rake.visits k = none ∧
    (t.pan pan).pw.bal = (if v.charged then ((s.pan pan).pw.credit (engineCost 9 b.stepcap - engineCost 9 steps)).bal else (s.pan pan).pw.bal) ∧
    if old = 1 then
      t.mem = poke m1 stat 1 (if (mget m1 stat).toNat = 1 then 2 else (mget m1 stat).toNat) ∧
      ∀ q, s.query b qid = some q → t.finishes = s.finishes ++ [q] ∧ t.queries = s.queries.erase q
    else t.mem = m1 ∧ t.finishes = s.finishes ∧ t.queries = s.queries

/-- R272 to R278, R287: `exec` of every micro-word, NLD, FEX, BOX, TRI, PTD, EED, CMPF, JMP, JC, ENQ, NEXT, HMIN, EMIT, YLD, DONE and
FLT, answers a next state, where nothing makes its accesses to bookkeeping wait: its registers, C and micro-PC, its step counted, its
node's read asked for, its fault, or its end. A step whose first atomic would meet an uncorrectable line faults with
DATA; a step of a cancelled query ends its visit, and one beyond the cap faults with STEPS. -/
def Obligations.RakeMicroSteps : Prop :=
  ∀ (s : State) (v : Visit) (b : RkBind), MicroReady s v b →
    let p := s.actor.1
    let k := s.actor.2
    let reg (n : BitVec 3) : Nat := v.m.getD n.toNat 0
    let set (w : Visit) (n : BitVec 3) (y : Nat) : Visit := { w with m := w.m.set n.toNat (y % 2 ^ 32) }
    let after (w : Visit) : Visit := { w with mpc := v.mpc + 1, steps := v.steps + 1 }
    let leaves (i : Instr) (w : Visit) : Prop := exec i s = .next (s.putVisit p k w)
    let moves (i : Instr) (w : Visit) : Prop := ∃ t, exec i s = .next t ∧ tget (t.pan p).rake.visits k = some w ∧ t.mem = s.mem ∧ t.xmem = s.xmem
    let faults (i : Instr) (cause ucode fva : Nat) : Prop := leaves i { v with st := .saving cause ucode fva }
    let entry := b.raytab + 64 * v.qid
    let tree (t : Nat) : Nat := b.trees + 32 * t
    let scal (f : BitVec 4) (e : Nat) : Nat := (scalarOf b v.bytes f.toNat e).2
    let corner (f : BitVec 4) (j i : Nat) : FVal := xr (scal f (3 * j + i))
    (∀ d (f e : BitVec 4), ∃ y, leaves (.rkFex d f e) (after (set v d y)) ∧
      let kind := (scalarOf b v.bytes f.toNat e.toNat).1
      (kind ≠ 2 → y = scal f e.toNat) ∧
      (kind = 2 → (∀ q, finiteVal f16 (scal f e.toNat) = some q → finiteVal f32 y = some q) ∧
        ∀ n, decodeF f16 (scal f e.toNat) = .inf n → decodeF f32 y = .inf n)) ∧
    (∀ d f, leaves (.rkBox d f) (after (set { v with c := (boxSpec v (corner f 0) (corner f 1)).1 } d
      (boxSpec v (corner f 0) (corner f 1)).2))) ∧
    (∀ d f, leaves (.rkTri d f) (after (set { v with c := (triSpec v (corner f)).1 } d (triSpec v (corner f)).2))) ∧
    (∀ d a f,
      let gap := gapSpec v (corner f 0) (corner f 1)
      let bad := gap.isNan || (xr (reg a)).isNan
      let y := if bad then 0x7FC00000 else (roundF f32 gap 2).code
      leaves (.rkPtd d a f) (after (set { v with c := !bad && xLe (xr y) (xr (reg a)) } d y))) ∧
    (∀ d a (f e : BitVec 4),
      let m := xr (reg d)
      let q : ℚ := (scal f e.toNat : ℚ) * (2 : ℚ) ^ ((BitVec.ofNat 32 (reg a)).toInt - 127)
      leaves (.rkEed d a f e) (after (set v d (if m.isNan then 0x7FC00000 else (roundF f32 (wholeSum m (ofRat false q) 0) 0).code)))) ∧
    (∀ a c (x : BitVec 2),
      let m := xr (reg a)
      let n := xr (reg c)
      leaves (.rkCmpf a c x) (after { v with c := match x.toNat with
        | 0 => xLt m n
        | 1 => xLe m n
        | 2 => xLe m n && xLe n m
        | _ => m.isNan || n.isNan })) ∧
    (∀ target : Byte, leaves (.rkJmp target) { v with mpc := target.toNat, steps := v.steps + 1 } ∧
      ∀ x, leaves (.rkJc x target) (if v.c != x then { v with mpc := target.toNat, steps := v.steps + 1 } else after v)) ∧
    leaves .rkYld (after v) ∧ (∀ code : Byte, faults (.rkFlt code) 6 code.toNat 0) ∧
    (∀ n, BookLine s p b (tree v.tree + 8) n →
      let count := mnat s.mem n 4
      (∀ a, moves (.rkNld a) { v with st := if reg a < count then .reading (reg a) (v.mpc + 1) true else .saving 4 0 0 }) ∧
      ∀ e ∈ Prod.mk Instr.rkNextChild (v.node + 1) :: (List.range 8).map (fun j => (Instr.rkNext (BitVec.ofNat 3 j), reg (BitVec.ofNat 3 j))),
        (e.2 < count → moves e.1 { v with st := .reading e.2 0 true }) ∧
        (count ≤ e.2 → ∃ t, exec e.1 s = .next t ∧ VisitEnds s t p k b v (v.steps + 1))) ∧
    (∀ fin, ∃ t, exec (.rkDone fin) s = .next t ∧ (fin = false → VisitEnds s t p k b v (v.steps + 1)) ∧
      ∀ stat, fin = true → BookLine s p b (entry + 52) stat → NoWindows s → ∃ u, VisitEnds u t p k b v (v.steps + 1) ∧
        u.mem = poke s.mem stat 1 (if (mget s.mem stat).toNat = 1 then 2 else (mget s.mem stat).toNat) ∧ NoWindows u ∧
        u.queries = s.queries ∧ u.finishes = s.finishes ∧ (u.pan p).pw = (s.pan p).pw ∧ Unhindered u p 4 4 ∧
        ∀ va pa, BookLine s p b va pa → BookLine u p b va pa) ∧
    (NoWindows s → ∀ a c, ∀ te qh pe ea,
      (b.ntree ≤ reg a → faults (.rkEnq a c) 4 0 0) ∧
      (reg a < b.ntree → BookSpoilt s p b (tree (reg a) + 24) → faults (.rkEnq a c) 3 0 (tree (reg a) + 24)) ∧
      (reg a < b.ntree → BookLine s p b (tree (reg a)) te → BookLine s p b (tree (reg a) + 24) qh → qh = te + 24 →
        let qlog := (mget s.mem (te + 12)).toNat
        let head := mnat s.mem (te + 24) 4
        let tail := mnat s.mem (te + 28) 4
        (head = (tail + 2 ^ qlog) % 2 ^ 32 → qlog < 32 → moves (.rkEnq a c) { v with st := .saving 7 0 0 }) ∧
        (head ≠ (tail + 2 ^ qlog) % 2 ^ 32 → qlog < 32 → BookLine s p b (entry + 40) pe →
          BookAt s p b (mnat s.mem (te + 16) 8 + 16 * (head % 2 ^ qlog)) ea → ea % 128 ≤ 112 →
          ∃ t, exec (.rkEnq a c) s = .next t ∧ tget (t.pan p).rake.visits k = some (after v) ∧
            let m1 := poke s.mem qh 4 ((head + 1) % 2 ^ 32)
            let m2 := poke m1 pe 4 ((mnat m1 pe 4 + 1) % 2 ^ 32)
            t.mem = mwrite m2 ea (bytesOf v.qid 4 ++ bytesOf (reg c) 4 ++ bytesOf v.gen 4 ++ bytesOf 0 4)))) ∧
    (NoWindows s → ∀ a c,
      let d := if reg a = 2 ^ 31 then 0 else reg a
      let inside := xLe (xr v.tmin) (xr d) && xLe (xr d) (xr v.tmax)
      (inside = false → leaves (.rkHmin a c) (after v)) ∧
      (inside = true → BookSpoilt s p b (entry + 32) → faults (.rkHmin a c) 3 0 (entry + 32)) ∧
      (inside = true → ∀ hp, BookLine s p b (entry + 32) hp → ∃ t, exec (.rkHmin a c) s = .next t ∧
        t.mem = poke s.mem hp 8 (Nat.min (mnat s.mem hp 8) (d * 2 ^ 32 + reg c) % 2 ^ 64) ∧
        tget (t.pan p).rake.visits k = some (after { v with hs := if xLt (xr d) (xr v.hs) then d else v.hs }))) ∧
    (∀ a, BookSpoilt s p b (entry + 44) → faults (.rkEmit a) 3 0 (entry + 44)) ∧
    (NoWindows s → ∀ a np op ov, BookLine s p b (entry + 44) np →
      let i := mnat s.mem np 4
      let m1 := poke s.mem np 4 ((i + 1) % 2 ^ 32)
      (i < b.cap → BookAt s p b (b.out + (v.qid * b.cap + i) * 8) op → ∃ t, exec (.rkEmit a) s = .next t ∧
        t.mem = poke m1 op 8 (reg a * 2 ^ 32 + v.qid) ∧ tget (t.pan p).rake.visits k = some (after v)) ∧
      (b.cap ≤ i → BookLine s p b (entry + 53) ov → ∃ t, exec (.rkEmit a) s = .next t ∧
        t.mem = poke m1 ov 1 ((mget m1 ov).toNat ||| 2) ∧ tget (t.pan p).rake.visits k = some (after v))) ∧
    ∀ i w, microWord i = some w →
      (∀ s' : State, s' = s.putVisit p k { v with steps := b.stepcap } →
        exec i s' = .next (s'.putVisit p k { v with steps := b.stepcap, st := .saving 5 0 0 })) ∧
      ∀ s' pa, BookLine s p b (entry + 52) pa → s' = { s with mem := poke s.mem pa 1 4 } →
        ∃ t, exec i s' = .next t ∧ VisitEnds s' t p k b v v.steps

/-- The lanes of an issue on GT have been answered with these values, and it has ended (R28, R34, R283). -/
def EndsOnGt (s t : State) (gk : GKey) (issue : Nat) (lanes : List Nat) (val : Nat → Nat) : Prop :=
  ∀ p k g tm d, s.findGroup gk = some (p, k, g, tm) → SoleIssue g issue .gt lanes d → (∃ e ∈ g.th, e.2.st ≠ .exited) →
    (∀ n, d ≠ .g n) → (∀ n, d ≠ .t n) →
    ∃ h, t.group p k = some h ∧ h.ctr = g.ctr.mod .gt (· - 1) ∧ h.issues = [] ∧
      ∀ l ∈ lanes, ∀ a, g.thread l = some a → a.st ≠ .exited → ∃ u, h.thread l = some u ∧ dstNat h u 1 d = cut d 1 (val l) ∧
        u.ve &&& marksV d 1 = 0 ∧ u.pe &&& marksP d = 0

/-- One leaf of the pan's L2 TLB gives plain access to a range of addresses, whose lines are all good and can be read at once (R54, R86,
R282). -/
structure Spans (s : State) (pan part slot va n e : Nat) (wr : Bool) : Prop where
  page : ∀ j, j < n → addressOk s part slot (va + j) = true ∧ tlbFind (s.pan pan).l2tlb (asid part slot) (va + j) = some e ∧
    isEndpoint (leafPa e (va + j)) = false ∧ s.badLine (leafPa e (va + j)) = false
  plain : cxOf e = false
  lines : ∀ j, j < n → LineReadable s part (lineOf (leafPa e (va + j))) false (pteRet e)
  rights : pteR e = true ∧ (wr = true → pteW e = true)

/-- The bytes of a range that one leaf reaches. -/
def spanBytes (s : State) (va n e : Nat) : List Byte := (List.range n).map fun j => mget s.mem (leafPa e (va + j))

/-- R268: a layout of a header and sixteen field words keeps its rules. -/
def LayoutLegal (lay : List Nat) : Prop :=
  let h := lay.getD 0 0
  let word (i : Nat) : Nat := lay.getD (i + 1) 0
  let kind (i : Nat) : Nat := bitsOf (word i) 28 4
  let nf := bitsOf h 20 4 + 1
  let scalars (i : Nat) : Nat := (bitsOf (word i) 24 4 + 1) * (if kind i = 6 then 6 else if kind i = 7 then 9 else 1)
  let size (i : Nat) : Nat := if kind i = 3 then 1 else if kind i = 2 ∨ kind i = 4 then 2 else 4
  bitsOf h 0 20 = 0 ∧ 1 ≤ bitsOf h 24 8 ∧ bitsOf h 24 8 ≤ 16 ∧
  (∀ i, i < nf → bitsOf (word i) 0 16 = 0 ∧ 1 ≤ kind i ∧ kind i ≤ 10 ∧ scalars i ≤ 16 ∧
    (kind i ∈ [6, 7, 8, 10] → bitsOf (word i) 24 4 = 0) ∧ bitsOf (word i) 16 8 % size i = 0 ∧
    bitsOf (word i) 16 8 + scalars i * size i ≤ 16 * bitsOf h 24 8) ∧
  (∀ i, nf ≤ i → i < 16 → word i = 0) ∧
  ∀ i j, i < j → j < nf → kind i = kind j → kind i ∉ [6, 8, 9, 10]

/-- R275: the checks of a program against a legal layout. -/
def ProgramLegal (prog : List Word) (lay : List Nat) : Prop :=
  let op (w : Word) : Nat := w.toNat / 2 ^ 28
  (∀ w ∈ prog, ∃ i, decodeMicro w = some i) ∧
  (∀ w ∈ prog,
    let f := bitsOf w.toNat 15 4
    let fw := lay.getD (f + 1) 0
    let kind := bitsOf fw 28 4
    (op w ∈ [1, 2, 3, 4, 5] → f ≤ bitsOf (lay.getD 0 0) 20 4) ∧ (op w = 2 ∨ op w = 4 → kind = 6) ∧ (op w = 3 → kind = 7) ∧
    (op w = 5 → kind = 3 ∨ kind = 4) ∧
    (op w = 1 ∨ op w = 5 → bitsOf w.toNat 11 4 < (bitsOf fw 24 4 + 1) * (if kind = 6 then 6 else if kind = 7 then 9 else 1)) ∧
    (op w = 7 ∨ op w = 8 → w.toNat % 2 ^ 8 < prog.length)) ∧
  ∃ w, prog.getLast? = some w ∧ op w ∈ [7, 10, 14, 15]

/-- The registers of a query are such that it can be accepted (R285): six components, TMIN and TMAX. -/
def QueryFits (box : Bool) (q : List Nat) : Prop :=
  let c (i : Nat) : FVal := xr (q.getD i 0)
  (∀ i, i < (if box then 6 else 8) → (c i).isNan = false) ∧
  if box then ∀ i, i < 3 → xLe (c i) (c (i + 3)) = true
  else xLe (.fin false 0 1) (c 6) = true ∧ xLe (c 6) (c 7) = true ∧ ∃ i, 3 ≤ i ∧ i < 6 ∧ (c i).isZero = false

/-- R267, R273, R281 to R287: what the rake does with the command at the head of its queue, once the accesses before it are done, it is
admitted, and nothing makes its own accesses wait: a bind's status and its effect, queries accepted or rejected, a slot saved, a record resumed, the node cache
dropped, queries cancelled. -/
def Obligations.RakeTakesCommands : Prop :=
  ∀ (s : State) (p : Nat) (c : RkCmd) (rest : List RkCmd), (s.pan p).core.rqueue = c :: rest →
    s.engineMayStart p c.issue c.rc c.gk c.lanes = true → c.wait = 0 → c.charged = true ∨ c.price = none → NoWindows s →
    (∀ y ∈ rest, y.issue ≠ c.issue) → Unhindered s p (2 * c.args.length + 16) (c.args.length + 4) →
    let rk := (s.pan p).rake
    let t := s.rakeTurn p
    let popped := (t.pan p).core.rqueue = rest
    (c.opc = 0xB6 → popped ∧ (t.pan p).rake = { rk with cache := [] } ∧ t.mem = s.mem ∧ EndsOnGt s t c.gk c.issue c.lanes fun _ => 0) ∧
    (c.opc = 0xB0 →
      let d := c.desc
      let f (o n : Nat) : Nat := bitsOf d (8 * o) (8 * n)
      let fits := f 0 8 % 4 = 0 ∧ f 8 8 % 4 = 0 ∧ f 16 8 % 32 = 0 ∧ f 24 8 % 64 = 0 ∧ f 32 8 % 8 = 0 ∧ f 40 8 % 128 = 0 ∧ 1 ≤ f 48 4 ∧
        f 48 4 ≤ 2 ^ 24 ∧ 1 ≤ f 52 4 ∧ f 52 4 ≤ 2 ^ 24 ∧ 1 ≤ f 58 2 ∧ bitsOf d 490 2 = 0
      let status (n : Nat) : Prop := popped ∧ t.mem = s.mem ∧ EndsOnGt s t c.gk c.issue c.lanes fun _ => n * 2 ^ 28
      (¬ fits → status 1 ∧ (t.pan p).rake = { rk with cache := [] }) ∧
      (fits → ∀ e e', Spans s p c.part c.asSlot (f 0 8) (4 * (f 60 1 + 1)) e false → Spans s p c.part c.asSlot (f 8 8) 68 e' false →
        let bytes := spanBytes s (f 0 8) (4 * (f 60 1 + 1)) e
        let blob := spanBytes s (f 8 8) 68 e'
        let prog := (List.range (f 60 1 + 1)).map fun i => BitVec.ofNat 32 (ofBytes ((bytes.drop (4 * i)).take 4))
        let lay := (List.range 17).map fun i => ofBytes ((blob.drop (4 * i)).take 4)
        let b : RkBind :=
          { part := c.part, asSlot := c.asSlot, ctx := f 62 2, progid := crc32c bytes, layid := crc32c blob, prog := prog, lay := lay,
            trees := f 16 8, raytab := f 24 8, out := f 32 8, save := f 40 8, ntree := f 48 4, nq := f 52 4, cap := f 56 2,
            stepcap := f 58 2, slog := bitsOf d 492 4 }
        let like (o : RkBind) : Prop := o.part = b.part ∧ o.asSlot = b.asSlot ∧ o.ctx = b.ctx ∧ o.progid = b.progid ∧ o.layid = b.layid
        let holds := (∃ v ∈ rk.visits, v.2.bslot = c.bslot) ∨ ∃ q ∈ rk.claims, q.bslot = c.bslot
        (LayoutLegal lay → ¬ ProgramLegal prog lay → status 2 ∧ (t.pan p).rake = { rk with cache := [] }) ∧
        (¬ LayoutLegal lay → (status 2 ∨ status 3) ∧ (t.pan p).rake = { rk with cache := [] }) ∧
        (LayoutLegal lay → ProgramLegal prog lay →
          (∀ o, tget rk.binds c.bslot = some o → like o → status 0 ∧ (t.pan p).rake = { rk with cache := [] }) ∧
          (∀ o, tget rk.binds c.bslot = some o → ¬ like o → holds → status 5 ∧ (t.pan p).rake = { rk with cache := [] }) ∧
          (tget rk.binds c.bslot = none ∨ (∃ o, tget rk.binds c.bslot = some o ∧ ¬ like o ∧ ¬ holds) →
            status 0 ∧ (t.pan p).rake = { rk with cache := [], binds := tput rk.binds c.bslot b })))) ∧
    (∀ b, tget rk.binds c.bslot = some b →
      let entry (q : Nat) : Nat := b.raytab + 64 * q
      (c.opc = 0xB1 ∨ c.opc = 0xB2 → c.lanes.length + rk.visits.length + rk.claims.length ≤ 256 → c.args.map (·.1) = c.lanes →
        (∀ a ∈ c.args, a.2.length = if c.opc = 0xB1 then 9 else 7) → c.lanes.Nodup → tSorted rk.visits = true → (∀ v ∈ rk.visits, v.1 < 256) →
        ∀ pa : Nat → Nat, (∀ a ∈ c.args, a.2.headD 0 < b.nq → BookLine s p b (entry (a.2.headD 0)) (pa (a.2.headD 0)) ∧ pa (a.2.headD 0) % 64 = 0) →
        (∀ a ∈ c.args, ∀ a' ∈ c.args, a.2.headD 0 ≠ a'.2.headD 0 → pa (a.2.headD 0) ≠ pa (a'.2.headD 0)) →
        let box := decide (c.opc = 0xB2)
        let accepted (i : Nat) : Prop := ∃ a, c.args[i]? = some a ∧ a.2.headD 0 < b.nq ∧ QueryFits box a.2.tail ∧
          (mget s.mem (pa (a.2.headD 0) + 52)).toNat ≠ 1 ∧ ∀ j, j < i → ∀ a', c.args[j]? = some a' → a'.2.headD 0 ≠ a.2.headD 0
        popped ∧
        (∀ adr, (∀ i a, c.args[i]? = some a → accepted i → adr < pa (a.2.headD 0) ∨ pa (a.2.headD 0) + 64 ≤ adr) → mget t.mem adr = mget s.mem adr) ∧
        (∀ i a, c.args[i]? = some a → accepted i →
          let qid := a.2.headD 0
          let q := a.2.tail
          let at_ (o n : Nat) : Nat := mnat t.mem (pa qid + o) n
          let gen := (mnat s.mem (pa qid + 48) 4 + 1) % 2 ^ 32
          (∀ j, j < 6 → at_ (4 * j) 4 = q.getD j 0 % 2 ^ 32) ∧ at_ 24 4 = (if box then 0 else q.getD 6 0 % 2 ^ 32) ∧
          at_ 28 4 = (if box then 0x7F800000 else q.getD 7 0 % 2 ^ 32) ∧ at_ 32 8 = 0x7F800000FFFFFFFF ∧ at_ 40 4 = 1 ∧ at_ 44 4 = 0 ∧
          at_ 48 4 = gen ∧ at_ 52 1 = 1 ∧ at_ 53 1 = (if box then 1 else 0) ∧ at_ 54 2 = 0 ∧
          (p < 192 → c.slot < 136 → at_ 56 4 = p * 2 ^ 16 + c.slot * 2 ^ 8) ∧ at_ 60 4 = 0 ∧
          (∃ y ∈ t.queries, y.gk = c.gk ∧ y.issue = c.issue + 1 ∧ y.lane = a.1 ∧ y.asid = asid b.part b.asSlot ∧ y.entry = entry qid) ∧
          ∃ v ∈ (t.pan p).rake.visits, v.2.bslot = c.bslot ∧ v.2.qid = qid ∧ v.2.q = q.take 6 ∧ v.2.box = box ∧ v.2.tree = 0 ∧
            v.2.node = 0 ∧ v.2.m = List.replicate 8 0 ∧ v.2.c = false ∧ v.2.mpc = 0 ∧ v.2.hs = 0x7F800000 ∧ v.2.gen = gen ∧
            v.2.fresh = true ∧ v.2.st = .entering) ∧
        ∀ gp gs g tm n i j, s.findGroup c.gk = some (gp, gs, g, tm) → g.issues = [i, j] → i.id = c.issue → i.ctr = none → i.dst = .p n →
          i.regs = 1 → i.ext = .zero → i.wait = none → i.failed = none → i.bad = none → i.whole = false →
          j = { i with id := c.issue + 1, ctr := some .gt, dst := .none } → i.lanes = c.lanes.map (fun l => (l, {})) → (∃ e ∈ g.th, e.2.st ≠ .exited) →
          ∃ h, t.group gp gs = some h ∧
            (∀ m a, c.args[m]? = some a → ∀ th, g.thread a.1 = some th → th.st ≠ .exited → ∃ u, h.thread a.1 = some u ∧
              u.pe.getLsbD n.toNat = false ∧ (u.p.getLsbD n.toNat = true ↔ accepted m)) ∧
            ((∃ m, accepted m) → h.ctr = g.ctr ∧ h.issues.map (·.id) = [c.issue + 1]) ∧
            ((∀ m, ¬ accepted m) → h.ctr = g.ctr.mod .gt (· - 1) ∧ h.issues = [])) ∧
      (c.opc = 0xB7 → ∀ pa : Nat → Nat, (∀ a ∈ c.args, a.2.headD 0 < b.nq → BookLine s p b (entry (a.2.headD 0) + 52) (pa (a.2.headD 0))) →
        popped ∧ EndsOnGt s t c.gk c.issue c.lanes (fun _ => 0) ∧
        t.mem = c.args.foldl (fun m a => if a.2.headD 0 < b.nq then poke m (pa (a.2.headD 0)) 1
          (if (mget m (pa (a.2.headD 0))).toNat = 1 then 4 else (mget m (pa (a.2.headD 0))).toNat) else m) s.mem) ∧
      (c.opc = 0xB3 →
        ((∃ v ∈ rk.visits, v.2.bslot = c.bslot) ∨ (∃ q ∈ rk.claims, q.bslot = c.bslot) →
          (t.pan p).core.rqueue = c :: rest ∧ t.mem = s.mem ∧ (t.pan p).rake.binds = rk.binds ∧ (t.pan p).rake.claims = rk.claims ∧
          ∀ j v, tget rk.visits j = some v → tget (t.pan p).rake.visits j = some (if v.bslot = c.bslot then
            match v.st with
              | .saving _ _ _ | .posting _ => v
              | _ => { v with st := .saving 0 0 0 } else v)) ∧
        ((∀ v ∈ rk.visits, v.2.bslot ≠ c.bslot) → (∀ q ∈ rk.claims, q.bslot ≠ c.bslot) →
          popped ∧ (t.pan p).rake = { rk with binds := tdel rk.binds c.bslot } ∧ t.mem = s.mem ∧
          EndsOnGt s t c.gk c.issue c.lanes fun _ => 0)) ∧
      (c.opc = 0xB4 → ∀ l va, c.args = [(l, [va])] → c.lanes = [l] → rk.visits.length + rk.claims.length < 256 →
        tSorted rk.visits = true → (∀ v ∈ rk.visits, v.1 < 256) →
        ∀ rp ep cp, BookLine s p b va rp →
        let f (o n : Nat) : Nat := mnat s.mem (rp + o) n
        let qid := f 32 4
        BookLine s p b (entry qid) ep → BookAt s p b (va + 87) cp → cp = rp + 87 →
        let body := (List.range 124).map fun o => if o = 87 then 0 else mget s.mem (rp + o)
        let atRecord := ∃ i, i < 2 ^ (b.slog + 4) ∧ va = b.save + 128 + 128 * i
        let resumes := atRecord ∧ crc32c body = f 124 4 ∧ f 88 4 = b.progid ∧ f 92 4 = b.layid ∧ f 96 2 = b.ctx ∧ b.part = c.part ∧
          b.asSlot = c.asSlot ∧ qid < b.nq ∧ f 100 4 = mnat s.mem (ep + 48) 4 ∧ f 87 1 = 0
        popped ∧ (¬ resumes → t.mem = s.mem ∧ (t.pan p).rake = rk ∧ EndsOnGt s t c.gk c.issue [l] fun _ => 0) ∧
        (resumes → t.mem = poke s.mem (rp + 87) 1 1 ∧ EndsOnGt s t c.gk c.issue [l] (fun _ => 1) ∧
          ∃ j v, (∀ w, tget rk.visits j ≠ some w) ∧ tget (t.pan p).rake.visits j = some v ∧ v.bslot = c.bslot ∧ v.qid = qid ∧
            v.q = (List.range 6).map (fun i => f (4 * i) 4) ∧ v.tmin = f 24 4 ∧ v.tmax = f 28 4 ∧ v.tree = f 36 4 ∧ v.node = f 40 4 ∧
            v.m = (List.range 8).map (fun i => f (44 + 4 * i) 4) ∧ v.mpc = f 84 1 ∧ v.c = (f 85 1).testBit 7 ∧ v.box = (f 85 1).testBit 6 ∧
            v.gen = f 100 4 ∧ v.owner = f 112 4 ∧ v.steps = 0 ∧ v.fresh = false ∧ v.st = .entering ∧
            v.hs = if xLt (xr (mnat s.mem (ep + 36) 4)) (xr (f 80 4)) then mnat s.mem (ep + 36) 4 else f 80 4)))

/-- A claimed entry taken up (R273): reset, and a fresh visit begun at its treelet, or dropped where its GEN is stale. `ea` and
`ra` are where the entry and its query's ray-table entry stand. -/
def EntryTaken (s t : State) (p : Nat) (b : RkBind) (c : Claim) (ea ra : Nat) : Prop :=
  let f (o n : Nat) : Nat := mnat s.mem (ra + o) n
  let qid := mnat s.mem ea 4
  t.mem = poke s.mem ea 4 0xFFFFFFFF ∧
  if f 48 4 = mnat s.mem (ea + 8) 4 then
    ∃ j v, (∀ w, tget (s.pan p).rake.visits j ≠ some w) ∧ tget (t.pan p).rake.visits j = some v ∧
      v = { bslot := c.bslot, qid := qid, q := (List.range 6).map fun i => f (4 * i) 4, box := (f 53 1).testBit 0, tmin := mnat s.mem (ea + 4) 4,
            tmax := f 28 4, tree := c.tree, hs := f 36 4, gen := f 48 4, owner := f 56 4 }
  else (t.pan p).rake.visits = (s.pan p).rake.visits

/-- R58, R272, R273, R278, R279, R282, R290, R416: where nothing makes its accesses wait, a visit is admitted and begins, its node's bytes
arrive, or its read faults or takes an entry of the miss table, a saved visit takes the next slot of the save ring, and a claim takes up
what a queue holds; and a finish notice reaches its group. -/
def Obligations.RakeEvents : Prop :=
  ∀ (s : State) (p k : Nat), (s.pan p).off = false → Unhindered s p 8 8 →
    let rk := (s.pan p).rake
    (∀ v b, tget rk.visits k = some v → tget rk.binds v.bslot = some b →
      let becomes (i : Instr) (w : Visit) : Prop := ∃ t, exec i s = .next t ∧ tget (t.pan p).rake.visits k = some w ∧ t.mem = s.mem ∧ t.xmem = s.xmem
      let entry := b.raytab + 64 * v.qid
      (∀ stat, v.st = .entering → BookLine s p b (entry + 52) stat → (∀ q ∈ s.queries, s.holdsChain q.gk = false) →
        let cls := ((s.query b v.qid).map (·.cls)).getD 1
        let st := (mget s.mem stat).toNat
        (s.affords p b.part false cls 9 b.stepcap = none → exec (.visitAdmission p k) s = .next s) ∧
        ∀ s1, s.affords p b.part false cls 9 b.stepcap = some s1 →
          if st = 4 ∨ (st = 2 ∧ v.fresh = true) then ∃ t, exec (.visitAdmission p k) s = .next t ∧ VisitEnds s1 t p k b { v with charged := true } v.steps
          else becomes (.visitAdmission p k) { v with charged := true, st := .reading v.node v.mpc false }) ∧
      (∀ node mpc step np, v.st = .reading node mpc step → BookLine s p b (b.trees + 32 * v.tree) np →
        let size := 16 * bitsOf (b.lay.getD 0 0) 24 8
        let va := (mnat s.mem np 8 + node * size) % 2 ^ 64
        let got (bs : List Byte) : Visit :=
          { v with st := .ready, node := node, mpc := mpc, bytes := bs, fresh := false, steps := v.steps + if step then 1 else 0 }
        let cached (bs : List Byte) : Prop := rk.cache.find? (fun e => e.1 == asid b.part b.asSlot && e.2.1 == va && e.2.2.length == size) =
          some (asid b.part b.asSlot, va, bs)
        (∀ bs, cached bs → becomes (.nodeReadReturn p k) (got bs)) ∧
        ((∀ bs, ¬ cached bs) → 0 < size → size ≤ 256 → ∀ e, Spans s p b.part b.asSlot va size e false →
          ∃ t, exec (.nodeReadReturn p k) s = .next t ∧ t.mem = s.mem ∧ tget (t.pan p).rake.visits k = some (got (spanBytes s va size e)) ∧
            (asid b.part b.asSlot, va, spanBytes s va size e) ∈ (t.pan p).rake.cache) ∧
        ((∀ bs, ¬ cached bs) → 0 < size → addressOk s b.part b.asSlot va = true →
          tlbFind (s.pan p).l2tlb (asid b.part b.asSlot) va = none →
          let met := (s.pan p).walked.find? fun x => x.1 == asid b.part b.asSlot && x.2.vpn == va / 4096
          (met = none → ∃ t, exec (.nodeReadReturn p k) s = .next t ∧ tget (t.pan p).rake.visits k = some v ∧ t.mem = s.mem ∧
            ∀ n, (s.pan p).addMiss (asid b.part b.asSlot) (va / 4096) 256 = some n → t = s.modPan p fun _ => n) ∧
          ∀ w, met = some w → w.2.kind = 0 → ∃ t rec_, exec (.nodeReadReturn p k) s = .next t ∧ t.mem = s.mem ∧ (t.part b.part).xfr.wait = (s.part b.part).xfr.wait ++ [rec_] ∧
            tget (t.pan p).rake.visits k = some { v with st := .saving 1 0 va })) ∧
      (∀ cause ucode fva hp, v.st = .saving cause ucode fva → BookLine s p b b.save hp → NoWindows s →
        let head := mnat s.mem hp 4
        let tail := mnat s.mem (hp + 4) 4
        let rsv := mnat s.mem (hp + 8) 4
        let size := 2 ^ (b.slog + 4)
        (size ≤ (rsv + 2 ^ 32 - tail) % 2 ^ 32 ∨ head ≠ rsv → becomes (.saveRingReserve p k) v) ∧
        ((rsv + 2 ^ 32 - tail) % 2 ^ 32 < size → head = rsv →
          let va := b.save + 128 + rsv % size * 128
          ∀ rp r8, BookAt s p b va rp → BookAt s p b (b.save + 8) r8 → r8 = hp + 8 → rp % 128 = 0 → hp % 128 = 0 → rp ≠ hp → v.q.length = 6 → v.m.length = 8 →
          ∃ t, exec (.saveRingReserve p k) s = .next t ∧
            (let f (o n : Nat) : Nat := mnat t.mem (rp + o) n
             (∀ i, i < 6 → f (4 * i) 4 = v.q.getD i 0 % 2 ^ 32) ∧ (∀ i, i < 8 → f (44 + 4 * i) 4 = v.m.getD i 0 % 2 ^ 32) ∧
             (∀ e ∈ [(24, 4, v.tmin), (28, 4, v.tmax), (32, 4, v.qid), (36, 4, v.tree), (40, 4, v.node), (76, 4, 0), (80, 4, v.hs), (84, 1, v.mpc),
                (85, 1, v.c.toNat * 128 + v.box.toNat * 64), (86, 1, cause), (87, 1, 0), (88, 4, b.progid), (92, 4, b.layid), (96, 2, b.ctx),
                (98, 2, v.steps), (100, 4, v.gen), (104, 8, fva), (112, 4, v.owner), (116, 4, 0), (120, 3, rsv), (123, 1, ucode)],
              f e.1 e.2.1 = e.2.2 % 2 ^ (8 * e.2.1)) ∧ f 124 4 = crc32c (mread t.mem rp 124) ∧
             mnat t.mem hp 4 = (head + 1) % 2 ^ 32 ∧ mnat t.mem (hp + 8) 4 = (rsv + 1) % 2 ^ 32 ∧ mnat t.mem (hp + 4) 4 = tail) ∧
            (∀ a, (a < rp ∨ rp + 128 ≤ a) → (a < hp ∨ hp + 4 ≤ a) → (a < hp + 8 ∨ hp + 12 ≤ a) → mget t.mem a = mget s.mem a) ∧
            (tget (t.pan p).rake.visits k = none ∨ tget (t.pan p).rake.visits k = some { v with st := .posting va }) ∧
            ∀ q gp gk tm, s.query b v.qid = some q → s.pans.findSome? (fun e => (e.2.core.teams.find? fun u => gkeyOf u.2 0 == q.gk.team_).map
                fun u => (e.1, u.1, u.2)) = some (gp, gk, tm) → (s.pan gp).core.evqFull = false → (s.pan gp).caughtUp = true → gk < 8 → q.slot < 136 →
              tget (t.pan p).rake.visits k = none ∧ ∃ ev, (t.pan gp).core.evq.recs = (s.pan gp).core.evq.recs ++ [ev] ∧ ev.length = 32 ∧
                bitsOf (ofBytes ev) 28 4 = 2 ∧ bitsOf (ofBytes ev) 24 4 = 0))) ∧
    (∀ b bs tr, tget rk.binds bs = some b → Unhindered s p (b.ntree + 100) 8 → tr < b.ntree → (∀ v ∈ rk.visits, v.2.st ≠ .ready) → rk.visits.length + rk.claims.length < 256 →
      (∀ c cs, (s.pan p).core.rqueue = c :: cs → c.opc ≠ 0xB3) → NoWindows s →
      (∀ e ∈ rk.binds, e.1 = bs ∧ e.2 = b) → ∀ tp : Nat → Nat, (∀ u, u < b.ntree → BookLine s p b (b.trees + 32 * u) (tp u)) →
      BookLine s p b (b.trees + 32 * tr + 28) (tp tr + 28) → tp tr % 32 = 0 →
      let head (u : Nat) : Nat := mnat s.mem (tp u + 24) 4
      let tail (u : Nat) : Nat := mnat s.mem (tp u + 28) 4
      let earlier (u : Nat) : Prop := if rk.rot = (bs, tr) then u ≠ tr else
        if rk.rot.1 = bs ∧ rk.rot.2 < tr then rk.rot.2 < u ∧ u < tr
        else if rk.rot.1 < bs ∨ bs < rk.rot.1 then u < tr else u < tr ∨ rk.rot.2 < u
      head tr ≠ tail tr → (∀ u, u < b.ntree → earlier u → head u = tail u) →
      let n := Nat.min 64 (Nat.min (256 - rk.visits.length - rk.claims.length) ((head tr + 2 ^ 32 - tail tr) % 2 ^ 32))
      let slot (i : Nat) : Nat := mnat s.mem (tp tr + 16) 8 + 16 * ((tail tr + i) % 2 ^ (mget s.mem (tp tr + 12)).toNat)
      ∀ ea : Nat → Nat, (∀ i, i < n → BookLine s p b (slot i) (ea i) ∧ (ea i + 16 ≤ tp tr ∨ tp tr + 32 ≤ ea i)) →
      ((∀ i, i < n → mnat s.mem (ea i) 4 = 0xFFFFFFFF) → ∃ t, exec (.rakeClaim p) s = .next t ∧
        t.mem = poke s.mem (tp tr + 28) 4 ((tail tr + n) % 2 ^ 32) ∧ (t.pan p).rake.rot = (bs, tr) ∧ (t.pan p).rake.visits = rk.visits ∧
        (t.pan p).rake.claims = rk.claims ++ (List.range n).map fun i => { bslot := bs, tree := tr, va := slot i, since := s.clock.cycles }) ∧
      (n = 1 → mnat s.mem (ea 0) 4 ≠ 0xFFFFFFFF → ∀ ra, BookLine s p b (b.raytab + 64 * mnat s.mem (ea 0) 4) ra →
        ra + 64 ≤ ea 0 ∨ ea 0 + 4 ≤ ra → ra + 64 ≤ tp tr ∨ tp tr + 32 ≤ ra → tSorted rk.visits = true → (∀ v ∈ rk.visits, v.1 < 256) →
        ∃ t, exec (.rakeClaim p) s = .next t ∧ (t.pan p).rake.rot = (bs, tr) ∧ (t.pan p).rake.claims = rk.claims ∧
          EntryTaken { s with mem := poke s.mem (tp tr + 28) 4 ((tail tr + 1) % 2 ^ 32) } t p b
            { bslot := bs, tree := tr, va := slot 0, since := 0 } (ea 0) ra)) ∧
    (∀ i c b, rk.claims[i]? = some c → tget rk.binds c.bslot = some b → NoWindows s →
      (s.clock.cycles < c.since + 256 → exec (.claimEntryReread p i) s = .next s) ∧
      (c.since + 256 ≤ s.clock.cycles → ∀ ea, BookLine s p b c.va ea →
        (mnat s.mem ea 4 = 0xFFFFFFFF → ∃ t, exec (.claimEntryReread p i) s = .next t ∧ t.mem = s.mem ∧ (t.pan p).rake.visits = rk.visits ∧
          (t.pan p).rake.claims = rk.claims.eraseIdx i ++ [{ c with since := s.clock.cycles }]) ∧
        (mnat s.mem ea 4 ≠ 0xFFFFFFFF → ∀ ra, BookLine s p b (b.raytab + 64 * mnat s.mem ea 4) ra → ra + 64 ≤ ea ∨ ea + 4 ≤ ra →
          tSorted rk.visits = true → (∀ v ∈ rk.visits, v.1 < 256) → rk.visits.length < 256 →
          ∃ t, exec (.claimEntryReread p i) s = .next t ∧ (t.pan p).rake.claims = rk.claims.eraseIdx i ∧ EntryTaken s t p b c ea ra))) ∧
    ∀ i q, s.finishes[i]? = some q → ∃ t, exec (.finishNotice i) s = .next t ∧ t.finishes = s.finishes.eraseIdx i ∧ t.mem = s.mem ∧
      EndsOnGt s t q.gk q.issue [q.lane] fun _ => 0

/-! ## Strips -/

/-- R34, R139, R305, R306: the instructions of rows 0xC0 to 0xC7 raise GR, mark D empty, of PSTAT a pair, and leave a command with the
operands of the lowest active thread; a full counter holds them, and a scratchpad block that is misaligned or not within the
allocation tears the slot down. -/
def Obligations.GraphicsInstructionsSend : Prop :=
  ∀ (x : Std) (s : State) (g : Group) (r : RunIn) (tm : Team),
    let p := s.actor.1
    let core := (s.pan p).core
    let a := lowest g r x 1 x.a
    let b := lowest g r x 1 x.b
    let quads := if 32 ≤ b ∧ b ≤ 256 then 16 * b else 0
    let sends (i : Instr) (opc regs a b : Nat) : Prop := ∃ t c, exec i s = .next t ∧ Counted s t g r x x.d regs .gr ∧
      (t.pan p).core.gfx = core.gfx ++ [c] ∧ t.mem = s.mem ∧ t.streams = s.streams ∧ t.harvest = s.harvest ∧
      (t.pan p).core.scratch = core.scratch ∧ c.gk = gkeyOf tm g.num ∧ c.slot = s.actor.2 ∧ c.team = g.team ∧ c.part = tm.part ∧
      c.asSlot = tm.slot ∧ c.cls = tm.cls ∧ c.issue = s.nextId ∧ c.lanes = activeLanes g r x ∧ c.opc = opc ∧ c.fn = x.fn.toNat ∧
      c.a = a ∧ c.b = b ∧ c.base = tm.base ∧ c.size = tm.size ∧ c.admitted = false ∧ c.wait = 0 ∧ c.fin = none
    let full (i : Instr) : Prop := ∃ t, exec i s = .next t ∧ OnlyGroup s t p s.actor.2 ∧ t.group p s.actor.2 = some g
    (∀ e ∈ [(0xC0, Instr.binpop x, 1, a, 0), (0xC3, .rate x, 1, a, 0), (0xC6, .rgdone x, 1, 0, 0), (0xC7, .pstat x, 2, a, b)],
      Executes e.1 x s g r tm → (g.ctr.gr < 63 → sends e.2.1 e.1 e.2.2.1 e.2.2.2.1 e.2.2.2.2) ∧ (g.ctr.gr = 63 → full e.2.1)) ∧
    (∀ e ∈ [(0xC1, Instr.rstq x, quads, b), (0xC1, .rstqBin x, 32, 0), (0xC2, .frgld x, 32, 0), (0xC4, .rgst x, 32, 0), (0xC5, .rgld x, 32, 0)],
      Executes e.1 x s g r tm →
        (a % 16 = 0 → a + e.2.2.1 ≤ tm.size → (g.ctr.gr < 63 → sends e.2.1 e.1 1 a e.2.2.2) ∧ (g.ctr.gr = 63 → full e.2.1)) ∧
        (a % 16 ≠ 0 ∨ tm.size < a + e.2.2.1 →
          ∃ t, exec e.2.1 s = .next t ∧ (t.asSlot tm.part tm.slot).torn = true ∧ t.mem = s.mem ∧ t.harvest = s.harvest))

/-- The one outstanding issue of a group, which nothing has answered yet, with its destination of `k` registers. -/
def Awaits (g : Group) (id : Nat) (c : Ctr) (lanes : List Nat) (d : Dst) (k : Nat) : Prop :=
  lanes.Nodup ∧ lanes ≠ [] ∧ (d = .none ∨ (∃ n, d = .v n ∧ n.toNat + k ≤ 256) ∨ ∃ n, d = .g n ∧ n.toNat + k ≤ 64) ∧
  ∃ i, g.issues = [i] ∧ i.id = id ∧ i.ctr = some c ∧ i.dst = d ∧ i.regs = k ∧ i.ext = .zero ∧ i.top = lanes.getLastD 0 ∧
    i.lanes = lanes.map (fun l => (l, {})) ∧ i.wait = none ∧ i.failed = none ∧ i.bad = none ∧ i.whole = false

/-- A graphics command takes effect: it has been admitted, no command of its group stands before it, the accesses before it are
done, its group waits for it alone, and the event queue has room. -/
structure GfxReady (s : State) (p idx : Nat) (c : GfxCmd) (g : Group) (tm : Team) (d : Dst) : Prop where
  cmd : (s.pan p).core.gfx[idx]? = some c
  admitted : c.admitted = true ∧ c.wait = 0 ∧ c.fin = none
  idle : s.wants = []
  first : ∀ y ∈ (s.pan p).core.gfx, y.gk = c.gk → c.issue ≤ y.issue
  start : s.engineMayStart p c.issue c.rc c.gk c.lanes = true
  room : (s.pan p).core.evqFull = false
  found : s.findGroup c.gk = some (p, c.slot, g, tm) ∧ s.group p c.slot = some g
  issue : Awaits g c.issue .gr c.lanes d (if c.opc = 0xC7 then 2 else 1)
  alive : ∃ e ∈ g.th, e.2.st ≠ .exited
  tables : tSorted s.streams = true ∧ ∀ j, tSorted (s.stream j).chains = true

/-- The command has completed: GR has fallen, D holds `v` in every active thread, or what it held where there is none, and a record
is posted where the status is not 0 (R305, R314). -/
def GfxDone (s t : State) (p idx : Nat) (c : GfxCmd) (g : Group) (d : Dst) (v : Option Nat) (status : Nat) : Prop :=
  let k := if c.opc = 0xC7 then 2 else 1
  exec (.graphicsCommandComplete p idx) s = .next t ∧ (t.pan p).core.gfx = (s.pan p).core.gfx.eraseIdx idx ∧
  (status = 0 → (t.pan p).core.evq.recs = (s.pan p).core.evq.recs) ∧
  (status ≠ 0 → c.team < 8 → c.slot < 136 → ∃ e, (t.pan p).core.evq.recs = (s.pan p).core.evq.recs ++ [e] ∧ e.length = 32 ∧
    bitsOf (ofBytes e) 28 4 = 3 ∧ bitsOf (ofBytes e) 24 4 = status ∧ bitsOf (ofBytes e) 20 4 = c.opc - 0xC0 ∧
    bitsOf (ofBytes e) 15 3 = c.team ∧ bitsOf (ofBytes e) 7 8 = c.slot ∧ bitsOf (ofBytes e) 32 32 = 0) ∧
  ∃ h, t.group p c.slot = some h ∧ h.ctr = g.ctr.mod .gr (· - 1) ∧ h.issues = [] ∧ h.ge &&& marksG d k = 0 ∧
    ∀ l ∈ c.lanes, ∀ a, g.thread l = some a → a.st ≠ .exited → ∃ u, h.thread l = some u ∧
      dstNat h u k d = (v.map (cut d k)).getD (dstNat g a k d) ∧ u.ve &&& marksV d k = 0 ∧ u.pe &&& marksP d = 0

/-- The chain that a team holds. -/
structure TeamChain (s : State) (k : GKey) (i g : Nat) (ch : Chain) : Prop where
  chain : tget (s.stream i).chains g = some ch
  held : ch.st = .claimed ∧ ch.team = k.team_
  only : ∀ j n c, tget (s.stream j).chains n = some c → c.st = .claimed → c.team = k.team_ → j = i ∧ n = g

def NoTeamChain (s : State) (k : GKey) : Prop := ∀ j n c, tget (s.stream j).chains n = some c → c.st = .claimed → c.team ≠ k.team_

/-- The chain that an RGST writes for: its team's, or, for the render area, one that has been killed since the RGST was issued, whose
writes still stand (R301). -/
def ServesFor (s : State) (c : GfxCmd) (area i n : Nat) : Prop :=
  let late (z : Chain) : Prop := z.st = .ended ∧ z.team = c.gk.team_ ∧ ∃ m, z.killed = some m ∧ c.issue < m
  (∃ ch, TeamChain s c.gk i n ch) ∨
    (area = 0 ∧ NoTeamChain s c.gk ∧ (∃ z, tget (s.stream i).chains n = some z ∧ late z) ∧
      ∀ j m z, tget (s.stream j).chains m = some z → late z → j = i ∧ m = n)

/-- Every group of a team reads %dline and %rung so (R307, R312). -/
def TeamReads (t : State) (k : GKey) (dline rung : Nat) : Prop :=
  ∀ p q h tm, t.group p q = some h → tget (t.pan p).core.teams h.team = some tm → gkeyOf tm 0 = k.team_ →
    h.dline = BitVec.ofNat 64 dline ∧ h.rung = rung

/-- A stream is as it was but for its chains, or for one of them. -/
def StreamKept (s t : State) (i g : Nat) (ch : Chain) : Prop :=
  t.stream i = { s.stream i with chains := (t.stream i).chains } ∧ tget (t.stream i).chains g = some ch ∧
  (∀ n, n ≠ g → tget (t.stream i).chains n = tget (s.stream i).chains n) ∧ ∀ j, j ≠ i → t.stream j = s.stream j

/-! A primitive record of 64 bytes (R297), its coordinates as exact numbers. -/

def primField (bs : List Byte) (o n : Nat) : Nat := ofBytes ((bs.drop o).take n)
def primX (bs : List Byte) (v : Nat) : ℚ := ratOf (xr (primField bs (12 * v) 4))
def primY (bs : List Byte) (v : Nat) : ℚ := ratOf (xr (primField bs (12 * v + 4) 4))
def primZ (bs : List Byte) (v : Nat) : ℚ := ratOf (xr (primField bs (12 * v + 8) 4))

/-- Twice the signed area, positive where the vertices go clockwise as displayed. -/
def primArea (bs : List Byte) : ℚ :=
  (primX bs 1 - primX bs 0) * (primY bs 2 - primY bs 0) - (primX bs 2 - primX bs 0) * (primY bs 1 - primY bs 0)

/-- The bounding box meets rows `a` to `b − 1` of a frame `w` columns wide (its edges DESIGN CHOICE: log 46). -/
def primMeets (bs : List Byte) (w a b : Nat) : Bool :=
  ([0, 1, 2].any fun v => decide (0 ≤ primX bs v)) && ([0, 1, 2].any fun v => decide (primX bs v < w)) &&
  ([0, 1, 2].any fun v => decide ((a : ℚ) ≤ primY bs v)) && [0, 1, 2].any fun v => decide (primY bs v < b)

/-- Early culling (R297) in a frame of `w` columns and `h` rows. -/
def earlyCulled (bs : List Byte) (w h : Nat) : Bool :=
  let cull := primField bs 52 1
  ((List.range 9).any fun i => (xr (primField bs (4 * i) 4)).isNan || (xr (primField bs (4 * i) 4)).isInf) || primArea bs == 0 ||
  cull % 4 == 3 || (cull % 4 == 1 && decide (0 < primArea bs)) || (cull % 4 == 2 && decide (primArea bs < 0)) || !primMeets bs w 0 h ||
  cull / 4 != 0 || (bs.drop 53).any fun b => b != 0

/-- The edge function from vertex `a` to vertex `b` at a point, positive inside. -/
def edgeAt (bs : List Byte) (a b : Nat) (px py : ℚ) : ℚ :=
  (if primArea bs < 0 then -1 else 1) *
    ((primX bs b - primX bs a) * (py - primY bs a) - (primY bs b - primY bs a) * (px - primX bs a))

/-- A primitive covers the centre of a pixel by the top-left rule (R298). -/
def primCovers (bs : List Byte) (i j : Nat) : Bool :=
  [(0, 1), (1, 2), (2, 0)].all fun e =>
    let v := edgeAt bs e.1 e.2 (i + 1 / 2) (j + 1 / 2)
    let s : ℚ := if primArea bs < 0 then -1 else 1
    let dx := s * (primX bs e.2 - primX bs e.1)
    let dy := s * (primY bs e.2 - primY bs e.1)
    decide (0 < v) || (v == 0 && (decide (dy < 0) || (dy == 0 && decide (0 < dx))))

/-- The value at a point of what stands at the vertices, exactly. -/
def baryAt (bs : List Byte) (f : Nat → ℚ) (px py : ℚ) : ℚ :=
  (edgeAt bs 1 2 px py * f 0 + edgeAt bs 2 0 px py * f 1 + edgeAt bs 0 1 px py * f 2) / (if primArea bs < 0 then -primArea bs else primArea bs)

/-- The depth at a pixel's centre, rounded to binary32 (R298). -/
def primDepth (bs : List Byte) (i j : Nat) : FVal := xr (roundF f32 (ofRat false (baryAt bs (primZ bs) (i + 1 / 2) (j + 1 / 2))) 0).code

/-- The owner of a pixel among primitives in bin order: the first of the least depth (R298). -/
def Owns (ps : List (Nat × List Byte)) (m i j : Nat) : Prop :=
  ∃ e, ps[m]? = some e ∧ primCovers e.2 i j = true ∧
    ∀ m' e', ps[m']? = some e' → primCovers e'.2 i j = true →
      xLt (primDepth e'.2 i j) (primDepth e.2 i j) = false ∧ (m' < m → xLt (primDepth e.2 i j) (primDepth e'.2 i j) = true)

/-- R298: the quads of a strip. -/
def QuadsOf (x : Stream) (c : Nat) (ps : List (Nat × List Byte)) (qs : List Quad) : Prop :=
  let rows := Nat.min x.rh (x.rows - c * x.rh)
  (∀ m e i j, ps[m]? = some e → i < x.rw → j < rows → Owns ps m i (c * x.rh + j) →
    ∃ q ∈ qs, q.tile = i / 32 ∧ q.qx = i / 2 * 2 ∧ q.qy = j / 2 * 2 ∧ q.cov.testBit (i % 2 + 2 * (j % 2)) = true ∧ q.bidx = e.1) ∧
  (∀ q ∈ qs, q.cov ≠ 0 ∧ q.cov < 16 ∧ q.tile = q.qx / 32 ∧ q.qx % 2 = 0 ∧ q.qy % 2 = 0 ∧
    ∀ b, q.cov.testBit b = true → q.qx + b % 2 < x.rw ∧ q.qy + b / 2 < rows ∧
      ∃ m e, ps[m]? = some e ∧ e.1 = q.bidx ∧ Owns ps m (q.qx + b % 2) (c * x.rh + q.qy + b / 2) ∧ q.primid = primField e.2 36 4) ∧
  qs.Pairwise fun a b => (a.tile < b.tile ∨ (a.tile = b.tile ∧ (a.qy < b.qy ∨ (a.qy = b.qy ∧ a.qx ≤ b.qx)))) ∧
    ¬ (a.qx = b.qx ∧ a.qy = b.qy ∧ a.bidx = b.bidx)

/-- R298 to R301, R304, R307 to R314: what each graphics command does when it takes effect, where its scratchpad is good and nothing makes
its accesses to memory wait; one whose block is uncorrectable ends with DATA. A batch is never said to be the longest that fits, a record's
STATUS is the code of D (DEDUCED: log 44), and an RGDONE past its deadline is not spoken of. -/
def Obligations.GraphicsCommandsComplete : Prop :=
  (∀ (x : Stream) (c : Nat) (ps : List (Nat × List Byte)), (ps.map (·.1)).Nodup →
    (∀ e ∈ ps, e.2.length = 64 ∧ earlyCulled e.2 x.rw x.rows = false) →
    QuadsOf x c ps (x.rasterStrip c (ps.map fun e => (e.1, primOf e.2)))) ∧
  ∀ (s : State) (p idx : Nat) (c : GfxCmd) (g : Group) (tm : Team) (d : Dst), GfxReady s p idx c g tm d →
    let scratch := (s.pan p).core.scratch
    let f (o n : Nat) : Nat := mnat scratch (c.base + c.a + o) n
    let same (t : State) : Prop := t.mem = s.mem ∧ t.streams = s.streams ∧ t.harvest = s.harvest ∧ (t.pan p).core.scratch = scratch
    let ends (v status : Nat) : Prop := ∃ t, GfxDone s t p idx c g d (some v) status ∧ same t
    (∀ o, o < 32 → c.base + c.a + o ∈ (s.pan p).spoilt → c.opc ∈ [0xC2, 0xC4, 0xC5] → ∃ t, GfxDone s t p idx c g d none 5 ∧ same t) ∧
    ((s.pan p).spoilt = [] →
    (c.opc = 0xC0 → (s.asSlot c.part c.asSlot).torn = false →
      let x := s.stream c.a
      let mine := c.a < 16 ∧ x.en = true ∧ x.part = c.part
      (¬ mine → ends (1 * 2 ^ 28) 1) ∧
      (mine → ¬ NoTeamChain s c.gk → ends (2 * 2 ^ 28) 2) ∧
      (mine → NoTeamChain s c.gk → c.cls ≠ 3 → ends (3 * 2 ^ 28) 3) ∧
      (mine → NoTeamChain s c.gk → c.cls = 3 →
        (∀ n ch, tget x.chains n = some ch → ch.st ≠ .claimable) ∨
          (∀ u, u < 8 → ∃ j m z, tget (s.stream j).chains m = some z ∧ z.st = .claimed ∧ z.unit = u) →
        exec (.graphicsCommandComplete p idx) s = .next s) ∧
      (mine → NoTeamChain s c.gk → c.cls = 3 → ∀ n ch u, tget x.chains n = some ch → ch.st = .claimable →
        (∀ m z, tget x.chains m = some z → z.st = .claimable → n ≤ m) →
        u < 8 → (∀ j m z, tget (s.stream j).chains m = some z → z.st = .claimed → z.unit ≠ u) →
        (∀ v, v < u → ∃ j m z, tget (s.stream j).chains m = some z ∧ z.st = .claimed ∧ z.unit = v) →
        let rung := if ch.again then ch.start else x.sr
        ∃ t, GfxDone s t p idx c g d (some (x.chainIn n % 2 ^ 12 * 2 ^ 16 + x.frameOf n % 2 ^ 16)) 0 ∧
          StreamKept s t c.a n { ch with st := .claimed, team := c.gk.team_, rung := rung, start := rung, steps := 0, done := 0, weight := 0,
                                         t0 := s.clock.nowNs, unit := u, quads := none, shadow := [0, 0, 0, 0, 0] } ∧
          TeamReads t c.gk (timeCode (x.deadline n)) rung ∧ t.mem = s.mem ∧ t.harvest = s.harvest)) ∧
    (c.opc = 0xC1 → c.fn = 0 →
      (c.b < 32 ∨ 256 < c.b → ends (3 * 2 ^ 30) 3) ∧
      (32 ≤ c.b → c.b ≤ 256 → (NoTeamChain s c.gk → ends (2 * 2 ^ 30) 2) ∧
        ∀ i n ch, TeamChain s c.gk i n ch →
        let x := s.stream i
        let fr := x.frameOf n
        let j := x.chainIn n
        (j = x.n → ends (1 * 2 ^ 30) 1) ∧
        (j ≠ x.n → (∀ qs, ch.quads = some qs →
          (qs = [] → ∃ t, GfxDone s t p idx c g d (some (1 * 2 ^ 30)) 1 ∧ t.mem = s.mem ∧ (t.pan p).core.scratch = scratch) ∧
          (∀ q rest, qs = q :: rest → q.tile < 2 ^ 14 → (∀ e ∈ qs, e.cov < 256) →
            (qs.Pairwise fun a b => a.tile ≤ b.tile ∧ (a.tile = b.tile → a.qy ≤ b.qy)) →
            ∃ t k, 1 ≤ k ∧ k ≤ c.b ∧ k ≤ qs.length ∧ (∀ e ∈ qs.take k, e.tile = q.tile) ∧
              ((qs.filter fun e => e.tile == q.tile && e.qy / 4 == q.qy / 4).length ≤ c.b →
                ∀ e ∈ qs.drop k, e.tile = q.tile → ∀ e' ∈ qs.take k, e'.qy / 4 ≠ e.qy / 4) ∧
              GfxDone s t p idx c g d (some (q.tile * 2 ^ 16 + k)) 0 ∧ StreamKept s t i n { ch with quads := some (qs.drop k) } ∧
              t.mem = s.mem ∧ t.harvest = s.harvest ∧
              (∀ m e, m < k → qs[m]? = some e →
                let at_ (o z : Nat) : Nat := mnat (t.pan p).core.scratch (c.base + c.a + 16 * m + o) z
                at_ 0 2 = e.qx % 2 ^ 16 ∧ at_ 2 2 = e.qy % 2 ^ 16 ∧ at_ 4 1 = e.cov ∧ at_ 5 3 = 0 ∧ at_ 8 4 = e.primid % 2 ^ 32 ∧
                at_ 12 4 = e.bidx % 2 ^ 32) ∧
              ∀ a, (a < c.base + c.a ∨ c.base + c.a + 16 * k ≤ a) → mget (t.pan p).core.scratch a = mget scratch a)) ∧
          (ch.quads = none → ∀ (b : Binned) (ps : List (Nat × List Byte)), tget x.bins (fr % 2) = some b → b.frame = fr % 2 ^ 32 → b.counts.getD j 0 = ps.length →
            Unhindered s p (3 * ps.length) 0 → (∀ m e, ps[m]? = some e →
              (∃ le, Spans s p x.part x.slot (x.binAt fr j m) 4 le false ∧ ofBytes (spanBytes s (x.binAt fr j m) 4 le) = e.1) ∧
              ∃ le, Spans s p x.part x.slot (b.primva + 64 * e.1) 64 le false ∧ spanBytes s (b.primva + 64 * e.1) 64 le = e.2) →
            let qs := x.rasterStrip j (ps.map fun e => (e.1, primOf e.2))
            let sh (m : Nat) : Nat := ch.shadow.getD m 0
            let seen := (qs.map fun q => ((List.range 4).filter fun b => q.cov.testBit b).length).sum
            let drawn : Chain :=
              { ch with quads := (some qs), shadow := [sh 0 + ps.length, sh 1 + ps.length, sh 2 + seen, sh 3 + qs.length, sh 4] }
            let s1 := s.modStream i fun y => { y with chains := tput y.chains n drawn }
            ∃ t t1, exec (.graphicsCommandComplete p idx) s = .next t ∧ exec (.graphicsCommandComplete p idx) s1 = .next t1 ∧
              t.mem = s.mem ∧ (t.stream i).chains = (t1.stream i).chains ∧ (t.pan p).core = (t1.pan p).core)))) ∧
    (c.opc = 0xC1 → c.fn = 1 →
      let fr := f 0 4
      let i := f 4 1
      let x := s.stream i
      let primva := f 8 8
      let np := f 16 4
      let fits := f 5 3 = 0 ∧ f 20 12 = 0 ∧ primva % 8 = 0 ∧ i < 16 ∧ x.en = true ∧ x.part = c.part
      (¬ fits → ends (1 * 2 ^ 28) 1) ∧
      (fits → 2 ≤ fr → (∃ k, k ≤ x.n ∧ x.ended ((fr - 2) * (x.n + 1) + k) = false) → exec (.graphicsCommandComplete p idx) s = .next s) ∧
      (fits → (2 ≤ fr → ∀ k, k ≤ x.n → x.ended ((fr - 2) * (x.n + 1) + k) = true) → NoWindows s →
        ∀ le, Spans s p x.part x.slot primva (64 * np) le false →
        let prim (k : Nat) : List Byte := spanBytes s (primva + 64 * k) 64 le
        let kept := (List.range np).filter fun k => !earlyCulled (prim k) x.rw x.rows
        let full (j : Nat) : List Nat := kept.filter fun k => primMeets (prim k) x.rw (j * x.rh) (Nat.min ((j + 1) * x.rh) x.rows)
        let put (j m : Nat) : Prop := j < x.n ∧ m < Nat.min x.bincap (full j).length
        let puts := ((List.range x.n).map fun j => Nat.min x.bincap (full j).length).sum
        Unhindered s p (2 * np + puts) puts →
        ∀ pa : Nat → Nat → Nat, (∀ j m, put j m → ∃ e, addressOk s x.part x.slot (x.binAt fr j m) = true ∧
            tlbFind (s.pan p).l2tlb (asid x.part x.slot) (x.binAt fr j m) = some e ∧ pteW e = true ∧ pteCodec e = 0 ∧
            pa j m = leafPa e (x.binAt fr j m) ∧ isEndpoint (pa j m) = false ∧ s.badLine (pa j m) = false) →
          (∀ j m j' m', put j m → put j' m' → pa j m < pa j' m' + 4 → pa j' m' < pa j m + 4 → j = j' ∧ m = m') →
          (∀ j m o, put j m → o < 64 * np → leafPa le (primva + o) < pa j m ∨ pa j m + 4 ≤ leafPa le (primva + o)) →
          (∀ j m, put j m → pa j m % 4 = 0) →
        ∃ t, GfxDone s t p idx c g d (some (Nat.min kept.length (2 ^ 28 - 1))) 0 ∧
          (∀ j m, put j m → mnat t.mem (pa j m) 4 = (full j).getD m 0) ∧
          (∀ a, (∀ j m, put j m → a < pa j m ∨ pa j m + 4 ≤ a) → mget t.mem a = mget s.mem a) ∧
          (let counts := (List.range x.n).map fun j => Nat.min x.bincap (full j).length
           tget (t.stream i).bins (fr % 2) = some { frame := fr, primva := primva, counts := counts }) ∧
          (∀ e ∈ [(0, np), (1, np - kept.length), (2, ((List.range x.n).map fun j => (full j).length - x.bincap).sum)],
            tgetD (t.stream i).ctrs e.1 0 = (tgetD x.ctrs e.1 0 + e.2) % 2 ^ 64) ∧
          (∀ n, 3 ≤ n → tget (t.stream i).ctrs n = tget x.ctrs n) ∧ (t.stream i).chains = x.chains ∧ ∀ j, j ≠ i → t.stream j = s.stream j)) ∧
    (c.opc = 0xC2 →
      let qoff := f 0 4
      let nq := f 4 2
      let na := f 6 1
      let fmt := f 7 1
      let toff := f 8 4
      let pitch := f 12 2
      let moff := f 16 4
      let sz := if fmt = 0 then 4 else 2
      let fits := 1 ≤ nq ∧ nq ≤ 256 ∧ 1 ≤ na ∧ na ≤ 16 ∧ fmt < 2 ∧ pitch % 16 = 0 ∧ f 14 2 = 0 ∧ f 20 12 = 0 ∧ qoff + 16 * nq ≤ c.size
      (NoTeamChain s c.gk ∨ ¬ fits → ends 0xFFFFFFFF 1) ∧
      (fits → ∀ i n ch b, TeamChain s c.gk i n ch →
        let x := s.stream i
        let fr := x.frameOf n
        let strip := x.chainIn n
        tget x.bins (fr % 2) = some b → b.frame = fr % 2 ^ 32 → ch.rung ≤ 4 →
        let sx := rungX ch.rung
        let sy := rungY ch.rung
        let q (m o z : Nat) : Nat := mnat scratch (c.base + qoff + 16 * m + o) z
        let owned (row col own : Nat) : Prop := ∃ m bit, m < nq ∧ bit < 4 ∧ (q m 4 1).testBit bit = true ∧ row = q m 2 2 + bit / 2 ∧
          col = q m 0 2 + bit % 2 ∧ own = q m 12 4
        (∀ row col o o', owned row col o → owned row col o' → o = o') →
        ∀ ks : List Cell,
          (ks.Pairwise fun a b => a.row < b.row ∨ (a.row = b.row ∧ a.col < b.col)) →
          (∀ row col o, owned row col o → ∃ k ∈ ks, k.row = row / sy ∧ k.col = col / sx) →
          (∀ k ∈ ks, k.mask < 2 ^ (sx * sy) ∧ k.mask ≠ 0 ∧
            (∀ bit, bit < sx * sy → (k.mask.testBit bit = true ↔ ∃ o, owned (k.row * sy + bit / sx) (k.col * sx + bit % sx) o)) ∧
            ∃ bit, k.mask.testBit bit = true ∧ (∀ z, z < bit → k.mask.testBit z = false) ∧
              owned (k.row * sy + bit / sx) (k.col * sx + bit % sx) k.bidx) →
          let size := ks.length
          (moff + 8 * size ≤ c.size → (size = 0 ∨ toff + (size - 1) * pitch + na * sz ≤ c.size) →
            Unhindered s p (5 * size) 0 → ∀ (prim attr : Nat → List Byte), (∀ k ∈ ks,
              (∃ le, Spans s p x.part x.slot (b.primva + 64 * k.bidx) 64 le false ∧ spanBytes s (b.primva + 64 * k.bidx) 64 le = prim k.bidx) ∧
              ∃ le, Spans s p x.part x.slot (primField (prim k.bidx) 44 8) (12 * na) le false ∧
                spanBytes s (primField (prim k.bidx) 44 8) (12 * na) le = attr k.bidx) →
            ∃ t, GfxDone s t p idx c g d (some size) 0 ∧
              StreamKept s t i n { ch with shadow := listMod ch.shadow 4 (· + size) } ∧ t.mem = s.mem ∧ t.harvest = s.harvest ∧
              (na * sz ≤ pitch → toff + size * pitch ≤ moff ∨ moff + 8 * size ≤ toff →
                (∀ m k, ks[m]? = some k →
                  (k.row < 2 ^ 16 → k.col < 2 ^ 16 → mnat (t.pan p).core.scratch (c.base + moff + 8 * m) 8 =
                    k.col * 2 ^ 48 + k.row * 2 ^ 32 + k.mask * 2 ^ 16 + ch.rung * 2 ^ 8) ∧
                  ∀ a, a < na →
                    let at_ (v : Nat) : FVal := xr (primField (attr k.bidx) (4 * (v * na + a)) 4)
                    let val := baryAt (prim k.bidx) (fun v => ratOf (at_ v)) ((k.col + 1 / 2) * sx) (strip * x.rh + (k.row + 1 / 2) * sy)
                    earlyCulled (prim k.bidx) x.rw x.rows = false → (∀ v, v < 3 → (at_ v).isNan = false ∧ (at_ v).isInf = false) → val ≠ 0 →
                    mnat (t.pan p).core.scratch (c.base + toff + m * pitch + a * sz) sz =
                      (roundF (if fmt = 0 then f32 else bf16) (ofRat false val) 0).code) ∧
                ∀ a, (∀ m, m < size → a < c.base + moff + 8 * m ∨ c.base + moff + 8 * m + 8 ≤ a) →
                  (∀ m, m < size → a < c.base + toff + m * pitch ∨ c.base + toff + m * pitch + na * sz ≤ a) →
                  mget (t.pan p).core.scratch a = mget scratch a)) ∧
          (c.size < moff + 8 * size ∨ (size ≠ 0 ∧ c.size < toff + (size - 1) * pitch + na * sz) → ends 0xFFFFFFFF 1))) ∧
    (c.opc = 0xC3 →
      (NoTeamChain s c.gk → ends (2 ^ 31) 0) ∧
      ∀ i n ch, TeamChain s c.gk i n ch → ch.t0 ≤ s.clock.nowNs → ch.rung ≤ 4 →
        let x := s.stream i
        let nt := (x.rw + 31) / 32
        let wt := [16, 8, 4, 2, 1].getD ch.rung 0
        let dw := ch.weight + c.a * wt
        let done := Nat.min (ch.done + c.a) nt
        let pred : ℤ := s.clock.nowNs + ⌈(((nt - done) * wt * (s.clock.nowNs - ch.t0) : ℕ) : ℚ) / dw⌉
        let down := (∃ j m : ℕ, 1 ≤ j ∧ j ≤ 7 ∧ m = (j * nt + 7) / 8 ∧ ch.done < m ∧ m ≤ done) ∧ 0 < dw ∧
          x.deadline n - (x.ps / 20 : ℕ) < pred ∧ ch.steps < 2 ∧ ch.rung < 4
        (down → ∃ t, GfxDone s t p idx c g d (some (ch.rung + 1)) 0 ∧
          StreamKept s t i n { ch with weight := dw, done := done, rung := ch.rung + 1, steps := ch.steps + 1 } ∧
          TeamReads t c.gk (timeCode (x.deadline n)) (ch.rung + 1) ∧ t.mem = s.mem ∧ t.harvest = s.harvest) ∧
        (¬ down → ∃ t, GfxDone s t p idx c g d (some ch.rung) 0 ∧ StreamKept s t i n { ch with weight := dw, done := done } ∧
          t.mem = s.mem ∧ t.harvest = s.harvest)) ∧
    (c.opc = 0xC4 ∨ c.opc = 0xC5 →
      let soff := f 0 4
      let pitch := f 4 2
      let area := f 6 1
      let mode := f 7 1
      let row0 := sval (f 8 4) 32
      let col0 := f 12 4
      let nrows := f 16 2
      let ncols := f 18 2
      let px := if area = 0 then 8 else 2
      let block (i : Nat) : Prop := pitch % 16 = 0 ∧ area ≤ 3 ∧ f 28 1 = i ∧ f 29 3 = 0 ∧ 1 ≤ nrows ∧ nrows ≤ 256 ∧ 1 ≤ ncols ∧ ncols ≤ 8192
      let rowsFit := soff + (nrows - 1) * pitch + ncols * px ≤ c.size
      (NoTeamChain s c.gk → c.opc = 0xC5 ∨ area ≠ 0 ∨ (∀ j m z, tget (s.stream j).chains m = some z → z.st = .ended →
        z.team = c.gk.team_ → ∀ y, z.killed = some y → y ≤ c.issue) → ends 2 2) ∧
      ∀ i n, ServesFor s c (if c.opc = 0xC5 then 1 else area) i n →
        let x := s.stream i
        let k := x.chainIn n
        let fr := x.frameOf n
        (c.opc = 0xC4 →
          let w := (x.areaDim area).1
          let j := if area = 0 then k else k - 1
          let lo := j * (x.areaDim area).2.2
          let hi := Nat.min (lo + (x.areaDim area).2.2) (x.areaDim area).2.1
          let slot := x.slotAt area (fr * x.n + j)
          let own := if area = 0 then k ≠ x.n else k ≠ 0
          let stored (t : State) : Prop := GfxDone s t p idx c g d (some 0) 0 ∧ t.streams = s.streams ∧ t.mem = s.mem ∧ (t.pan p).core.scratch = scratch
          (mode = 0 →
            let fits := block i ∧ own ∧ rowsFit ∧ (lo : Int) ≤ row0 ∧ row0 + nrows ≤ hi ∧ col0 + ncols ≤ w
            let place (r q : Nat) : Nat := slot + ((row0.toNat + r - lo) * w + col0 + q) * px
            (¬ fits → ends 1 1) ∧
            (fits → x.slotFree fr j area = false → exec (.graphicsCommandComplete p idx) s = .next s) ∧
            (fits → x.slotFree fr j area = true → ∃ t, stored t ∧
              (∀ r q o, r < nrows → q < ncols → o < px →
                mget t.harvest (place r q + o) = mget scratch (c.base + soff + r * pitch + q * px + o)) ∧
              ∀ a, (∀ r q, r < nrows → q < ncols → a < place r q ∨ place r q + px ≤ a) → mget t.harvest a = mget s.harvest a)) ∧
          (mode = 1 →
            let moff := f 20 4
            let nc := f 24 4
            let word (m : Nat) : Nat := mnat scratch (c.base + moff + 8 * m) 8
            let sx (m : Nat) : Nat := rungX (bitsOf (word m) 8 8)
            let sy (m : Nat) : Nat := rungY (bitsOf (word m) 8 8)
            let owns (m b : Nat) : Prop := m < nc ∧ b < 16 ∧ (word m).testBit (16 + b) = true
            let row (m b : Nat) : Nat := bitsOf (word m) 32 16 * sy m + b / sx m
            let col (m b : Nat) : Nat := bitsOf (word m) 48 16 * sx m + b % sx m
            let fits := block i ∧ area = 0 ∧ k ≠ x.n ∧ moff + 8 * nc ≤ c.size ∧ (nc = 0 ∨ soff + (nc - 1) * pitch + 8 ≤ c.size) ∧
              ∀ m b, owns m b → bitsOf (word m) 8 8 ≤ 4 ∧ b < sx m * sy m ∧ row m b < hi - lo ∧ col m b < w
            let place (m b : Nat) : Nat := slot + (row m b * w + col m b) * 8
            (¬ fits → ends 1 1) ∧
            (fits → x.slotFree fr j area = false → exec (.graphicsCommandComplete p idx) s = .next s) ∧
            (fits → x.slotFree fr j area = true → ∃ t, stored t ∧
              (∀ m b o, owns m b → o < 8 → (∀ m' b', m < m' → owns m' b' → place m' b' ≠ place m b) →
                mget t.harvest (place m b + o) = mget scratch (c.base + soff + m * pitch + o)) ∧
              ∀ a, (∀ m b, owns m b → a < place m b ∨ place m b + 8 ≤ a) → mget t.harvest a = mget s.harvest a)) ∧
          (2 ≤ mode → ends 1 1)) ∧
        (c.opc = 0xC5 →
          let row (r : Nat) : Nat := (max 0 (min (row0 + (r : Int)) ((x.rows : Int) - 1))).toNat
          let col (q : Nat) : Nat := Nat.min (col0 + q) (x.rw - 1)
          let strip (r : Nat) : Nat := row r / x.rh
          let fits := block i ∧ area = 0 ∧ mode = 0 ∧ rowsFit ∧ ∀ r, r < nrows → strip r ≤ k ∧ k ≤ strip r + 2
          let waits := ∃ r, r < nrows ∧ strip r < k ∧ x.ended (fr * (x.n + 1) + strip r) = false
          (¬ fits → ends 1 1) ∧
          (fits → waits → exec (.graphicsCommandComplete p idx) s = .next s) ∧
          (fits → ¬ waits → ∃ t, GfxDone s t p idx c g d (some 0) 0 ∧ t.streams = s.streams ∧ t.mem = s.mem ∧
            t.harvest = s.harvest ∧
            (∀ r q o, r < nrows → q < ncols → o < 8 →
              (∀ r', r < r' → r' < nrows → r * pitch + q * 8 + o < r' * pitch ∨ r' * pitch + ncols * 8 ≤ r * pitch + q * 8 + o) → mget (t.pan p).core.scratch (c.base + soff + r * pitch + q * 8 + o) =
              mget s.harvest (x.slotAt 0 (fr * x.n + strip r) + (row r % x.rh * x.rw + col q) * 8 + o)) ∧
            ∀ a, (∀ r, r < nrows → a < c.base + soff + r * pitch ∨ c.base + soff + r * pitch + ncols * 8 ≤ a) →
              mget (t.pan p).core.scratch a = mget scratch a))) ∧
    (c.opc = 0xC6 →
      let earlier := ∃ y ∈ (s.pan p).core.gfx, y.gk.team_ = c.gk.team_ ∧ y.issue < c.issue
      (earlier → exec (.graphicsCommandComplete p idx) s = .next s) ∧
      (¬ earlier →
        (NoTeamChain s c.gk → (∀ j n z, tget (s.stream j).chains n = some z → z.st = .ended → z.team ≠ c.gk.team_) →
          let told := ∃ d ∈ s.drains, ∃ e ∈ d.x.chains, e.2.st = .ended ∧ e.2.team = c.gk.team_
          (¬ told → ends 2 2) ∧
          (told → ∃ t, GfxDone s t p idx c g d (some 1) 1 ∧ t.streams = s.streams ∧ t.mem = s.mem ∧ t.harvest = s.harvest)) ∧
        (NoTeamChain s c.gk → ∀ i n z, tget (s.stream i).chains n = some z → z.st = .ended → z.team = c.gk.team_ →
          (∀ j m y, tget (s.stream j).chains m = some y → y.st = .ended → y.team = c.gk.team_ → j = i ∧ m = n) →
          ∃ t, GfxDone s t p idx c g d (some 1) 1 ∧ StreamKept s t i n { z with team := .nobody } ∧ t.mem = s.mem ∧ t.harvest = s.harvest) ∧
        ∀ i n ch, TeamChain s c.gk i n ch → (s.clock.nowNs : Int) ≤ (s.stream i).deadline n → ch.shadow.length = 5 →
          let x := s.stream i
          let k := x.chainIn n
          let num := x.frameOf n * x.n + k - 1
          let sr := if (x.ps : Int) ≤ 4 * (x.deadline n - s.clock.nowNs) ∧ 0 < ch.rung then ch.rung - 1 else ch.rung
          ∃ t, GfxDone s t p idx c g d (some 0) 0 ∧ TeamReads t c.gk 0 0 ∧ t.mem = s.mem ∧ t.harvest = s.harvest ∧
            (∀ j, j ≠ i → t.stream j = s.stream j) ∧
            (let y := t.stream i
             y = { x with chains := y.chains, outs := y.outs, last := y.last, sr := y.sr, ctrs := y.ctrs } ∧ y.sr = sr ∧
             y.outs = x.outs ++ (if k = 0 then [] else [{ num := num }]) ∧ y.last = (if k = 0 then x.last else num % 2 ^ 32) ∧
             (∃ z, tget y.chains n = some z ∧ z.st = .ended) ∧ (∀ m, m ≠ n → tget y.chains m = tget x.chains m) ∧
             (∀ m, m < 5 → tgetD y.ctrs (3 + m) 0 = (tgetD x.ctrs (3 + m) 0 + ch.shadow.getD m 0) % 2 ^ 64) ∧
             tgetD y.ctrs 8 0 = (tgetD x.ctrs 8 0 + 1) % 2 ^ 64 ∧
             ∀ m, m < 3 ∨ 8 < m → tget y.ctrs m = tget x.ctrs m))) ∧
    (c.opc = 0xC7 →
      let x := s.stream c.a
      let mine := c.a < 16 ∧ x.part = c.part ∧ c.b < 12
      (¬ mine → ends 0 0) ∧
      (mine → ∃ t, GfxDone s t p idx c g d (some (tgetD x.ctrs c.b 0)) 0 ∧ t.mem = s.mem ∧ t.harvest = s.harvest ∧
        (c.fn ≠ 1 → t.streams = s.streams) ∧
        (c.fn = 1 → (∀ j, j ≠ c.a → t.stream j = s.stream j) ∧ (t.stream c.a).chains = x.chains ∧ tgetD (t.stream c.a).ctrs c.b 0 = 0 ∧
          ∀ m, m ≠ c.b → tget (t.stream c.a).ctrs m = tget x.ctrs m))))

/-! ## The front end -/

/-- Where a queue program goes on from word `pc` with its loops, each its first word, the word after its body, and its turns left
(R342). -/
def queueAfter (pc : Nat) : List (Nat × Nat × Nat) → Nat × List (Nat × Nat × Nat)
  | [] => (pc, [])
  | l :: r => if pc ≠ l.2.1 then (pc, l :: r) else if 1 < l.2.2 then (l.1, (l.1, l.2.1, l.2.2 - 1) :: r) else queueAfter pc r

/-- The front end can read a line at its bed at once (R86, R387, R418). -/
def FrontReads (s : State) (part line : Nat) : Prop := LineReadable s part line false 0 ∧ s.shut line 0 = false

/-- Nothing makes a write of the front end to the line of an address wait (R86, R90). -/
def FrontWrites (s : State) (pa : Nat) : Prop := s.mergeRoom (lineOf pa) false = true ∧ s.shut (lineOf pa) 0 = false

/-- The front end reaches a byte of a slot's space through a leaf that it may write, and nothing makes the access wait (R86, R350). -/
structure FrontReaches (s : State) (part slot va e : Nat) : Prop where
  ok : addressOk s part slot va = true
  leaf : ∃ lv, walk s part slot va = .leaf e lv
  rights : pteW e = true ∧ pteCodec e = 0 ∧ isEndpoint (leafPa e va) = false
  walks : ∀ l ∈ s.linesOfWalk none part slot va, FrontReads s part l
  room : FrontWrites s (leafPa e va)

/-- A bytecode goes on to the next word: it writes the register named, stages the effects given, and changes nothing else, but for the
retention state of a line where it reads memory. -/
def QueueGoes (s : State) (i : Instr) (d : Option (BitVec 4 × Word)) (e : List Staged) (reads : Bool := false) : Prop :=
  let q := s.actor.1
  let x := s.queue q
  ∃ t, exec i s = .next t ∧ t = { s with queues := t.queues, beds := if reads then t.beds else s.beds } ∧ (∀ j, j ≠ q → t.queue j = s.queue j) ∧
    let y := t.queue q
    y = { x with w := y.w, pc := (queueAfter (x.pc + 1) x.loops).1, loops := (queueAfter (x.pc + 1) x.loops).2, staged := x.staged ++ e } ∧
    ∀ n, tgetD y.w n 0 = match d with
      | some (k, v) => if n = k.toNat then v else tgetD x.w n 0
      | none => tgetD x.w n 0

/-- A queue halts (R339, R345): HALTD and QFAULT, no effect of its packet, its registers as at the packet's start, and a notice to the
host. -/
def QueueHalts (s t : State) (q code info : Nat) : Prop :=
  let x := s.queue q
  let y := t.queue q
  let f := code * 2 ^ 60 + info * 2 ^ 32 + x.rptr
  y.haltd = true ∧ y.fault = f ∧ y.rptr = x.rptr ∧ y.en = x.en ∧ (x.phase ≠ .applying → y.phase = .idle ∧ y.staged = []) ∧
  (x.phase = .running → y.w = x.saved) ∧ t.mem = s.mem ∧ t.grids = s.grids ∧ t.pool = s.pool ∧
  (∀ j, j ≠ q → t.queue j = s.queue j) ∧ ∃ c ∈ (t.conn x.part 0).sent, c.x = .notice (.queueFault q f)

/-- The queue waits and gives its interpreter up (R342, R344). -/
def QueueWaits (s : State) (i : Instr) (reads : Bool := false) : Prop :=
  let q := s.actor.1
  ∃ t, exec i s = .next t ∧ t = { s with queues := t.queues, beds := if reads then t.beds else s.beds } ∧ (∀ j, j ≠ q → t.queue j = s.queue j) ∧
    t.queue q = { s.queue q with waiting := true, interp := false }

/-- The address of Word(k, o) (R341). -/
def queueWord (x : Queue) (k o : Nat) : Nat :=
  if k = 0 then x.ring + o % (x.size * 64) / 4 * 4
  else bitsOf (tgetD x.wins k 0) 12 40 * 2 ^ 12 + o % 2 ^ (12 + bitsOf (tgetD x.wins k 0) 5 4) / 4 * 4

/-- R339, R341, R342, R344, R345: the bytecodes; LDW and WAITW where their line can be read at once. A branch out of a loop's body ends that loop (DEDUCED: log 47). -/
def Obligations.QueueBytecodes : Prop :=
  ∀ s : State,
    let q := s.actor.1
    let x := s.queue q
    x.phase = .running → x.interp = true → x.waiting = false → s.wants = [] →
    let reg (n : BitVec 4) : Word := tgetD x.w n.toNat 0
    let b (imm : Bool) (i : BitVec 16) : Word := if imm then i.signExtend 32 else tgetD x.w (i.toNat % 16) 0
    let place (w : BitVec 2) (a : BitVec 4) (i : BitVec 16) : Nat := queueWord x w.toNat (reg a + i.signExtend 32).toNat
    let owned (pa : Nat) : Prop := ownsRange s x.part pa 4 = true
    let puts (i : Instr) (d : BitVec 4) (v : Word) : Prop := QueueGoes s i (some (d, v)) []
    (∀ d a (w : BitVec 2) i,
      let pa := place w a i
      let past (k : Nat) : Prop := ∀ (j p : Nat) v, k < j → x.staged[j]? = some (Staged.store p v) → p ≠ pa
      (∀ (k : Nat) v, x.staged[k]? = some (Staged.store pa v) → past k → puts (.qLdw d a w i) d v) ∧
      ((∀ (j p : Nat) v, x.staged[j]? = some (Staged.store p v) → p ≠ pa) →
        FrontReads s x.part (lineOf pa) →
        (s.badLine pa = false → owned pa → QueueGoes s (.qLdw d a w i) (some (d, BitVec.ofNat 32 (mnat s.mem pa 4))) [] true) ∧
        (s.badLine pa = true → ∃ t, exec (.qLdw d a w i) s = .next t ∧ QueueHalts s t q 5 0))) ∧
    (∀ d a w i, QueueGoes s (.qStw d a w i) none [.store (place w a i) (reg d)] ∧
      QueueGoes s (.qSignal d a w i) none [.signal (place w a i) (reg d)]) ∧
    (∀ d (i : BitVec 16), puts (.qMovi d i) d (i.signExtend 32) ∧
      puts (.qMoviHi d i) d (BitVec.ofNat 32 (i.toNat * 2 ^ 16 + (reg d).toNat % 2 ^ 16))) ∧
    (∀ d a imm i,
      let u := b imm i
      puts (.qAdd d a imm i) d (reg a + u) ∧ puts (.qSub d a imm i) d (reg a - u) ∧ puts (.qAnd d a imm i) d (reg a &&& u) ∧
      puts (.qOr d a imm i) d (reg a ||| u) ∧
      puts (.qShl d a imm i) d (BitVec.ofNat 32 (if u.toNat < 32 then (reg a).toNat * 2 ^ u.toNat else 0)) ∧
      puts (.qShr d a imm i) d (BitVec.ofNat 32 (if u.toNat < 32 then (reg a).toNat / 2 ^ u.toNat else 0)) ∧
      puts (.qSel d a imm i) d (if reg d = 0 then u else reg a) ∧
      ∀ c : BitVec 2, ∃ v, puts (.qCmp d a imm c i) d v ∧ (v = 0 ∨ v = 1) ∧ (v = 1 ↔ match c.toNat with
        | 0 => reg a = u
        | 1 => reg a ≠ u
        | 2 => (reg a).toNat < u.toNat
        | _ => u.toNat ≤ (reg a).toNat)) ∧
    (∀ a (c : BitVec 2) (i : BitVec 16),
      let taken := c = 0 ∨ (c = 1 ∧ reg a ≠ 0) ∨ (c = 2 ∧ reg a = 0)
      (¬ taken → QueueGoes s (.qBr a c i) none []) ∧
      (taken → ∃ t, exec (.qBr a c i) s = .next t ∧ t = { s with queues := t.queues } ∧ (∀ j, j ≠ q → t.queue j = s.queue j) ∧
        ∃ k, t.queue q = { x with pc := ((x.pc : Int) + i.toInt).toNat, loops := x.loops.drop k } ∧ k ≤ x.loops.length ∧
          (∀ l ∈ x.loops.take k, ((x.pc : Int) + i.toInt).toNat < l.1 ∨ l.2.1 ≤ ((x.pc : Int) + i.toInt).toNat) ∧
          ∀ l ∈ (x.loops.drop k).head?, l.1 ≤ ((x.pc : Int) + i.toInt).toNat ∧ ((x.pc : Int) + i.toInt).toNat < l.2.1)) ∧
    (∀ (body : Byte) (n : BitVec 16), ∃ t, exec (.qLoop body n) s = .next t ∧ t = { s with queues := t.queues } ∧
      (∀ j, j ≠ q → t.queue j = s.queue j) ∧
      t.queue q = { x with pc := x.pc + 1, loops := (x.pc + 1, x.pc + 1 + body.toNat, n.toNat) :: x.loops }) ∧
    (s.grids.length + 2 ≤ 2 ^ 32 → ∀ d a w g, ∃ t id, exec (.qDispatch d a w g) s = .next t ∧ 0 < id ∧ id < 2 ^ 32 ∧
      s.grid x.part id = none ∧ t = { s with queues := t.queues, parts := t.parts } ∧ (∀ j, j ≠ q → t.queue j = s.queue j) ∧
      (∀ j, t.part j = { s.part j with nextGrid := (t.part j).nextGrid }) ∧
      let y := t.queue q
      y = { x with w := y.w, pc := (queueAfter (x.pc + 1) x.loops).1, loops := (queueAfter (x.pc + 1) x.loops).2
                   staged := x.staged ++ [.dispatch id w.toNat (reg a).toNat (reg g).toNat] } ∧
      ∀ n, tgetD y.w n 0 = if n = d.toNat then BitVec.ofNat 32 id else tgetD x.w n 0) ∧
    (∀ d a (n : BitVec 2) g, QueueGoes s (.qNode d a n g) none
      [.node (reg a).toNat (reg g).toNat ((List.range (n.toNat + 1)).map fun k => tgetD x.w (d.toNat + k) 0)]) ∧
    (∀ d a geu (w : BitVec 2) i,
      let pa := place w a i
      let met := if geu then (reg d).toNat ≤ mnat s.mem pa 4 else mnat s.mem pa 4 = (reg d).toNat
      FrontReads s x.part (lineOf pa) →
      (met → s.badLine pa = false → owned pa → QueueGoes s (.qWaitw d a geu w i) none [] true) ∧
      (¬ met ∨ s.badLine pa = true → QueueWaits s (.qWaitw d a geu w i) true)) ∧
    (let left := (∃ e ∈ s.grids, e.2.queue = some q ∧ e.2.packet < x.packet) ∨
       ∃ r ∈ s.launches, ∃ g, s.grid r.gk.part r.gk.grid = some g ∧ g.queue = some q ∧ g.packet < x.packet
     (¬ left → QueueGoes s .qFence none []) ∧ (left → QueueWaits s .qFence)) ∧
    (∀ d (i : BitVec 3), QueueGoes s (.qPostrd d i) (some (d, tgetD x.res i.toNat 0)) [.unfresh i.toNat] ∧
      (x.fresh.getLsbD i.toNat = true → QueueGoes s (.qPostrdWait d i) (some (d, tgetD x.res i.toNat 0)) [.unfresh i.toNat]) ∧
      (x.fresh.getLsbD i.toNat = false → QueueWaits s (.qPostrdWait d i))) ∧
    (∀ a : BitVec 4, a.toNat % 2 = 0 →
      let due := (tgetD x.w (a.toNat + 1) 0).toNat * 2 ^ 32 + (reg a).toNat
      (due ≤ s.clock.time → QueueGoes s (.qTimeat a) none []) ∧ (s.clock.time < due → QueueWaits s (.qTimeat a))) ∧
    (∀ a i, QueueGoes s (.qIntr a i) none [.intr i.toNat (reg a)]) ∧
    (∀ i, ∃ t, exec (.qErr i) s = .next t ∧ QueueHalts s t q 4 i.toNat) ∧
    (∃ t, exec .qHalt s = .next t ∧ t = { s with queues := t.queues } ∧ (∀ j, j ≠ q → t.queue j = s.queue j) ∧
      t.queue q = { x with phase := .applying, interp := false, loops := [] }) ∧
    QueueGoes s .qNopb none []

/-- What the load check has found of an image that passes (R340, R343): the reasons 1 to 5, 7 and 8, and the steps of a program
without branches or loops. -/
def ImagePasses (s : State) (x : Queue) (m : Image) : Prop :=
  let word (k : Nat) : Nat := mnat s.mem (x.prog + 4 * k) 4
  let nent := bitsOf (word 0) 8 8
  let clen := word 1 % 2 ^ 16
  let len := m.code.length
  let op (k : Nat) (i : Instr) : Prop := codeAt m.code k = some i
  let win (k : BitVec 2) : Prop := k ≠ 0 → winV (tgetD x.wins k.toNat 0) = true
  let wr (k : BitVec 2) : Prop := k ≠ 0 ∧ winV (tgetD x.wins k.toNat 0) = true ∧ winWr (tgetD x.wins k.toNat 0) = true
  let inBody (k a e : Nat) : Prop := ∃ body n, op a (.qLoop body n) ∧ a < k ∧ e = a + 1 + body.toNat ∧ k < e
  bitsOf (word 0) 16 16 = 0x5150 ∧ 1 ≤ nent ∧ 1 ≤ clen ∧ clen ≤ 4096 ∧ len = clen ∧ m.ents.length = nent ∧
  (∀ k, k < clen → m.code[k]? = some (BitVec.ofNat 32 (word (2 + nent + k)))) ∧
  (∀ k, k < nent → m.ents[k]? = some (bitsOf (word (2 + k)) 24 8, word (2 + k) % 2 ^ 16)) ∧
  (∀ k, k < len → ∃ i, op k i) ∧
  (∀ k d a w i, (op k (.qLdw d a w i) → win w) ∧ (op k (.qStw d a w i) → wr w) ∧ (op k (.qSignal d a w i) → wr w) ∧
    (∀ u, op k (.qDispatch d a w u) → win w) ∧ (∀ u, op k (.qWaitw d a u w i) → w ≠ 0 ∧ win w) ∧
    (op k (.qTimeat a) → a.toNat % 2 = 0) ∧ ∀ n g, op k (.qNode d a n g) → d.toNat + n.toNat ≤ 15) ∧
  (∀ k a c i, op k (.qBr a c i) → 1 ≤ i.toInt ∧ (k : Int) + i.toInt < len ∧ ∀ h e, inBody k h e → (k : Int) + i.toInt ≤ e) ∧
  (∀ k body n, op k (.qLoop body n) → 1 ≤ n.toNat ∧ n.toNat ≤ 1024 ∧ 1 ≤ body.toNat ∧ k + 1 + body.toNat ≤ len ∧
    (∀ h e, inBody k h e → k + 1 + body.toNat ≤ e) ∧
    ¬ ∃ h1 e1 h2 e2, inBody k h1 e1 ∧ inBody k h2 e2 ∧ h1 ≠ h2) ∧
  (m.ents.map (·.1)).Nodup ∧ (∀ e ∈ m.ents, e.2 < len) ∧
  ownsRange s x.part x.ring (x.size * 64) = true ∧
  (∀ k, 1 ≤ k → k ≤ 3 → winV (tgetD x.wins k 0) = true → ownsRange s x.part (winBase (tgetD x.wins k 0)) (winBytes (tgetD x.wins k 0)) = true) ∧
  ((∀ k i, op k i → (∀ a c t, i ≠ .qBr a c t) ∧ ∀ body n, i ≠ .qLoop body n) →
    ∀ e ∈ m.ents, ∃ k, k < 256 ∧ (op (e.2 + k) .qHalt ∨ ∃ c, op (e.2 + k) (.qErr c)))

/-- R336 to R339, R343 to R345: enabling and disabling a queue, its write pointer, a packet's header, its start, its waits, and its
staged effects, applied in order where nothing makes their accesses wait. -/
def Obligations.QueuesAndPackets : Prop :=
  ∀ (s : State) (q : Nat),
    let x := s.queue q
    let others (t : State) : Prop := ∀ j, j ≠ q → t.queue j = s.queue j
    let only (t : State) : Prop := t = { s with queues := t.queues } ∧ others t
    (x.en = false → x.phase ≠ .applying →
      (∀ m, s.loadCheck x = .ok m → ImagePasses s x m ∧ ∃ t, exec (.queueEnable q) s = .next t ∧ others t ∧
        t.mem = s.mem ∧ t.xmem = s.xmem ∧ t.grids = s.grids ∧ t.pool = s.pool ∧
        let y := t.queue q
        y.en = true ∧ y.haltd = x.haltd ∧ y.ents = m.ents ∧ y.code = m.code ∧ (∀ n, tgetD y.w n 0 = 0 ∧ tgetD y.res n 0 = 0) ∧ y.fresh = 0 ∧
        y.phase = .idle ∧ y.rptr = x.rptr ∧ y.wptr = x.wptr) ∧
      (∀ r, s.loadCheck x = .error r → 1 ≤ r ∧ r ≤ 8 ∧ ∃ t, exec (.queueEnable q) s = .next t ∧ QueueHalts s t q 7 r)) ∧
    (∃ t, exec (.queueDisable q) s = .next t ∧ only t ∧
      let y := t.queue q
      y.en = false ∧ y.haltd = false ∧ y.rptr = x.rptr ∧ (x.phase ≠ .applying → y.phase = .idle ∧ y.staged = [] ∧ y.interp = false) ∧
      (x.phase = .applying → y.staged = x.staged ∧ y.phase = .applying)) ∧
    (∀ v : Word,
      (v.toNat % 4 ≠ 0 → exec (.qwptrWrite q v) s = .next s) ∧
      (v.toNat % 4 = 0 → ((v.toNat : Int) - x.rptr) % 2 ^ 32 ≤ x.size * 64 → x.rptr < 2 ^ 32 →
        ∃ t, exec (.qwptrWrite q v) s = .next t ∧ only t ∧ t.queue q = { x with wptr := v.toNat }) ∧
      (v.toNat % 4 = 0 → x.size * 64 < ((v.toNat : Int) - x.rptr) % 2 ^ 32 → x.rptr < 2 ^ 32 →
        ∃ t, exec (.qwptrWrite q v) s = .next t ∧ QueueHalts s t q 6 0)) ∧
    (x.en = true → x.haltd = false → x.phase = .idle → 4 ≤ (x.wptr + 2 ^ 32 - x.rptr) % 2 ^ 32 → s.wants = [] →
      let pa := queueWord x 0 (x.rptr % 2 ^ 32)
      FrontReads s x.part (lineOf pa) →
      let h := mnat s.mem pa 4
      let len := bitsOf h 16 8
      let known := ∃ e ∈ x.ents, e.1 = bitsOf h 24 8
      let halts (code info : Nat) : Prop := ∃ t, exec (.packetHeaderRead q) s = .next t ∧ QueueHalts s t q code info
      (s.badLine pa = true → halts 5 0) ∧
      (s.badLine pa = false → ownsRange s x.part pa 4 = true →
        (len = 0 → halts 1 0) ∧ (len ≠ 0 → x.size * 64 < 4 * len → halts 2 len) ∧
        (len ≠ 0 → 4 * len ≤ x.size * 64 → ¬ known → halts 3 (bitsOf h 24 8)) ∧
        (len ≠ 0 → 4 * len ≤ x.size * 64 → known → ∃ t, exec (.packetHeaderRead q) s = .next t ∧
          t = { s with queues := t.queues, beds := t.beds } ∧ others t ∧
          t.queue q = { x with phase := .header, len := len, tag := h % 2 ^ 16 }))) ∧
    (let ready (y : Queue) : Prop := (y.en = true ∧ y.haltd = false ∧ y.phase = .header ∧ 4 * y.len ≤ (y.wptr + 2 ^ 32 - y.rptr) % 2 ^ 32) ∨
       (y.phase = .running ∧ y.waiting = false ∧ y.interp = false)
     x.en = true → x.haltd = false → x.phase = .header →
      ((x.wptr + 2 ^ 32 - x.rptr) % 2 ^ 32 < 4 * x.len → exec (.packetStart q) s = .next s) ∧
      (4 * x.len ≤ (x.wptr + 2 ^ 32 - x.rptr) % 2 ^ 32 → (s.queues.filter fun e => e.2.interp).length < 16 → q < 256 → s.lastServed < 256 →
        (∀ j, j < 256 → (j + 255 - s.lastServed) % 256 < (q + 255 - s.lastServed) % 256 → ¬ ready (s.queue j)) →
        let h := mnat s.mem (queueWord x 0 (x.rptr % 2 ^ 32)) 4
        ∃ t, exec (.packetStart q) s = .next t ∧ t = { s with queues := t.queues, lastServed := q } ∧ others t ∧
          let y := t.queue q
          y.phase = .running ∧ y.interp = true ∧ y.waiting = false ∧ y.staged = [] ∧ y.loops = [] ∧ y.rptr = x.rptr ∧ y.saved = y.w ∧
          tgetD y.w 0 0 = BitVec.ofNat 32 h ∧ tgetD y.w 1 0 = BitVec.ofNat 32 (x.rptr % (x.size * 64)) ∧
          (∀ n, 2 ≤ n → tgetD y.w n 0 = tgetD x.w n 0) ∧
          ∀ e, x.ents.find? (fun e => e.1 == bitsOf h 24 8) = some e → y.pc = e.2)) ∧
    (x.phase = .running → x.waiting = true → (s.queues.filter fun e => e.2.interp).length < 16 →
      ∃ t, exec (.queueWaitRecheck q) s = .next t ∧ only t ∧ t.queue q = { x with waiting := false, interp := true }) ∧
    (∀ a, codeAt x.code x.pc = some (.qTimeat a) → x.waiting = true →
      let due := (tgetD x.w (a.toNat + 1) 0).toNat * 2 ^ 32 + (tgetD x.w a.toNat 0).toNat
      (s.clock.time < due → exec (.timeatExpiry q) s = .next s) ∧
      (due ≤ s.clock.time → (s.queues.filter fun e => e.2.interp).length < 16 →
        ∃ t, exec (.timeatExpiry q) s = .next t ∧ only t ∧ t.queue q = { x with waiting := false, interp := true })) ∧
    (x.phase = .applying → x.stuck = none → s.wants = [] →
      let applies (rest : List Staged) (P : State → Prop) : Prop := ∃ t, exec (.stagedEffectApply q) s = .next t ∧ others t ∧
        (t.queue q).staged = rest ∧ (t.queue q).phase = .applying ∧ (t.queue q).rptr = x.rptr ∧ P t
      (x.staged = [] → ∃ t, exec (.stagedEffectApply q) s = .next t ∧ only t ∧
        t.queue q = { x with phase := .idle, stuck := none, rptr := (x.rptr + 4 * x.len) % 2 ^ 32 }) ∧
      (∀ pa v rest, ownsRange s x.part pa 4 = true → s.frontBusy pa 4 = true → x.staged = .store pa v :: rest ∨ x.staged = .signal pa v :: rest →
        exec (.stagedEffectApply q) s = .next s) ∧
      (∀ pa v rest, pa % 4 = 0 → ownsRange s x.part pa 4 = true → s.badLine pa = false → s.frontBusy pa 4 = false → NoWindows s →
        FrontWrites s pa →
        (x.staged = .store pa v :: rest → applies rest fun t => t.mem = poke s.mem pa 4 v.toNat) ∧
        (x.staged = .signal pa v :: rest → FrontReads s x.part (lineOf pa) → applies rest fun t => t.mem = poke s.mem pa 4 ((mnat s.mem pa 4 + v.toNat) % 2 ^ 32))) ∧
      (∀ code v rest, x.staged = .intr code v :: rest → applies rest fun t => t.mem = s.mem ∧
        ∃ c ∈ (t.conn x.part 0).sent, c.x = .notice (.intr code v)) ∧
      (∀ i rest, x.staged = .unfresh i :: rest → i < 8 → applies rest fun t => t.mem = s.mem ∧
        ∀ j, j < 8 → ((t.queue q).fresh.getLsbD j = true ↔ j ≠ i ∧ x.fresh.getLsbD j = true)) ∧
      (∀ g k ws rest, x.staged = .node g k ws :: rest →
        ((∀ y, s.grid x.part g = some y → ∀ z, s.grid x.part y.root = some z → tget z.nodes k = none) → s.grid x.part 0 = none →
          applies rest fun t => t.mem = s.mem ∧ t.grids = s.grids) ∧
        (∀ y z n, s.grid x.part g = some y → s.grid x.part y.root = some z → tget z.nodes k = some n → z.status ≠ 6 →
          2 ^ n.qlog ≤ n.recs.length → exec (.stagedEffectApply q) s = .next s)) ∧
      (∀ id win off teams rest, x.staged = .dispatch id win off teams :: rest →
        let place (j : Nat) : Nat := queueWord x win ((off + 4 * j) % 2 ^ 32)
        let d := parseDescr (ofBytes ((List.range 24).flatMap fun j => mread s.mem (place j) 4))
        let mine := (s.pool.filter fun e => e.part == x.part).length
        (16 * (s.part x.part).poolShare ≤ mine ∨ 4096 ≤ s.pool.length → exec (.stagedEffectApply q) s = .next s) ∧
        (mine < 16 * (s.part x.part).poolShare → s.pool.length < 4096 → (∀ j, j < 24 → s.badLine (place j) = false ∧ ownsRange s x.part (place j) 4 = true ∧
            FrontReads s x.part (lineOf (place j))) →
          let made (t : State) (status teams : Nat) (d : Descr) : Prop := t.mem = s.mem ∧
            tget t.grids (gridKey x.part id) = some { d := d, teams := teams, status := status, tag := x.tag, root := id, queue := some q, packet := x.packet }
          (teams = 0 ∨ 2 ^ 24 < teams ∨ (d.ok = false ∧ (s.asSlot x.part d.slot).torn = false) ∨ (s.asSlot x.part d.slot).en = false →
            applies rest fun t => made t 1 0 d ∧ t.pool = s.pool.filter fun e => !(e.part == x.part && e.grid == id)) ∧
          (1 ≤ teams → teams ≤ 2 ^ 24 → (s.asSlot x.part d.slot).en = true →
            ((s.asSlot x.part d.slot).torn = true → applies rest fun t => made t 6 0 d) ∧
            ((s.asSlot x.part d.slot).torn = false → d.ok = true → s.couldLand x.part d = true → d.nparam = 0 → d.nstage = 0 → d.graphva = 0 →
              applies rest fun t => made t 0 teams d ∧
                ∃ e, t.pool = s.pool ++ [e] ∧ e.part = x.part ∧ e.grid = id ∧ e.d = d ∧ e.next = 0 ∧ e.left = teams ∧ e.ready = true)))))

/-- A request of a group to the front end ends (R34, R35, R325): its counter falls, `val` stands in its lanes, and the group's children
count has changed. -/
def FrontAnswers (s t : State) (gk : GKey) (issue : Nat) (lanes : List Nat) (val : Nat) (child : Int) : Prop :=
  ∀ p k g tm d i, s.findGroup gk = some (p, k, g, tm) → g.issues = [i] → i.id = issue → i.ctr = some .ev → i.dst = d → i.regs = 1 →
    i.ext = .zero → i.wait = none → i.failed = none → i.bad = none → i.top = lanes.getLastD 0 → lanes.Nodup → lanes ≠ [] →
    i.lanes = lanes.map (fun l => (l, {})) → (∃ e ∈ g.th, e.2.st ≠ .exited) → (∀ n, d ≠ .t n) →
    ∃ h, t.group p k = some h ∧ h.ctr = g.ctr.mod .ev (· - 1) ∧ h.issues = [] ∧ (h.children : Int) = g.children + child ∧
      h.ge &&& marksG d 1 = 0 ∧ ∀ l ∈ lanes, ∀ a, g.thread l = some a → a.st ≠ .exited → ∃ u, h.thread l = some u ∧
        dstNat h u 1 d = cut d 1 val ∧ u.ve &&& marksV d 1 = 0 ∧ u.pe &&& marksP d = 0

/-- The group that an answer goes to, where it stands on a pan, has a thread left and no failed access outstanding. -/
def Calm (s : State) (gk : GKey) : Prop :=
  ∀ p k g tm, s.findGroup gk = some (p, k, g, tm) → (∃ e ∈ g.th, e.2.st ≠ .exited) ∧ ∀ i ∈ g.issues, i.failed = none ∧ i.bad = none

/-- The front end may take a group's request (R115, R116, R129): no earlier access of those lanes to memory is on its way. -/
structure FrontTakes (s : State) (gk : GKey) (pan issue rc : Nat) (lanes : List Nat) : Prop where
  idle : s.wants = []
  durable : rc ≤ (s.pan pan).drc
  accepted : ∀ y ∈ s.fabric, y.gk = gk → y.issue < issue → ∀ a ∈ y.accs, a.lane ∉ lanes
  windows : ∀ b ∈ s.beds, ∀ e ∈ b.2.held, e.gk = gk → e.lane ∉ lanes

/-- The partition's share of the pending pool has room (R324). -/
def PoolRoom (s : State) (part : Nat) : Prop :=
  (s.pool.filter fun e => e.part == part).length < 16 * (s.part part).poolShare ∧ s.pool.length < 4096

/-- A team of a descriptor fits a pan as the landing rules have it (R136, R139, R151, R152, R156, R388). -/
def FitsWell (d : Descr) (n : Pan) (k base : Nat) (xs : List Seat) : Prop :=
  n.fen.whole = false ∧ k < 8 ∧ tget n.core.teams k = none ∧ (∀ j, j < k → tget n.core.teams j ≠ none) ∧
  (n.core.teams ≠ [] → n.l1seg = d.l1seg ∧ n.fused = d.fused) ∧
  base + 1024 * d.scrkib ≤ (16 - d.l1seg - ((List.range 16).filter fun j => n.fen.seg.testBit j).length) * 32768 ∧
  (∀ e ∈ n.core.teams, 0 < d.scrkib → 0 < e.2.size → base + 1024 * d.scrkib ≤ e.2.base ∨ e.2.base + e.2.size ≤ base) ∧
  xs.map (fun y => (y.num, y.role)) = d.groups ∧ (xs.map (·.slot)).Nodup ∧
  (∀ y ∈ xs, tget n.core.groups y.slot = none ∧ (y.num = 16 → y.slot = 128 + k) ∧
    (y.num ≠ 16 → y.slot < 128 ∧ y.slot / 32 = y.num % 4 ∧ n.fen.qtr.testBit (y.num % 4) = false)) ∧
  (∀ y ∈ xs, y.role = .matrix → n.fen.arr = 0 ∧ ∃ b, y.bank = some b ∧ b < 2 ∧
    (∀ e ∈ n.core.groups, e.2.role = .matrix → quarterOf e.1 = quarterOf y.slot → e.2.bank ≠ b) ∧
    ∀ z ∈ xs, z.role = .matrix → quarterOf z.slot = quarterOf y.slot → z.bank = some b → z.slot = y.slot)

/-- R151, R152, R165, R324 to R328, R346 to R352, R415: launches, result words, records, the landing of teams, and the completion of
grids, where nothing makes the front end's accesses wait. -/
def Obligations.GridsAndGraphs : Prop :=
  (∀ (d : Descr) (n : Pan) k base xs, d.fits n = some (k, base, xs) → FitsWell d n k base xs) ∧
  ∀ s : State,
    (∀ idx r, s.launches[idx]? = some r → FrontTakes s r.gk r.pan r.issue r.rc r.lanes → Calm s r.gk → (∀ e ∈ s.launches.take idx, e.gk ≠ r.gk) →
      let fine := r.ok = true ∧ 1 ≤ r.teams ∧ r.teams ≤ 2 ^ 24 ∧ s.childrenOf r.gk < 65535
      let answered (t : State) (placed : Bool) : Prop := exec (.launchPlace idx) s = .next t ∧ t.launches = s.launches.eraseIdx idx ∧
        FrontAnswers s t r.gk r.issue r.lanes placed.toNat (if placed then 1 else 0)
      let listRoom := ∃ g, s.grid r.gk.part r.gk.grid = some g ∧ g.ovf.length < g.d.ovflen
      (¬ fine ∨ (¬ PoolRoom s r.gk.part ∧ ¬ listRoom) → ∃ t, answered t false ∧ t.pool = s.pool ∧ t.grids = s.grids ∧ t.mem = s.mem) ∧
      (fine → PoolRoom s r.gk.part → s.grids.length + 2 ≤ 2 ^ 32 → ∃ t id, answered t true ∧ t.mem = s.mem ∧ 0 < id ∧ s.grid r.gk.part id = none ∧
        t.pool = s.pool ++ [{ part := r.gk.part, grid := id, req := some r, left := r.teams }] ∧
        ∃ g, t.grid r.gk.part id = some g ∧ g.teams = r.teams ∧ g.tag = r.tag ∧ g.parent = some r.gk ∧ g.landed = 0 ∧ g.exited = 0 ∧
          (∀ pg, s.grid r.gk.part r.gk.grid = some pg → g.root = pg.root ∧ g.queue = pg.queue ∧ g.packet = pg.packet) ∧
          ∀ key, key ≠ gridKey r.gk.part id → tget t.grids key = tget s.grids key) ∧
      (fine → ¬ PoolRoom s r.gk.part → ∀ g e, s.grid r.gk.part r.gk.grid = some g → g.ovf.length < g.d.ovflen → g.d.ovfva % 32 = 0 →
        FrontReaches s r.gk.part g.d.slot (g.d.ovfva + 32 * (g.ovfPut % g.d.ovflen)) e →
        ∃ t, answered t true ∧ t.pool = s.pool ∧ t.grid r.gk.part r.gk.grid = some { g with ovf := g.ovf ++ [r], ovfPut := g.ovfPut + 1 })) ∧
    (∀ part id g r rest, s.grid part id = some g → g.ovf = r :: rest →
      (¬ PoolRoom s part → exec (.overflowListMove part id) s = .next s) ∧
      (PoolRoom s part → r.gk = { r.gk with part := part, grid := id } → g.done = false → s.grids.length + 2 ≤ 2 ^ 32 →
        ∃ t new, exec (.overflowListMove part id) s = .next t ∧ t.mem = s.mem ∧ new ≠ id ∧ s.grid part new = none ∧
          t.pool = s.pool ++ [{ part := part, grid := new, req := some r, left := r.teams }] ∧ t.grid part id = some { g with ovf := rest })) ∧
    (∀ idx r, s.posts[idx]? = some r → FrontTakes s r.gk r.pan r.issue r.rc r.lanes → Calm s r.gk → (∀ e ∈ s.posts.take idx, e.gk ≠ r.gk) →
      ∃ t, exec (.postWordAccept idx) s = .next t ∧ t.posts = s.posts.eraseIdx idx ∧ t.mem = s.mem ∧ FrontAnswers s t r.gk r.issue r.lanes 0 0 ∧
        (∀ g q, s.grid r.gk.part r.gk.grid = some g → g.queue = some q → r.word < 8 →
          let y := t.queue q
          (∀ n, tgetD y.res n 0 = if n = r.word then r.val else tgetD (s.queue q).res n 0) ∧
          (∀ n, n < 8 → (y.fresh.getLsbD n = true ↔ n = r.word ∨ (s.queue q).fresh.getLsbD n = true)) ∧ ∀ j, j ≠ q → t.queue j = s.queue j) ∧
        ((∀ g, s.grid r.gk.part r.gk.grid = some g → g.queue = none) → t.queues = s.queues)) ∧
    (∀ idx r, s.recs[idx]? = some r → r.wait = none → FrontTakes s r.gk r.pan r.issue r.rc [r.lane] → Calm s r.gk →
      (∀ e ∈ s.recs.take idx, e.gk = r.gk → e.node ≠ r.node) →
      let part := r.gk.part
      let none_ := (s.grid part r.gk.grid = none ∧ s.grid part 0 = none) ∨
        ∃ y, s.grid part r.gk.grid = some y ∧ ∀ z, s.grid part y.root = some z → tget z.nodes r.node = none
      (none_ → ∃ t, exec (.nodeRecordEnqueue idx) s = .next t ∧ t.recs = s.recs.eraseIdx idx ∧ t.mem = s.mem ∧ t.grids = s.grids ∧
        FrontAnswers s t r.gk r.issue [r.lane] 0 0) ∧
      (∀ y z n, s.grid part r.gk.grid = some y → s.grid part y.root = some z → tget z.nodes r.node = some n → z.status ≠ 6 →
        (2 ^ n.qlog ≤ n.recs.length → exec (.nodeRecordEnqueue idx) s = .next s) ∧
        (n.recs.length < 2 ^ n.qlog →
          let va := n.qva + 32 * (n.entered % 2 ^ n.qlog)
          let ws := (r.words ++ List.replicate 8 0).take n.recw
          let full := (ws ++ List.replicate 8 0).take 8
          ∀ e, FrontReaches s part z.d.slot va e → s.badLine (leafPa e va) = false → NoWindows s → va % 32 = 0 →
            ∃ t, exec (.nodeRecordEnqueue idx) s = .next t ∧ t.recs = s.recs.eraseIdx idx ∧ FrontAnswers s t r.gk r.issue [r.lane] 1 0 ∧
              t.mem = mwrite s.mem (leafPa e va) (full.flatMap fun w => bytesOf w.toNat 4) ∧
              ∃ z' n', t.grid part y.root = some z' ∧ tget z'.nodes r.node = some n' ∧ n'.entered = n.entered + 1 ∧
                let recs := n.recs ++ [(s.clock.nowNs, ws)]
                let due := 32 ≤ recs.length ∨ ∀ o ∈ recs.head?, o.1 + 1000 * n.timer ≤ s.clock.nowNs
                (due → PoolRoom s part → n'.recs = recs.drop 32 ∧ z'.fired = z.fired + 1) ∧
                (¬ due ∨ ¬ PoolRoom s part → n'.recs = recs ∧ z'.fired = z.fired ∧ t.pool = s.pool)))) ∧
    (∀ part root k g n o rest, s.grid part root = some g → tget g.nodes k = some n → n.recs = o :: rest → g.status ≠ 6 →
      let due := 32 ≤ n.recs.length ∨ o.1 + 1000 * n.timer ≤ s.clock.nowNs
      (¬ due ∨ ¬ PoolRoom s part → exec (.nodeTimerExpiry part root k) s = .next s) ∧
      (due → PoolRoom s part → ∃ t e, exec (.nodeTimerExpiry part root k) s = .next t ∧ t.mem = s.mem ∧ t.pool = s.pool ++ [e] ∧
        e.part = part ∧ e.grid = root ∧ e.d = n.d ∧ e.left = 1 ∧ e.fired = true ∧ e.recs = (n.recs.take 32).map (·.2) ∧ e.recoff = n.recoff ∧
        t.grid part root = some { g with fired := g.fired + 1, nodes := tput g.nodes k { n with recs := n.recs.drop 32 } })) ∧
    (∀ part e, s.pool.find? (fun e => e.part == part) = some e → e.wait = none →
      let same (y : PoolEntry) : Bool := y.part == e.part && y.grid == e.grid && y.next == e.next
      let open_ (p : Nat) : Prop := s.panOpen part e.grid p = true ∧ (e.d.fits (s.pan p)).isSome = true
      let rank (p : Nat) : Nat := (p + 383 - (s.part part).lastPan) % 192
      (e.ready = true → (∀ p, p < 192 → ¬ open_ p) → exec (.teamLanding part) s = .next s) ∧
      (e.ready = true → (s.part part).lastPan < 192 → ∀ p k base xs, p < 192 → s.panOpen part e.grid p = true → e.d.fits (s.pan p) = some (k, base, xs) →
        (∀ j, j < 192 → rank j < rank p → ¬ open_ j) →
        ∃ t tm, exec (.teamLanding part) s = .next t ∧ t.mem = s.mem ∧ (∀ j, j ≠ p → t.pan j = s.pan j) ∧ (t.part part).lastPan = p ∧
          tget (t.pan p).core.teams k = some tm ∧ tm.grid = e.grid ∧ tm.num = e.next ∧ tm.part = e.part ∧ tm.slot = e.d.slot ∧ tm.cls = e.d.cls ∧
          tm.base = base ∧ tm.size = 1024 * e.d.scrkib ∧ tm.trapva = e.d.trapva ∧
          (t.pan p).l1seg = (if (s.pan p).core.teams = [] then e.d.l1seg else (s.pan p).l1seg) ∧
          (∀ g, s.grid e.part e.grid = some g → t.grid e.part e.grid = some { g with landed := g.landed + 1 }) ∧
          t.pool = (if e.left ≤ 1 then s.pool.filter fun y => !same y
            else s.pool.map fun y => if same y then { e with next := e.next + 1, left := e.left - 1 } else y) ∧
          (∀ y ∈ xs, ∃ g, t.group p y.slot = some g ∧ g.team = k ∧ g.num = y.num ∧ g.role = y.role ∧ g.run = none ∧ g.issues = [] ∧ g.ctr = {} ∧
            g.th.map (·.1) = (if y.role = .control then [0] else List.range 32) ∧
            (∀ n, n < 63 → e.params.length ≤ 64 → g.rg n = e.params.getD n 0) ∧
            (e.params.length ≤ 63 → g.rg 63 = if e.fired then BitVec.ofNat 32 e.recs.length else 0) ∧
            ∀ u ∈ g.th, u.2.addr = e.d.entry.getD y.role.code 0 ∧ u.2.st = .runnable ∧ u.2.mode = false ∧ u.2.v = [] ∧ u.2.p = 0 ∧ u.2.flags = 0) ∧
          (e.recs = [] → (t.pan p).core.scratch = (s.pan p).core.scratch)) ∧
      (e.ready = false → e.req = none → s.wants = [] →
        let d := e.d
        let slot := s.asSlot part d.slot
        let over_ (status : Nat) : Prop := ∃ t, exec (.teamLanding part) s = .next t ∧ t.mem = s.mem ∧
          t.pool = s.pool.filter (fun y => !(y.part == part && y.grid == e.grid)) ∧
          ∀ g, s.grid part e.grid = some g → t.grid part e.grid = some { g with status := status, teams := 0 }
        (slot.en = true → slot.torn = true → over_ 6) ∧
        (slot.en = false ∨ (slot.torn = false ∧ (d.ok = false ∨ s.couldLand part d = false)) → over_ 1) ∧
        (slot.en = true → slot.torn = false → d.ok = true → s.couldLand part d = true → d.nparam = 0 → d.nstage = 0 → d.graphva = 0 →
          ∃ t, exec (.teamLanding part) s = .next t ∧ t.mem = s.mem ∧
            t.pool = s.pool.map fun y => if same y then { e with ready := true, params := [], stage := [] } else y))) ∧
    (∀ part id g, s.grid part id = some g → g.ending = false → g.done = false →
      let idle := g.exited = g.landed ∧ ∀ e ∈ s.pool, ¬ (e.part = part ∧ e.grid = id)
      let quiet := g.nodes = [] ∨ ((∀ n ∈ g.nodes, n.2.recs = []) ∧ g.ovf = [] ∧
        (∀ r ∈ s.recs, r.gk.part = part → ∀ y, s.grid part r.gk.grid = some y → y.root ≠ id) ∧
        ∀ e ∈ s.grids, e.1 / 2 ^ 32 = part → e.2.root = id → e.1 % 2 ^ 32 = id)
      (¬ (idle ∧ quiet) → exec (.gridComplete part id) s = .next s) ∧
      (idle → quiet → (∀ e ∈ s.pans, e.2.undo = []) →
        (∀ k p j h tm, g.parent = some k → s.findGroup k = some (p, j, h, tm) → ∀ i ∈ h.issues, i.id ≠ s.nextId) →
        (∀ q, g.queue = some q → (s.queue q).cmpBase ≠ 0 → id < 2 ^ 32 → g.tag < 2 ^ 32 → g.status < 16 → (∀ k, g.parent = some k → k.grid < 2 ^ 32) →
          ∃ t rec_, exec (.gridComplete part id) s = .next t ∧ t.mem = s.mem ∧ t.grid part id = some { g with ending := true } ∧
            (t.queue q).cmpWait = (s.queue q).cmpWait ++ [(gridKey part id, rec_)] ∧ rec_.length = 16 ∧
            let f (o n : Nat) : Nat := ofBytes ((rec_.drop o).take n)
            f 0 4 = id ∧ f 4 4 = g.tag ∧ bitsOf (f 8 4) 28 4 = g.status ∧ bitsOf (f 8 4) 26 2 = (if g.parent = none then 0 else 1) ∧
            bitsOf (f 8 4) 24 2 = 0 ∧ bitsOf (f 8 4) 0 24 = Nat.min g.exited (2 ^ 24 - 1) ∧
            f 12 4 = match g.parent with
              | some k => k.grid
              | none => 0) ∧
        (g.queue = none ∨ (∃ q, g.queue = some q ∧ (s.queue q).cmpBase = 0) →
          ∃ t, exec (.gridComplete part id) s = .next t ∧ t.mem = s.mem ∧ t.queues = s.queues ∧
            (g.ovf = [] → t.grid part id = none) ∧ (g.ovf ≠ [] → t.grid part id = some { g with done := true }) ∧
            ∀ k p j h tm, g.parent = some k → s.findGroup k = some (p, j, h, tm) →
              ∃ h', t.group p j = some h' ∧ h'.children = h.children - 1))) ∧
    ∀ q key rec_ rest, (s.queue q).cmpWait = (key, rec_) :: rest →
      let x := s.queue q
      let used := (x.chead + 2 ^ 32 - x.ctail) % 2 ^ 32
      let pa := x.cmpBase + 16 * (x.chead % 2 ^ x.cmpLog)
      (2 ^ x.cmpLog ≤ used → exec (.completionRingPost q) s = .next s) ∧
      (used < 2 ^ x.cmpLog → rec_.length = 16 → pa % 16 = 0 → s.badLine pa = false → NoWindows s → s.wants = [] → FrontWrites s pa →
        ∃ t, exec (.completionRingPost q) s = .next t ∧ t.mem = mwrite s.mem pa rec_ ∧
          (t.queue q).chead = (x.chead + 1) % 2 ^ 32 ∧ (t.queue q).cmpWait = rest ∧ (∀ j, j ≠ q → t.queue j = s.queue j) ∧
          ∀ g, s.grid (key / 2 ^ 32) (key % 2 ^ 32) = some g → g.ovf = [] → t.grid (key / 2 ^ 32) (key % 2 ^ 32) = none)

/-! ## Streams, energy and pre-emption -/

/-- R293, R295: the fields of a stream may be enabled, but for the overlap of allocations. -/
def StreamFits (x : Stream) : Prop :=
  let m := if x.scale = 1 then 48 else 16
  let rw := x.w * 2 / (x.scale + 2)
  let rh := x.sh * 2 / (x.scale + 2)
  let cw := if x.chroma = 2 then x.w else x.w / 2
  let ch := if x.chroma = 0 then x.sh / 2 else x.sh
  let units (n : Nat) : Nat := (n + 65535) / 65536
  let ref := if x.sink = 1 then (if x.chroma = 2 then x.w * x.h * 6 else x.w * x.h * 3) else 0
  x.scale < 3 ∧ 0 < x.w ∧ 0 < x.h ∧ x.w % m = 0 ∧ x.h % m = 0 ∧ 16 ≤ x.sh ∧ x.sh ≤ 128 ∧ (x.scale = 1 → x.sh % 48 = 0) ∧
  x.halo ≤ 16 ∧ x.halo ≤ rh ∧ 3 ≤ x.rs ∧ 2 ≤ x.os ∧ 1 ≤ x.keyint ∧ 1000000 ≤ x.fp.toNat ∧ x.fp.toNat ≤ 1000000000 ∧
  ((x.sink = 0 ∧ x.chroma = 1) ∨
    (x.sink = 1 ∧ (x.chroma = 0 ∨ x.chroma = 2) ∧ (x.sh = 64 ∨ x.sh = 128) ∧ (x.scale = 0 ∨ x.scale = 2))) ∧
  units (x.rs * (rw * rh * 8)) + units (x.os * ((x.w * x.sh + 2 * (cw * ch)) * 2)) + units ref ≤ x.ringSize ∧
  x.ringBase + x.ringSize ≤ 1024

/-- A chain that is killed (R301): LATE rises, its sink gets a fill strip for the strip below, but for chain 0, its team reads 0 and is
told, and nothing of the ring changes. -/
def ChainKilled (s t : State) (i g : Nat) (c : Chain) : Prop :=
  let x := s.stream i
  let y := t.stream i
  let k := x.chainIn g
  y = { x with chains := y.chains, outs := y.outs, ctrs := y.ctrs } ∧
  let tm := if c.st = .claimed then c.team else .nobody
  tget y.chains g = some { c with st := .ended, quads := none, shadow := [], team := tm, killed := some s.nextId } ∧
  (∀ n, n ≠ g → tget y.chains n = tget x.chains n) ∧
  y.outs = x.outs ++ (if k = 0 then [] else [{ num := x.frameOf g * x.n + k - 1, fill := true }]) ∧
  tgetD y.ctrs 9 0 = (tgetD x.ctrs 9 0 + 1) % 2 ^ 64 ∧ (∀ n, n ≠ 9 → tget y.ctrs n = tget x.ctrs n) ∧
  (∀ j, j ≠ i → t.stream j = s.stream j) ∧ t.harvest = s.harvest ∧ t.mem = s.mem ∧
  (c.st = .claimed → c.team = c.team.team_ → TeamReads t c.team 0 0 ∧
    ∀ p q tm, s.teamAt c.team = some (p, q) → s.team p q = some tm → gkeyOf tm 0 = c.team → (s.pan p).core.evqFull = false → (s.pan p).core.held = [] → q < 8 →
      ∃ e, (t.pan p).core.evq.recs = (s.pan p).core.evq.recs ++ [e] ∧ e.length = 32 ∧ bitsOf (ofBytes e) 28 4 = 3 ∧
        bitsOf (ofBytes e) 24 4 = 6 ∧ bitsOf (ofBytes e) 20 4 = 6 ∧ bitsOf (ofBytes e) 15 3 = q)

/-- R292 to R294, R296, R300 to R304, R359, R360: a stream is enabled, its chains are admitted or refused, become claimable and are
killed, and its strips leave and drain. -/
def Obligations.StreamsAndChains : Prop :=
  ∀ (s : State) (i : Nat), tSorted s.streams = true → tSorted (s.stream i).chains = true →
    let x := s.stream i
    let now : Int := s.clock.nowNs
    let others (t : State) : Prop := ∀ j, j ≠ i → t.stream j = s.stream j
    let fits := x.en = false ∧ i < 16 ∧ StreamFits x ∧ ∀ j y, j ≠ i → tget s.streams j = some y → y.en = true ∨ y.alloc = true →
      y.ringBase + y.ringSize ≤ x.ringBase ∨ x.ringBase + x.ringSize ≤ y.ringBase
    let fits := fits ∧ ∀ d ∈ s.drains, d.x.outs ≠ [] →
      d.x.ringBase + d.x.ringSize ≤ x.ringBase ∨ x.ringBase + x.ringSize ≤ d.x.ringBase
    (¬ fits → exec (.streamEnable i) s = .next s) ∧
    (fits → ∃ t, exec (.streamEnable i) s = .next t ∧ t = { s with streams := t.streams } ∧ others t ∧
      let y := t.stream i
      y = { x with cfg := x.cfg ||| 0x8000000000000000, sr := 0, chains := [], outs := [], bins := [], alloc := true, frame0 := y.frame0 } ∧
      now < x.start (y.frame0 * (x.n + 1)) ∧ ∀ f, f < y.frame0 → x.start (f * (x.n + 1)) ≤ now) ∧
    (x.en = false → exec (.streamDisable i) s = .next s) ∧
    (x.en = true → (∀ e ∈ x.chains, x.frame0 ≤ x.frameOf e.1) → ∃ t d, exec (.streamDisable i) s = .next t ∧ t.mem = s.mem ∧ t.harvest = s.harvest ∧
      others t ∧
      let y := t.stream i
      y.en = false ∧ y.chains = [] ∧ y.outs = [] ∧ y.alloc = false ∧ d.stream = i ∧ d.x.ring = x.ring ∧
      (∀ n c, tget x.chains n = some c → ∃ z, tget d.x.chains n = some z ∧ z.st = .ended) ∧ (∀ o ∈ x.outs, o ∈ d.x.outs) ∧
      (d.x.outs ≠ [] → t.drains = s.drains ++ [d]) ∧
      tgetD y.ctrs 9 0 % 2 ^ 64 = (tgetD x.ctrs 9 0 + (x.chains.filter fun e => e.2.st != .ended).length) % 2 ^ 64) ∧
    (∀ g,
      (x.en = false ∨ x.frameOf g < x.frame0 ∨ now < x.deadline g ∨ (∃ c, tget x.chains g = some c ∧ c.st = .ended) →
        exec (.chainKill i g) s = .next s) ∧
      (x.en = true → x.frame0 ≤ x.frameOf g → x.deadline g ≤ now → ∀ c, c = tgetD x.chains g { st := .refused } → c.st ≠ .ended →
        ∃ t, exec (.chainKill i g) s = .next t ∧ ChainKilled s t i g c) ∧
      (∀ c, tget x.chains g = some c → c.st = .admitted →
        (now < x.start g → exec (.chainClaimable i g) s = .next s) ∧
        (x.start g ≤ now → ∃ t, exec (.chainClaimable i g) s = .next t ∧ t = { s with streams := t.streams } ∧
          StreamKept s t i g { c with st := .claimable })) ∧
      (x.en = false ∨ (∃ c, tget x.chains g = some c) ∨ x.frameOf g < x.frame0 ∨ now < x.start g - 5000 ∨ x.deadline g < now →
        exec (.chainAdmission i g) s = .next s) ∧
      (x.en = true → tget x.chains g = none → x.frame0 ≤ x.frameOf g → x.start g - 5000 ≤ now → now ≤ x.deadline g →
        let part := s.part x.part
        let wce := x.wce.toNat
        (part.dlr < wce ∨ s.admissionPlan i = none → ∃ t, exec (.chainAdmission i g) s = .next t ∧ t.mem = s.mem ∧ t.pans = s.pans ∧
          StreamKept s t i g { st := .refused, shadow := [] } ∧ (t.part x.part).refused = (part.refused + 1) % 2 ^ 32 ∧
          (t.part x.part).dlr = part.dlr) ∧
        (wce ≤ part.dlr → ∀ k p ks idx, s.admissionPlan i = some (k, p, ks, idx) →
          (part.dlPans.testBit p = true ∧ part.pans.testBit p = true ∧ s.panChain p = false ∧ (s.pan p).fen.whole = false) ∧
          (idx = none → ks = [] ∧ (tSorted s.pans = true → ∃ q tm, (q, tm) ∈ (s.pan p).core.teams ∧ gkeyOf tm 0 = k ∧ tm.cls = 3 ∧ tm.part = x.part)) ∧
          ∃ t, exec (.chainAdmission i g) s = .next t ∧ t.mem = s.mem ∧ StreamKept s t i g { pan := p, team := k } ∧
            (t.part x.part).dlr = part.dlr - wce ∧ (t.part x.part).refused = part.refused ∧
            (t.pan p).pw.grant = (s.pan p).pw.grant + wce ∧ (ks = [] → (t.pan p).core = (s.pan p).core) ∧
            (t.pan p).core = { (s.pan p).core with groups := (t.pan p).core.groups } ∧ (∀ j, j ≠ p → t.pan j = s.pan j) ∧
            (∀ q ∈ ks, (s.team p q).isSome = true → (t.pan p).isSealing q = true) ∧
            (∀ q, q ∉ ks → (t.pan p).preempt q = (s.pan p).preempt q) ∧
            ∀ j, t.contexts[j]? = if some j = idx then (s.contexts[j]?).map fun y => { y with go := true, target := some p } else s.contexts[j]?))) ∧
    (∀ (num : Nat) (sink : Nat) (ev : Instr), (sink, ev) ∈ [(0, Instr.stripSerialize i num), (1, .stripEncode i num)] →
      (∀ d ∈ s.drains, d.stream = i → ∀ o ∈ d.x.outs, o.sent = true) → (x.outs.map (·.num)).Nodup →
      let first (o : OutStrip) : Prop := o ∈ x.outs ∧ o.sent = false ∧ ∀ z ∈ x.outs, z.sent = false → o.num ≤ z.num
      let f := num / x.n
      let k := num % x.n
      ((∀ o, first o → o.num ≠ num) ∨ x.sink ≠ sink ∨ now < (x.scan f k : Int) → exec ev s = .next s) ∧
      (∀ o, first o → o.num = num → x.sink = sink → (x.scan f k : Int) ≤ now → ∃ t out, exec ev s = .next t ∧ t.mem = s.mem ∧ t.harvest = s.harvest ∧
        t.wire = s.wire ++ [.strip out] ∧ others t ∧
        (out.stream = i ∧ out.port = (x.fmt.getLsbD 44).toNat ∧ out.flow = bitsOf x.fmt.toNat 36 8 ∧ out.frame = f ∧ out.strip = k ∧
          out.stamp = x.org f * 90000 / 1000000000 % 2 ^ 32 ∧ (out.last = true ↔ k + 1 = x.n) ∧ out.fill = o.fill ∧ (out.coded = true ↔ sink = 1) ∧
          (out.key = true ↔ sink = 1 ∧ (f - x.frame0) % x.keyint = 0) ∧ (sink = 1 → out.qidx = bitsOf x.fmt.toNat 56 8)) ∧
        (let w1 := (x.areaDim 1).1
         let w2 := (x.areaDim 2).1
         let n1 := w1 * Nat.min x.sh (x.h - k * x.sh)
         let n2 := w2 * Nat.min (x.areaDim 2).2.2 ((x.areaDim 2).2.1 - k * (x.areaDim 2).2.2)
         let fill (lo : Nat) : Nat := if x.fmt.getLsbD 45 then bitsOf x.fmt.toNat lo 10 else bitsOf x.fmt.toNat (lo + 2) 8
         out.samples.length = 2 * (n1 + n2 + n2) ∧
         (o.fill = true → ∀ j, (j < n1 → ofBytes ((out.samples.drop (2 * j)).take 2) = fill 20) ∧
           (j < n2 → ofBytes ((out.samples.drop (2 * (n1 + j))).take 2) = fill 10 ∧
             ofBytes ((out.samples.drop (2 * (n1 + n2 + j))).take 2) = fill 0)) ∧
         (o.fill = false → ∀ j, (j < 2 * n1 → out.samples[j]? = some (mget s.harvest (x.slotAt 1 num + j))) ∧
           (j < 2 * n2 → out.samples[2 * n1 + j]? = some (mget s.harvest (x.slotAt 2 num + j)) ∧
             out.samples[2 * n1 + 2 * n2 + j]? = some (mget s.harvest (x.slotAt 3 num + j))))) ∧
        let y := t.stream i
        y = { x with outs := y.outs, ctrs := y.ctrs } ∧ y.outs = x.outs.map (fun z => if z.num = num then { z with sent := true } else z) ∧
        tgetD y.ctrs 11 0 = (if o.fill then (tgetD x.ctrs 11 0 + 1) % 2 ^ 64 else tgetD x.ctrs 11 0))) ∧
    ∀ num,
      let sent (y : Stream) : Prop := ∃ o ∈ y.outs, o.num = num ∧ o.sent = true
      let left (y z : Stream) : Prop := z = { y with outs := z.outs } ∧ ∀ o, o ∈ z.outs ↔ o ∈ y.outs ∧ ¬ (o.num = num ∧ o.sent = true)
      ((∀ d ∈ s.drains, d.stream = i → ¬ sent d.x) →
        (¬ sent x → exec (.outputStripDrained i num) s = .next s) ∧
        (sent x → ∃ t, exec (.outputStripDrained i num) s = .next t ∧ t = { s with streams := t.streams } ∧ others t ∧ left x (t.stream i))) ∧
      ∀ d, s.drains = [d] → d.stream = i → sent d.x → ∃ t z, exec (.outputStripDrained i num) s = .next t ∧ t = { s with drains := t.drains } ∧
        left d.x z ∧ (z.outs ≠ [] → t.drains = [{ stream := i, x := z }]) ∧
        (z.outs = [] → (∀ c ∈ z.chains, c.2.team = .nobody) → t.drains = [])

/-- Admit of R365: the account after a command of a cost, or that it waits. -/
def Admitted (w : Power) (dl : Bool) (cls res cost : Nat) (w' : Option Power) : Prop :=
  if dl then
    let g := Nat.min w.grant cost
    let c := Nat.min (cost - g) 65536
    (w.bal - c < -8192 → w' = none) ∧
    (-8192 ≤ w.bal - c → w' = some { w with grant := w.grant - g, bal := w.bal - c, carry := w.carry + (cost - g - c) })
  else
    let c := Nat.min cost 65536
    let need : Int := Nat.min (if cls = 0 then c + res else c) 65536
    (w.bal < need → w' = none) ∧ (need ≤ w.bal → w' = some { w with bal := w.bal - c, carry := w.carry + (cost - c) })

/-- A tier-2 request (R21, R281, R362): the seal timer starts, the team's groups stop, the writes that their trailers left in flight being
complete, the visits of the team's slot are to be saved, and nothing else changes. -/
def SealBegins (s t : State) (p k : Nat) (tm : Team) (cause : SealCause) : Prop :=
  t = { s with pans := t.pans } ∧ (∀ j, j ≠ p → t.pan j = s.pan j) ∧
  (t.pan p).core = { (s.pan p).core with groups := (t.pan p).core.groups } ∧
  (∀ j g, s.group p j = some g → t.group p j = some (if g.team = k then { g with overtaken := [] } else g)) ∧
  (t.pan p).preempt k = { (s.pan p).preempt k with drain := none, sealing := some (s.clock.nowNs, cause) } ∧
  (∀ j, j ≠ k → (t.pan p).preempt j = (s.pan p).preempt j) ∧
  ∀ j v, tget (s.pan p).rake.visits j = some v → tget (t.pan p).rake.visits j =
    some (if (∃ b, tget (s.pan p).rake.binds v.bslot = some b ∧ b.part = tm.part ∧ b.asSlot = tm.slot) then
      match v.st with
        | .saving _ _ _ | .posting _ => v
        | _ => { v with st := .saving 0 0 0 } else v)

/-- A context is gone (R362): its grid ends with CANCEL and counts its team. -/
def GridCancelled (s t : State) (tm : Team) : Prop :=
  ∀ g, s.grid tm.part tm.grid = some g → t.grid tm.part tm.grid = some { g with exited := g.exited + 1, status := 6 }

/-- A resident context is lost: its slot is free, no group of it is left, and its grid ends with CANCEL. -/
def TeamLost (s t : State) (p k : Nat) (tm : Team) : Prop :=
  t.mem = s.mem ∧ t.contexts = s.contexts ∧ (∀ j, j ≠ k → t.team p j = s.team p j) ∧ t.team p k = none ∧
  (∀ j h, t.group p j = some h → h.team ≠ k) ∧ GridCancelled s t tm

/-- R361 to R370, R417: admission against the energy account, the ticks and the planner, gating, and the pre-emption of contexts. -/
def Obligations.EnergyAndPreemption : Prop :=
  (∀ w dl cls res cost, Admitted w dl cls res cost (w.affords dl cls res cost)) ∧
  ∀ (s : State) (p : Nat),
    let n := s.pan p
    let w := n.pw
    let only (t : State) (m : Pan) : Prop := t = { s with pans := t.pans } ∧ (∀ j, j ≠ p → t.pan j = s.pan j) ∧ t.pan p = m
    let power (i : Instr) (w' : Power) : Prop := ∃ t, exec i s = .next t ∧ only t { n with pw := w' }
    (∀ q, n.off = true → exec (.engineAdmission p q) s = .next s) ∧
    (n.off = false →
      (∀ x xs rest, n.core.squeue = (x :: xs) :: rest →
        let dl := ((x :: xs) :: rest).any fun c => c.any fun y => s.holdsChain y.gk
        let a := w.affords dl x.cls (s.part x.part).res (engineCost 0 ((x :: xs).map fun y => y.units n.core.scratch).sum)
        (a = none → exec (.engineAdmission p .sluice) s = .next s) ∧
        ∀ w', a = some w' → ∃ t, exec (.engineAdmission p .sluice) s = .next t ∧
          only t { n with pw := w', core := { n.core with squeue := rest, sready := n.core.sready ++ x :: xs } }) ∧
      (∀ q c rest g, tgetD n.core.arrays q [] = c :: rest → s.group p c.slot = some g → c.opc ≠ 0xA8 → c.admitted = false → c.awaits g = false →
        c.blockOk = true → c.headOk g.mx = true →
        let a := w.affords ((c :: rest).any fun y => s.holdsChain y.gk) c.cls (s.part c.part).res (engineCost (c.price g.mx n.core.scratch).1 (c.price g.mx n.core.scratch).2)
        (a = none → exec (.engineAdmission p (.array q)) s = .next s) ∧
        ∀ w', a = some w' → ∃ t, exec (.engineAdmission p (.array q)) s = .next t ∧
          only t { n with pw := w', core := { n.core with arrays := tput n.core.arrays q ({ c with admitted := true } :: rest) } }) ∧
      (∀ k c, n.core.gfx[k]? = some c → c.admitted = false → (∀ y ∈ n.core.gfx, y.gk = c.gk → c.issue ≤ y.issue) →
        let dl := s.holdsChain c.gk || (n.core.gfx.drop (k + 1)).any fun y => s.holdsChain y.gk
        let a := w.affords dl c.cls (s.part c.part).res (engineCost (s.gfxPrice p c).1 (s.gfxPrice p c).2)
        (a = none → exec (.engineAdmission p (.graphics k)) s = .next s) ∧
        ∀ w', a = some w' → ∃ t, exec (.engineAdmission p (.graphics k)) s = .next t ∧
          only t { n with pw := w', core := { n.core with gfx := n.core.gfx.set k { c with admitted := true } } })) ∧
    (let m : Int := ((w.metered + 255) / 256 + w.carry : Nat)
     let net : Int := w.refill - m
     let gain : Int := max net (s.floorOf p)
     (s.clock.nanos / 1000 ≤ w.tick → exec (.energyTick p) s = .next s) ∧
     (w.tick < s.clock.nanos / 1000 → ∃ deficit, ((deficit : Nat) : Int) = (w.deficit + (gain - net)) % 2 ^ 32 ∧
       power (.energyTick p) { w with bal := min (w.bal + gain) 65536, carry := 0, metered := 0, deficit := deficit,
                                      history := (net :: w.history).take 64, tick := w.tick + 1 })) ∧
    ((s.clock.nanos / 64000 ≤ s.planTick → exec .plannerRecompute s = .next s) ∧
     (s.planTick < s.clock.nanos / 64000 → tSorted s.parts = true → ∃ (t : State) (u : Nat → Nat), exec .plannerRecompute s = .next t ∧ t.planTick = s.planTick + 1 ∧ t.mem = s.mem ∧
       (∀ a x k, tget s.parts a = some x → k < 192 → x.pans.testBit k = true → (∀ b y, tget s.parts b = some y → y.pans.testBit k = true → b = a) →
         let count := ((List.range 192).filter fun j => x.pans.testBit j).length
         let r : Int := ((x.share : Int) - (u a : Nat)) * 1000 / count
         (((t.pan k).pw.refill : Nat) : Int) = (if x.floor < 2 ^ 16 then min (max r x.floor) 65535 else ((t.pan k).pw.refill : Int)) ∧
         (t.pan k).pbud = (if s.panChain k then 0xFFFF else Nat.max 1 ((t.pan k).pw.refill / 4)) ∧ (t.pan k).core = (s.pan k).core ∧
         (t.pan k).pw = { (s.pan k).pw with refill := (t.pan k).pw.refill }) ∧
       ∀ k, (∀ a x, tget s.parts a = some x → x.pans.testBit k = false) → t.pan k = s.pan k)) ∧
    (let floor := s.fllFloor p
     let chain := s.panChain p
     let held := s.panChain p && s.onDeadline p
     let hot := decide (s.plim < Config.packageDraw w.fllTick)
     let step (c : Nat) : Nat := if w.history.sum < 0 ∧ floor < c ∧ held = false then c - 1
       else if ((8 * w.refill : Nat) : Int) ≤ w.history.sum ∧ c < Nat.max w.tgt floor then c + 1 else c
     let cool (c : Nat) : Nat := if hot = true ∧ chain = false ∧ floor < c then c - 1 else c
     (s.clock.nanos / 64000 ≤ w.fllTick → exec (.fllStep p) s = .next s) ∧
     (w.fllTick < s.clock.nanos / 64000 → floor ≤ w.cur → w.cur ≤ Nat.max w.tgt floor →
       power (.fllStep p) { w with cur := cool (step w.cur), fllTick := w.fllTick + 1 }) ∧
     (w.fllTick < s.clock.nanos / 64000 → ∃ c, floor ≤ c ∧ (held = true → w.cur ≤ c) ∧ (chain = false → c ≤ Nat.max w.tgt floor) ∧
       power (.fllStep p) { w with cur := c, fllTick := w.fllTick + 1 })) ∧
    (∀ part, let x := s.part part
      (s.clock.nanos / 1000000 ≤ x.dlrMs → exec (.deadlineReserveRefill part) s = .next s) ∧
      (x.dlrMs < s.clock.nanos / 1000000 → ∃ t, exec (.deadlineReserveRefill part) s = .next t ∧ t = { s with parts := t.parts } ∧
        (∀ j, j ≠ part → t.part j = s.part j) ∧ t.part part = { x with dlr := Nat.min (x.dlr + x.dlRef) (4 * x.dlRef), dlrMs := x.dlrMs + 1 })) ∧
    (let quiet := n.core.groups = [] ∧ n.core.squeue = [] ∧ n.core.sready = [] ∧ n.core.sluices = [] ∧ n.core.asm = [] ∧
       (∀ e ∈ n.core.arrays, e.2 = []) ∧ n.core.rqueue = [] ∧ n.core.gfx = [] ∧ n.rake.visits = [] ∧ n.rake.claims = []
     (¬ quiet ∨ s.clock.nowNs < w.idle + 2000 → exec (.panGate p) s = .next s) ∧
     (quiet → n.off = false → w.idle + 2000 ≤ s.clock.nowNs → power (.panGate p) { w with gated := true })) ∧
    (∀ k tm, s.team p k = some tm → k < 8 →
      let part := s.part tm.part
      let x := n.preempt k
      let seals (i : Instr) (cause : SealCause) : Prop := ∃ t, exec i s = .next t ∧ SealBegins s t p k tm cause
      let owns := part.pans.testBit p = true
      (tm.cls = 3 → s.holdsChain (gkeyOf tm 0) = false → n.off = false → s.panChain p = false → s.joinedOf tm = [] → x.sealing = none →
        (x.work + 10000 ≤ s.clock.nowNs → (∀ e ∈ n.core.groups, e.2.team = k → ∀ u ∈ e.2.th, u.2.st = .exited ∨
            ∃ a b c d, u.2.park = some (.bar a b c d)) → seals (.teamIdleSeal p k) .idle) ∧
        (s.clock.nowNs < x.work + 10000 → exec (.teamIdleSeal p k) s = .next s)) ∧
      (tm.cls ≠ 3 ∨ s.holdsChain (gkeyOf tm 0) = true → exec (.teamIdleSeal p k) s = .next s) ∧
      (owns → x.sealing = none →
        (part.dtmo = 0 → seals (.schedDrain tm.part p k false) .host) ∧
        (part.dtmo ≠ 0 → ∃ t, exec (.schedDrain tm.part p k false) s = .next t ∧ t = { s with pans := t.pans } ∧ (∀ j, j ≠ p → t.pan j = s.pan j) ∧
          (t.pan p).core = n.core ∧ (t.pan p).preempt k = { x with drain := some (x.drain.getD s.clock.nowNs) }) ∧
        seals (.schedSeal tm.part p k false) .host ∧
        (∃ t, exec (.schedTeardown tm.part p k false) s = .next t ∧ TeamLost s t p k tm)) ∧
      (owns → x.sealing ≠ none →
        exec (.schedDrain tm.part p k false) s = .next s ∧ exec (.schedSeal tm.part p k false) s = .next s ∧
        ∃ t, exec (.schedTeardown tm.part p k false) s = .next t ∧ t.mem = s.mem ∧ (t.pan p).core = n.core ∧
          (t.pan p).preempt k = { x with held := true }) ∧
      (∀ q, tm.part ≠ q ∨ ¬ owns → exec (.schedDrain q p k false) s = .next s ∧ exec (.schedSeal q p k false) s = .next s ∧
        exec (.schedTeardown q p k false) s = .next s) ∧
      (∀ q sld, exec (.schedDrain q p k true) s = .next s ∧ exec (.schedSeal q p k true) s = .next s ∧
        (sld = false → exec (.schedRestore q p k sld) s = .next s)) ∧
      (∀ t0, x.drain = some t0 → x.sealing = none →
        (s.clock.nowNs < t0 + 1000 * part.dtmo → exec (.drainTimeout p k) s = .next s) ∧
        (t0 + 1000 * part.dtmo ≤ s.clock.nowNs → seals (.drainTimeout p k) .host)) ∧
      (∀ t0 cause, x.sealing = some (t0, cause) →
        (s.clock.nowNs < t0 + 50000 → exec (.sealTimeout p k) s = .next s) ∧
        (t0 + 50000 ≤ s.clock.nowNs → ∃ t, exec (.sealTimeout p k) s = .next t ∧ TeamLost s t p k tm) ∧
        (n.off = false → (s.asSlot tm.part tm.slot).torn = true → ∃ t, exec (.contextSealed p k) s = .next t ∧ TeamLost s t p k tm) ∧
        (n.off = false → (s.asSlot tm.part tm.slot).torn = false → n.undo = [] → n.core.working tm (cause != .fenced) = false →
          s.savesYet p tm = false → (x.held = true → ∃ t, exec (.contextSealed p k) s = .next t ∧ TeamLost s t p k tm) ∧
          (x.held = false → ∃ t c, exec (.contextSealed p k) s = .next t ∧ t.mem = s.mem ∧ t.contexts = s.contexts ++ [c] ∧ t.grids = s.grids ∧
            c.pan = p ∧ c.team = k ∧ c.cause = cause ∧ c.tm = tm ∧ (c.go = true ↔ cause = .admission ∨ cause = .fenced) ∧ c.target = none ∧ c.bad = false ∧
            c.groups = n.core.groups.filter (fun e => e.2.team == k) ∧
            (tSorted n.core.scratch = true → ∀ a, a < tm.size → mget c.scratch a = mget n.core.scratch (tm.base + a)) ∧
            (∀ j, j < 8 → tget c.sems j = tget n.core.sems (8 * k + j)) ∧ (∀ j, j < 8 → tget c.rings j = tget n.core.rings (8 * k + j)) ∧
            t.team p k = none ∧ (∀ j, j ≠ k → t.team p j = s.team p j) ∧ (∀ j h, t.group p j = some h → h.team ≠ k) ∧
            ∀ j g, tSorted n.core.groups = true → s.group p j = some g → g.team ≠ k → ∃ h, t.group p j = some h ∧ SamePlace h g))) ∧
      (let hung := part.wdog ≠ 0 ∧ x.sealing = none ∧ x.drain = none ∧ x.work + 1000 * part.wdog ≤ s.clock.nowNs
       (¬ hung → exec (.watchdogExpiry p k) s = .next s) ∧
       (hung → ∃ t, exec (.watchdogExpiry p k) s = .next t ∧ t.mem = s.mem ∧
         (t.pan p).core = { n.core with groups := (t.pan p).core.groups } ∧
         (t.pan p).preempt k = { x with drain := none, sealing := some (s.clock.nowNs, .hung) } ∧
         ∃ e ∈ (t.conn tm.part 0).sent, e.x = .notice (.hung p k)))) ∧
    (∀ part k, let named := (s.contexts.zipIdx.filter fun e => e.1.pan == p && e.1.team == k && e.1.tm.part == part).getLast?
      ((s.part part).pans.testBit p = false ∨ named = none → exec (.schedTeardown part p k true) s = .next s ∧
        exec (.schedRestore part p k true) s = .next s) ∧
      ((s.part part).pans.testBit p = true → p < 192 → ∀ x i, named = some (x, i) →
        (∃ t, exec (.schedTeardown part p k true) s = .next t ∧ t.mem = s.mem ∧ t.contexts = s.contexts.eraseIdx i ∧ GridCancelled s t x.tm) ∧
        ∃ t, exec (.schedRestore part p k true) s = .next t ∧ t = { s with contexts := t.contexts } ∧
          t.contexts = s.contexts.set i { x with go := x.go || x.cause == .host || x.cause == .hung })) ∧
    (∀ idx x k base xs, s.restorable idx p = some (x, k, base, xs) →
      (x.bad = true → ∃ t, exec (.contextRestore idx p) s = .next t ∧ t.mem = s.mem ∧ t.contexts = s.contexts.eraseIdx idx ∧ GridCancelled s t x.tm) ∧
      (x.bad = false → (∀ r ∈ s.receipts, r.gk.team_ ≠ gkeyOf x.tm 0) → ∃ t, exec (.contextRestore idx p) s = .next t ∧ t.mem = s.mem ∧
        t.contexts = s.contexts.eraseIdx idx ∧ (∀ j, j ≠ p → (t.pan j).core.teams = (s.pan j).core.teams) ∧
        t.team p k = some { x.tm with base := base } ∧ s.team p k = none ∧ (x.pan = p → x.cause ≠ .fenced → x.target = none → k = x.team) ∧
        ((x.scratch.map (·.1)).Nodup → (∀ e ∈ x.scratch, e.1 < x.tm.size) →
          (∀ a, a < x.tm.size → mget (t.pan p).core.scratch (base + a) = mget x.scratch a) ∧
          ∀ a, a < base ∨ base + x.tm.size ≤ a → mget (t.pan p).core.scratch a = mget n.core.scratch a) ∧
        ((xs.map (·.slot)).Nodup → n.core.held = [] → (∀ r ∈ s.eventReceipts, r.1.team_ ≠ gkeyOf x.tm 0) → ∀ y ∈ xs, ∀ e, x.groups.find? (fun e => e.2.num == y.num) = some e →
          ∃ h, t.group p y.slot = some h ∧ h.team = k ∧ h.num = e.2.num ∧ h.run = e.2.run ∧ h.ctr = e.2.ctr ∧ h.issues = e.2.issues ∧ h.g = e.2.g ∧
            (e.2.st ≠ .faultw → h.st = e.2.st) ∧ h.th.map (·.1) = e.2.th.map (·.1) ∧
            ∀ l a b, e.2.thread l = some a → h.thread l = some b → b.v = a.v ∧ b.p = a.p ∧ b.addr = a.addr ∧ b.entry = a.entry ∧ b.flags = a.flags))) ∧
    ∀ idx j k tm y, s.contexts.length ≤ idx → s.joined[idx - s.contexts.length]? = some j →
      n.core.teams.find? (fun t => gkeyOf t.2 0 == j.gk.team_) = some (k, tm) →
      (j.g.children ≠ 0 ∨ n.off = true → exec (.contextRestore idx p) s = .next s) ∧
      (j.g.children = 0 → n.off = false → n.undo = [] → n.isSealing k = false →
        seatAll n.fen n.seats [(j.g.num, j.g.role)] tm.budget (freshSlots k) = some [y] → (∀ r ∈ s.receipts, r.gk ≠ j.gk) →
        ∃ t h, exec (.contextRestore idx p) s = .next t ∧ t.mem = s.mem ∧ t.joined = s.joined.eraseIdx (idx - s.contexts.length) ∧
          t.group p y.slot = some h ∧ h.team = k ∧ h.num = j.g.num ∧ h.issues = j.g.issues ∧ h.ctr = j.g.ctr ∧ h.g = j.g.g)

/-! ## Translation, shootdowns and transform ports -/

/-- R46, R49: a range lies wholly in asset memory or wholly in the brine window, in extents of the partition. -/
def InOwned (s : State) (part lo len : Nat) : Prop :=
  (lo + len ≤ 2 ^ 39 ∨ (2 ^ 40 ≤ lo ∧ lo + len ≤ 2 ^ 40 + 2 ^ 30)) ∧
  ∀ a, lo ≤ a → a < lo + len → tget s.pmOwn (if a < 2 ^ 39 then a / 2 ^ 32 else 128 + (a - 2 ^ 40) / 2 ^ 28) = some part

/-- R51: an entry with V 1 and P 1 is well-formed at a level. -/
def EntryGood (s : State) (part e level : Nat) : Prop :=
  let size := bitsOf e 9 3
  let frame := bitsOf e 12 40 * 4096
  let len := [0, 4096, 2 ^ 16, 2 ^ 21, 2 ^ 28, 2 ^ 32].getD size 0
  let codec := bitsOf e 60 4
  let brine := 2 ^ 40 ≤ frame ∧ frame < 2 ^ 40 + 2 ^ 30
  bitsOf e 2 4 = 0 ∧ bitsOf e 52 4 = 0 ∧
  (size = 0 → 1 ≤ level ∧ bitsOf e 56 8 = 0 ∧ bitsOf e 6 3 = 0 ∧ InOwned s part frame 4096) ∧
  (size ≠ 0 → (level, size) ∈ [(0, 1), (0, 2), (1, 3), (1, 4), (2, 5)] ∧ frame % len = 0 ∧
    (InOwned s part frame len ∨ (2 ^ 41 ≤ frame ∧ frame + len ≤ 2 ^ 41 + 18 * 2 ^ 24 ∧
      ∀ w, 2 ≤ w → 2 ^ 41 + w * 2 ^ 24 < frame + len → frame < 2 ^ 41 + (w + 1) * 2 ^ 24 → tget s.sideOwn (w - 2) = some part)) ∧
    (bitOf e 57 = true ↔ brine) ∧ (frame < 2 ^ 39 → codec ≤ 3) ∧ (brine → codec = 0 ∨ codec = 2 ∨ codec = 3) ∧ (2 ^ 41 ≤ frame → codec = 0) ∧
    (bitOf e 7 = true → bitOf e 6 = true))

/-- R53: what a walk of an address returns, from a table at a level. -/
inductive Walked (s : State) (part va : Nat) : Nat → Nat → WalkRes → Prop where
  | corrupt (l table pa) : pa = table + 8 * (va / 2 ^ (12 + 9 * l) % (if l = 4 then 256 else 512)) → s.badLine pa = true →
      Walked s part va l table (.dataError pa)
  | stops (l table pa e r) : pa = table + 8 * (va / 2 ^ (12 + 9 * l) % (if l = 4 then 256 else 512)) → s.badLine pa = false →
      e = mnat s.mem pa 8 →
      (bitOf e 0 = false ∧ r = .fault 1 l e) ∨ (bitOf e 0 = true ∧ bitOf e 1 = false ∧ r = .fault 0 l e) ∨
        (bitOf e 0 = true ∧ bitOf e 1 = true ∧ ¬ EntryGood s part e l ∧ r = .fault 2 l e) ∨
        (bitOf e 0 = true ∧ bitOf e 1 = true ∧ EntryGood s part e l ∧ bitsOf e 9 3 ≠ 0 ∧ r = .leaf e l) →
      Walked s part va l table r
  | down (l table pa e r) : pa = table + 8 * (va / 2 ^ (12 + 9 * (l + 1)) % (if l + 1 = 4 then 256 else 512)) → s.badLine pa = false →
      e = mnat s.mem pa 8 → bitOf e 0 = true → bitOf e 1 = true → EntryGood s part e (l + 1) → bitsOf e 9 3 = 0 →
      Walked s part va l (bitsOf e 12 40 * 4096) r → Walked s part va (l + 1) table r

/-- Where a walk of a pan begins (R53, R57): at the lowest pointer that its walk cache holds for the address, else at the root, which
must lie in a table of the partition, at either. -/
def WalkOf (s : State) (p part slot va : Nat) (r : WalkRes) : Prop :=
  let cache := (s.pan p).walkCache
  let a := s.asSlot part slot
  let hit (t : TlbEntry) : Prop := t.asid = part * 16 + slot ∧ t.va ≤ va ∧ va < t.va + t.len
  (¬ InOwned s part a.root 4096 ∧ r = .fault 2 4 (a.en.toNat * 2 ^ 63 + a.torn.toNat * 2 ^ 62 + a.root)) ∨
  (InOwned s part a.root 4096 ∧ (((∀ t ∈ cache, ¬ hit t) ∧ Walked s part va 4 a.root r) ∨
    ∃ t ∈ cache, hit t ∧ (∀ u ∈ cache, hit u → u = t ∨ t.level < u.level) ∧
      Walked s part va (t.level - 1) (bitsOf t.entry 12 40 * 4096) r))

/-- What an invalidation covers (R61): entries of its range, of its slot, or of its partition. -/
def Shoots (x : XinvCmd) (part a lo len : Nat) : Bool :=
  if x.kind = 0 then decide (a = part * 16 + x.slot) && decide (lo < x.va + x.len) && decide (x.va < lo + len)
  else if x.kind = 1 then decide (a = part * 16 + x.slot) else decide (a / 16 = part)

/-- R71: the code length of a symbol in a section of a coding table. -/
def symLen (tables : Memory) (t k y : Nat) : Nat :=
  let b := (mget tables (512 * t + 128 * k + y / 2)).toNat
  if y % 2 = 0 then b % 16 else b / 16

/-- R71: no section of a table oversubscribes the code space. -/
def TableFits (tables : Memory) (t : Nat) : Prop :=
  ∀ k, k < 4 → ((List.range 256).map fun y => if symLen tables t k y = 0 then 0 else 2 ^ (15 - symLen tables t k y)).sum ≤ 2 ^ 15

/-- R71: the bits of a symbol's canonical code, the most significant first. -/
def symBits (tables : Memory) (t k y : Nat) : List Bool :=
  let n := symLen tables t k
  let code := ((List.range 256).map fun z => if n z ≠ 0 ∧ (n z < n y ∨ (n z = n y ∧ z < y)) then 2 ^ (n y - n z) else 0).sum
  (List.range (n y)).map fun i => bitOf code (n y - 1 - i)

/-- R70: how a plane is stored. -/
def PlaneStored (tables : Memory) (t k : Nat) (ys : List Nat) (raw : Bool) (bs : List Byte) : Prop :=
  if raw then bs = ys.map (BitVec.ofNat 8)
  else (∀ y ∈ ys, symLen tables t k y ≠ 0) ∧ ∃ body pad, bs = bytesOf body.length 2 ++ body ∧ pad < 8 ∧
    (body.flatMap fun (b : Byte) => (List.range 8).map b.getLsbD) = ys.flatMap (symBits tables t k) ++ List.replicate pad false

/-- R69: bytes of an element. -/
def elemBytes (efmt : Nat) : Nat := [1, 2, 2, 4, 1, 1, 1, 8, 2, 4].getD efmt 1

/-- R70, R72: the payload that stands for 4096 expanded bytes. -/
def PayloadOf (tables : Memory) (codec efmt t raw : Nat) (bytes payload : List Byte) : Prop :=
  let w := elemBytes efmt
  let n := 4096 / w
  if codec = 1 then raw < 2 ^ w ∧ ∃ planes : List (List Byte), planes.length = w ∧ payload = planes.flatten ∧
    ∀ k p, planes[k]? = some p → PlaneStored tables t k ((List.range n).map fun j => (bytes.getD (w * j + k) 0).toNat) (bitOf raw k) p
  else
    let e (j : Nat) : Nat := ofBytes ((bytes.drop (w * j)).take w)
    let x (j : Nat) : Nat := if j = 0 then e 0 else e j ^^^ e (j - 1)
    let sig (j : Nat) : Nat := ((List.range 9).find? fun m => decide (x j < 256 ^ m)).getD 0
    payload = (List.range (n / 2)).map (fun m => BitVec.ofNat 8 (sig (2 * m) + 16 * sig (2 * m + 1))) ++
      (List.range n).flatMap fun j => bytesOf (x j) (sig j)

/-- R67 to R74: what a slot holds, the 4096 expanded bytes of its block or the cause of its block fault. -/
def BlockSays (tables : Memory) (codec : Nat) (slot : List Byte) (r : Except Nat (List Byte)) : Prop :=
  let h (o n : Nat) : Nat := ofBytes ((slot.drop o).take n)
  let efmt := h 2 1 % 16
  let t := h 3 1 / 16
  let header := h 0 2 = 0x5A4B ∧ h 2 1 / 16 = codec ∧
    efmt ∈ (if codec = 1 then [0, 1, 2, 3, 4, 5, 6, 8, 9] else [1, 2, 3, 7, 8, 9]) ∧ h 4 2 = 4096 ∧ 16 ≤ h 6 2 ∧ h 6 2 ≤ 4096 ∧ h 8 4 = 0 ∧
    (codec = 2 → h 3 1 = 0)
  let tabled := codec = 1 → TableFits tables t
  let is (bytes : List Byte) : Prop := bytes.length = 4096 ∧
    PayloadOf tables codec efmt t (h 3 1 % 16) bytes ((slot.drop 16).take (h 6 2 - 16))
  match r with
  | .ok bytes => header ∧ tabled ∧ is bytes ∧ crc32c bytes = h 12 4
  | .error c => (c = 1 ∧ ¬ header) ∨ (c = 2 ∧ header ∧ ¬ tabled) ∨ (c = 3 ∧ header ∧ tabled ∧ ∀ bytes, ¬ is bytes) ∨
      (c = 4 ∧ header ∧ tabled ∧ ∃ bytes, is bytes ∧ crc32c bytes ≠ h 12 4)

/-- R73, R79: what a port reads for a block, its overflow entry where one holds it, else its slot. -/
def PortReads (s : State) (part codec pa : Nat) (r : Except Nat (List Byte)) : Prop :=
  match s.overflow.find? fun o => o.pa == pa with
  | some o => r = .ok o.bytes
  | none => BlockSays (s.part part).codeTables codec (mread s.mem pa 4096) r

/-- R78: the coded form of 4096 expanded bytes. -/
def Recompressed (tables : Memory) (codec efmt t : Nat) (bytes coded : List Byte) : Prop :=
  let w := elemBytes efmt
  let n := 4096 / w
  ∃ raw payload, PayloadOf tables codec efmt t raw bytes payload ∧ (codec ≠ 1 → raw = 0) ∧
    (codec = 1 → ∀ k, k < w →
      let ys := (List.range n).map fun j => (bytes.getD (w * j + k) 0).toNat
      (bitOf raw k = false ↔ (∀ y ∈ ys, symLen tables t k y ≠ 0) ∧ 2 + ((ys.map (symLen tables t k)).sum + 7) / 8 < n)) ∧
    coded = bytesOf 0x5A4B 2 ++ bytesOf (codec * 16 + efmt) 1 ++ bytesOf ((if codec = 1 then t else 0) * 16 + raw) 1 ++ bytesOf 4096 2 ++
      bytesOf (16 + payload.length) 2 ++ bytesOf 0 4 ++ bytesOf (crc32c bytes) 4 ++ payload

/-- R65: the kind and number of a block's port. -/
def portFor (pa : Nat) : Nat × Nat :=
  if 2 ^ 40 ≤ pa ∧ pa < 2 ^ 40 + 2 ^ 30 then (1, bitsOf pa 12 2) else (0, bitsOf pa 12 6 ^^^ bitsOf pa 18 6)

/-- R78, R90: the bytes of a line of a block on its way that stand over those of its slot: all of a line that is dirty in the Saltern, or
was when it left its way, and else those that the write-merge buffer holds. -/
def dirtyMask (s : State) (part : Nat) (o : BlockOut) (line : Nat) : BitVec 128 :=
  let b := s.bed (homeBed line)
  if o.lines.contains line || (match wayFind (tgetD b.sets (setOf line) []) part line true with
    | some (_, w) => w.st == .dirty || w.st == .pinned
    | none => false) then BitVec.allOnes 128
  else ((b.mergeOf line true).map (·.mask)).getD 0

/-- R65 to R83: fills, write-backs, overflow entries and commands, coding tables, retries after block faults, and the dictionary, where
nothing makes their accesses wait. -/
def Obligations.TransformPorts : Prop :=
  ∀ (s : State),
    (∀ (kind : PortKind) port,
      let num : Nat := match kind with
        | .asset => 0
        | .brine => 1
        | .side => 2
      let next := s.blockFills.find? fun f => portFor f.pa == (num, port) && !s.backing f.pa
      (next = none → exec (.portFillComplete kind port) s = .next s) ∧
      ∀ f, next = some f → s.wants = [] → f.pa % 4096 = 0 → f.codec = 1 ∨ f.codec = 2 → f.waiters.Nodup → tSorted s.pans = true →
        (∀ p, tSorted (s.pan p).core.groups = true) →
        (∀ b k, ∀ e ∈ tgetD (s.bed b).sets k [], homeBed e.2.line = b ∧ setOf e.2.line = k ∧ (e.2.cx = true → e.2.st ≠ .filling)) →
        (∀ a ∈ f.asks, s.wayMask (homeBed a.1) f.part ≠ 0 →
          (chooseVictim (s.pinWays (tgetD (s.bed (homeBed a.1)).sets (setOf a.1) [])) (s.wayMask (homeBed a.1) f.part)).isSome = true) →
        ∀ r, PortReads s f.part f.codec f.pa r →
        ∃ t cause, exec (.portFillComplete kind port) s = .next t ∧ t.mem = s.mem ∧
          (t.blockFills = s.blockFills.filter fun g => !(g.pa == f.pa && g.part == f.part)) ∧
          (∀ gk ∈ f.waiters, ∀ p k g tm, s.findGroup gk = some (p, k, g, tm) → t.group p k = some { g with blocks := g.blocks ++ [(f.pa, cause)] }) ∧
          (∀ p k, (∀ gk ∈ f.waiters, ∀ g tm, s.findGroup gk ≠ some (p, k, g, tm)) → t.group p k = s.group p k) ∧
          (∀ c, r = .error c → cause = some c ∧ t.xmem = s.xmem) ∧
          (∀ bytes, r = .ok bytes → bytes.length = 4096 → ∀ j, j < 4096 →
            let line := f.pa + j / 128 * 128
            let way (u : State) : Option (Nat × Way) := wayFind (tgetD (u.bed (homeBed line)).sets (setOf line) []) f.part line true
            let kept := (((s.bed (homeBed line)).mergeOf line true).map (·.mask)).getD 0
            (s.lineHeld f.part line = true ∨ kept.getLsbD (j % 128) = true ∨ way t = none → mget t.xmem (f.pa + j) = mget s.xmem (f.pa + j)) ∧
            (s.lineHeld f.part line = false → kept.getLsbD (j % 128) = false → (way t).isSome = true →
              bytes[j]? = some (mget t.xmem (f.pa + j))) ∧
            (∀ a ∈ f.asks, a.1 = line → a.2.1 ≠ 3 → s.wayMask (homeBed line) f.part ≠ 0 → t.lineHeld f.part line = true)) ∧
          (∀ bytes, r = .ok bytes → cause = none)) ∧
    (∀ part pa,
      let out := s.blockOuts.find? fun o => o.pa == pa && o.part == part
      let tables := (s.part part).codeTables
      let full := 32 ≤ (s.overflow.filter fun o => (o.kind, o.port) == portFor pa).length
      (out = none → exec (.codedWriteback part pa) s = .next s) ∧
      ∀ o r, out = some o → pa % 4096 = 0 → pa < 2 ^ 52 → o.codec = 1 ∨ o.codec = 2 → PortReads s part o.codec pa r →
        (∀ c, r = .error c → exec (.codedWriteback part pa) s = .next s) ∧
        ∀ bytes, r = .ok bytes → bytes.length = 4096 →
          let merged := (List.range 4096).map fun j =>
            if (dirtyMask s part o (pa + j / 128 * 128)).getLsbD (j % 128) then mget s.xmem (pa + j) else bytes.getD j 0
          let gone (t : State) : Prop := (∀ a, mget t.xmem a = mget s.xmem a ∨ (pa ≤ a ∧ a < pa + 4096 ∧ mget t.xmem a = merged.getD (a - pa) 0)) ∧
            (∀ x ∈ t.blockOuts, x.pa ≠ pa) ∧ (∀ x ∈ s.blockOuts, x.pa ≠ pa → ∃ y ∈ t.blockOuts, y.pa = x.pa ∧ y.part = x.part) ∧
            ∀ k i w, k < 32 → wayFind (tgetD (t.bed (homeBed (pa + 128 * k))).sets (setOf (pa + 128 * k)) []) part (pa + 128 * k) true = some (i, w) →
              w.st ≠ .dirty ∧ w.st ≠ .pinned
          (full → exec (.codedWriteback part pa) s = .next s) ∧
          ((∃ e ∈ s.overflow, e.pa = pa) → ¬ full → ∃ t, exec (.codedWriteback part pa) s = .next t ∧ t.mem = s.mem ∧ gone t ∧
            t.overflow = s.overflow.map fun (e : Overflow) =>
              if e.pa = pa then { e with bytes := merged, moved := false, id := if e.moved then o.id else e.id } else e) ∧
          ((∀ e ∈ s.overflow, e.pa ≠ pa) → ∀ coded,
            Recompressed tables o.codec ((mget s.mem (pa + 2)).toNat % 16) ((mget s.mem (pa + 3)).toNat / 16) merged coded →
            (coded.length ≤ 4096 → ¬ full → ∃ t, exec (.codedWriteback part pa) s = .next t ∧ gone t ∧ t.mem = mwrite s.mem pa coded ∧
              t.overflow = s.overflow ∧ t.durable = if isBrine pa then mwrite s.durable pa coded else s.durable) ∧
            (4096 < coded.length → ¬ full → ∃ t k rec_ more, exec (.codedWriteback part pa) s = .next t ∧ gone t ∧ t.mem = s.mem ∧ k < 32 ∧
              (∀ e ∈ s.overflow, (e.kind, e.port) = portFor pa → e.entry ≠ k) ∧
              (∀ j, j < k → ∃ e ∈ s.overflow, (e.kind, e.port) = portFor pa ∧ e.entry = j) ∧
              (let held : Overflow :=
                 { id := o.id, kind := (portFor pa).1, port := (portFor pa).2, entry := k, pa := pa, part := part, codec := o.codec, bytes := merged }
               t.overflow = s.overflow ++ [held]) ∧
              (t.part part).xpr.wait = (s.part part).xpr.wait ++ rec_ :: more ∧
              let f (r : List Byte) (o n : Nat) : Nat := ofBytes ((r.drop o).take n)
              let place := (portFor pa).1 * 2 ^ 22 + (portFor pa).2 * 2 ^ 16
              rec_.length = 32 ∧ f rec_ 0 4 = place + k * 2 ^ 4 ∧ f rec_ 4 4 = coded.length * 2 ^ 16 ∧ f rec_ 8 8 = pa ∧ f rec_ 16 16 = 0 ∧
              (more = [] ↔ (s.overflow.filter fun o => (o.kind, o.port) == portFor pa).length < 31) ∧
              ∀ x ∈ more, more = [x] ∧ x.length = 32 ∧ f x 0 4 = 2 * 2 ^ 28 + place ∧ f x 4 4 = 0 ∧ f x 8 8 = pa ∧ f x 16 16 = 0))) ∧
    (∀ part k off bytes,
      (k < 16 ∧ off + bytes.length ≤ 512 → ∃ t, exec (.xprTblWrite part k off bytes) s = .next t ∧ t = { s with parts := t.parts } ∧
        (∀ j, j ≠ part → t.part j = s.part j) ∧
        t.part part = { s.part part with codeTables := mwrite (s.part part).codeTables (512 * k + off) bytes }) ∧
      (¬ (k < 16 ∧ off + bytes.length ≤ 512) → exec (.xprTblWrite part k off bytes) s = .next s)) ∧
    (∀ part (kind : PortKind) port entry, s.wants = [] →
      let num : Nat := match kind with
        | .asset => 0
        | .brine => 1
        | .side => 2
      let named (o : Overflow) : Bool := o.part == part && o.kind == num && o.port == port && o.entry == entry
      let at_ := s.overflow.find? named
      let done (t : State) : Prop := (t.part part).ovfDone = ((s.part part).ovfDone + 1) % 2 ^ 16
      let pa := (s.part part).ovfPa
      let freed (t : State) : Prop := t.overflow = s.overflow.filter fun e => !(e.kind == num && e.port == port && e.entry == entry)
      (at_ = none → ∀ ev ∈ [Instr.overflowMove part kind port entry, .overflowRelease part kind port entry, .overflowRetry part kind port entry],
        exec ev s = .next s) ∧
      ∀ o, at_ = some o →
        (¬ InOwned s part pa 4096 → exec (.overflowMove part kind port entry) s = .next s) ∧
        (InOwned s part pa 4096 → pa % 4096 = 0 → o.bytes.length = 4096 → NoWindows s → (∀ line, s.shut line 0 = false) →
          (∀ b ∈ s.beds, b.2.merge.length + 32 ≤ 2048) → ∃ t,
          exec (.overflowMove part kind port entry) s = .next t ∧ t.mem = mwrite s.mem pa o.bytes ∧ done t ∧
          t.overflow = s.overflow.map fun (e : Overflow) => if named e then { e with moved := true } else e) ∧
        (∃ t, exec (.overflowRelease part kind port entry) s = .next t ∧ t.mem = s.mem ∧ freed t ∧ done t) ∧
        ∀ coded, o.codec = 1 ∨ o.codec = 2 → Recompressed (s.part part).codeTables o.codec ((mget s.mem (o.pa + 2)).toNat % 16)
            ((mget s.mem (o.pa + 3)).toNat / 16) o.bytes coded → o.bytes.length = 4096 →
          (coded.length ≤ 4096 → ∃ t, exec (.overflowRetry part kind port entry) s = .next t ∧ t.mem = mwrite s.mem o.pa coded ∧ freed t ∧ done t ∧
            t.durable = if isBrine o.pa then mwrite s.durable o.pa coded else s.durable) ∧
          (4096 < coded.length → ∃ t, exec (.overflowRetry part kind port entry) s = .next t ∧ t = { s with parts := t.parts } ∧ done t)) ∧
    (∀ part slot, ∃ t, exec (.xprRetry part slot) s = .next t ∧ t = { s with pans := t.pans } ∧
      ∀ p,
        let mine (g : Group) : Prop := ∃ tm, tget (s.pan p).core.teams g.team = some tm ∧ tm.part = part ∧ tm.slot = slot
        (∀ k g, s.group p k = some g →
          (g.st = .faultw ∧ g.blockWait = true ∧ mine g ∧ g.posted ≤ (s.part part).xpr.head → t.group p k = some { g with
            st := if g.run.isSome then .run else g.restState, walks := [], blocks := [], blockWait := false, readySince := s.clock.cycles }) ∧
          (¬ (g.st = .faultw ∧ g.blockWait = true ∧ mine g ∧ g.posted ≤ (s.part part).xpr.head) → t.group p k = some g)) ∧
        (∀ j va (r : SliceRun), tget (s.pan p).core.sluices j = some r → r.st = .block va →
          tget (t.pan p).core.sluices j = some (if r.slice.part = part ∧ r.slice.asSlot = slot then { r with st := .fresh } else r))) ∧
    (∀ part slot,
      (s.blockWaiter part slot = false → ∃ t, exec (.xprRetryFail part slot) s = .next t ∧ t = { s with pans := t.pans } ∧
        ∀ p, (∀ k, t.group p k = s.group p k) ∧ ∀ j va (r : SliceRun), tget (s.pan p).core.sluices j = some r → r.st = .block va →
          tget (t.pan p).core.sluices j = some (if r.slice.part = part ∧ r.slice.asSlot = slot then { r with st := .ended 4 va 0 } else r)) ∧
      ∀ p k g tm, s.group p k = some g → g.st = .faultw → g.blockWait = true → tget (s.pan p).core.teams g.team = some tm → tm.part = part →
        tm.slot = slot → ∃ t, exec (.xprRetryFail part slot) s = .next t ∧ t.mem = s.mem ∧ (t.asSlot part slot).torn = true) ∧
    ∀ port bytes (ident : BitVec 16), ∃ t, exec (.dictionaryLoad port bytes ident) s = .next t ∧ t.mem = s.mem ∧
      (∀ j, j < 4096 → mget (t.link port).dict j = bytes.getD j 0) ∧ (t.link port).dictId = ident.toNat ∧ (t.link port).dictOn = true ∧
      (t.link port).peerDict = (s.link port).peerDict ∧ (∀ j, j ≠ port → t.link j = s.link j) ∧
      ((s.link port).up = true → t.wire = s.wire ++ [.side port (s.link port).tx none (.dict ident)] ∧ (t.link port).tx = (s.link port).tx + 1) ∧
      ((s.link port).up = false → t.wire = s.wire ∧ (t.link port).tx = (s.link port).tx)

/-- R47, R49 to R53, R57, R58, R61, R64, R76, R77: a walk's end where its lines can be read at once, shootdowns, slot registers, and the
record rings. -/
def Obligations.WalksAndShootdowns : Prop :=
  ∀ (s : State) (p : Nat),
    let n := s.pan p
    let only (t : State) (m : Pan) : Prop := t = { s with pans := t.pans } ∧ (∀ j, j ≠ p → t.pan j = s.pan j) ∧ t.pan p = m
    (∀ idx, 8 ≤ idx ∨ n.misses[idx]? = none → exec (.walkComplete p idx) s = .next s) ∧
    (∀ idx m, idx < 8 → n.misses[idx]? = some m →
      let part := m.asid / 16
      let slot := m.asid % 16
      let va := m.vpn * 4096
      let a := s.asSlot part slot
      (m.stale = true → ∃ t, exec (.walkComplete p idx) s = .next t ∧ only t { n with misses := n.misses.set idx { m with stale := false } }) ∧
      (m.stale = false → a.torn = true ∨ a.en = false →
        ∃ t, exec (.walkComplete p idx) s = .next t ∧ only t { n with misses := n.misses.eraseIdx idx, full := [] }) ∧
      (m.stale = false → a.torn = false → a.en = true → Unhindered s p 5 0 → (∀ l ∈ s.linesOfWalk (some p) part slot va, FrontReads s part l) →
        let reads (t : State) (m : Pan) : Prop := t = { s with pans := t.pans, beds := t.beds } ∧ (∀ j, j ≠ p → t.pan j = s.pan j) ∧
          t.pan p = { m with pbal := (t.pan p).pbal, paid := (t.pan p).paid, walked := (t.pan p).walked, full := [] }
        ∀ r, WalkOf s p part slot va r →
        (∀ e l, r = .leaf e l → ∃ t,
          let len := [0, 4096, 2 ^ 16, 2 ^ 21, 2 ^ 28, 2 ^ 32].getD (bitsOf e 9 3) 0
          let new : TlbEntry := { asid := m.asid, va := va / len * len, len := len, entry := e }
          let l2 := (t.pan p).l2tlb
          let wc := (t.pan p).walkCache
          exec (.walkComplete p idx) s = .next t ∧
          reads t { n with l2tlb := l2, walkCache := wc, misses := n.misses.filter fun x =>
            !(decide (x.asid = m.asid) && decide (new.va ≤ x.vpn * 4096) && decide (x.vpn * 4096 < new.va + len)) } ∧
          new ∈ l2 ∧ (∀ x ∈ l2, x = new ∨ x ∈ n.l2tlb) ∧ 
          (let mates (l : List TlbEntry) (k : Nat) : Nat := (l.filter fun x => x.va / x.len % 512 == k).length
           ∀ k, mates n.l2tlb k ≤ 8 → mates l2 k ≤ 8) ∧ (n.walkCache.length ≤ 64 → wc.length ≤ 64) ∧
          ∀ x ∈ wc, x ∈ n.walkCache ∨ (x.asid = m.asid ∧ x.va ≤ va ∧ va < x.va + x.len ∧ bitOf x.entry 0 = true ∧ bitOf x.entry 1 = true ∧
            bitsOf x.entry 9 3 = 0)) ∧
        (∀ c l e, r = .fault c l e → ∃ t, exec (.walkComplete p idx) s = .next t ∧
          reads t { n with misses := n.misses.eraseIdx idx, core := { n.core with groups := (t.pan p).core.groups } } ∧
          ∀ k g, s.group p k = some g →
            let waits := k ∈ m.waiters ∧ ∃ tm, tget n.core.teams g.team = some tm ∧ tm.part = part ∧ tm.slot = slot
            (waits → t.group p k = some { g with walks := g.walks ++ [{ vpn := m.vpn, kind := c, level := l, entry := e }] }) ∧
            (¬ waits → t.group p k = some g)) ∧
        ∀ pa, r = .dataError pa → ∃ t, exec (.walkComplete p idx) s = .next t ∧ t.mem = s.mem ∧ (t.asSlot part slot).torn = true)) ∧
    (∀ part,
      let x := s.part part
      let only (t : State) (y : Part) : Prop := t = { s with parts := t.parts } ∧ (∀ j, j ≠ part → t.part j = s.part j) ∧ t.part part = y
      let issues (i : Instr) (c : XinvCmd) : Prop :=
        (64 ≤ x.xinvCmds.length → exec i s = .next s) ∧
        (x.xinvCmds.length < 64 → ∃ t, exec i s = .next t ∧ only t { x with
          xinvIssued := (x.xinvIssued + 1) % 2 ^ 16
          xinvCmds := x.xinvCmds ++ [{ c with todo := (List.range 192).filter fun j => x.pans.testBit j }] })
      (∀ slot pages, slot < 16 → pages < 2 ^ 24 → (pages = 0 → exec (.xinvRange part slot pages) s = .next s) ∧
        (pages ≠ 0 → issues (.xinvRange part slot pages) { kind := 0, slot := slot, va := x.xinvVa, len := pages * 4096 })) ∧
      (∀ slot, slot < 16 → issues (.xinvSlot part slot) { kind := 1, slot := slot }) ∧ issues (.xinvPartition part) { kind := 2 } ∧
      ((∀ c ∈ x.xinvCmds, p ∉ c.todo) → exec (.invalidationArrival p part) s = .next s) ∧
      (∀ pre c post, x.xinvCmds = pre ++ c :: post → (∀ d ∈ pre, p ∉ d.todo) → p ∈ c.todo → ∃ t, exec (.invalidationArrival p part) s = .next t ∧
        t = { s with parts := t.parts, pans := t.pans } ∧ (∀ j, j ≠ p → t.pan j = s.pan j) ∧ (∀ j, j ≠ part → t.part j = s.part j) ∧
        t.part part = { x with xinvCmds := pre ++ { c with todo := c.todo.filter (fun j => decide (j ≠ p)), reached := c.reached ++ [(p, s.nextId)] } :: post } ∧
        let m := t.pan p
        m = { n with l2tlb := m.l2tlb, walkCache := m.walkCache, l1tlb := m.l1tlb, decoded := m.decoded, misses := m.misses, walked := m.walked } ∧
        (m.l2tlb = n.l2tlb.filter fun e => !Shoots c part e.asid e.va e.len) ∧ (m.walkCache = n.walkCache.filter fun e => !Shoots c part e.asid e.va e.len) ∧
        (∀ q, tgetD m.l1tlb q [] = (tgetD n.l1tlb q []).filter fun e => !Shoots c part e.asid e.va e.len) ∧
        (∀ q, tgetD m.decoded q [] = (tgetD n.decoded q []).filter fun d => !Shoots c part d.asid d.addr (4 * d.words.length)) ∧
        m.misses.length = n.misses.length ∧
        ∀ i (y : Miss), n.misses[i]? = some y → m.misses[i]? = some { y with stale := y.stale || (decide (i < 8) && Shoots c part y.asid (y.vpn * 4096) 4096) }) ∧
      (x.xinvCmds = [] → exec (.xinvDone part) s = .next s) ∧
      (∀ c r, x.xinvCmds = c :: r →
        (c.todo ≠ [] ∨ (∃ e ∈ c.reached, ∃ q ∈ s.fabric, q.pan = e.1 ∧ q.gk.part = part ∧ q.issue < e.2) ∨
            (∃ e ∈ c.reached, ∃ q ∈ s.resps, q.pan = e.1 ∧ q.gk.part = part ∧ q.issue < e.2) ∨
            (∃ e ∈ c.reached, ∃ z ∈ (s.pan e.1).core.sluices, z.2.slice.part = part ∧ z.2.since < e.2 ∧
              (z.2.st = .ready ∨ (∃ a b, z.2.st = .remote a b) ∨ ∃ a b c, z.2.st = .ended a b c)) ∨
            (∃ e ∈ c.reached, ∃ m ∈ (s.pan e.1).misses, m.stale = true ∧ Shoots c part m.asid (m.vpn * 4096) 4096 = true) →
          exec (.xinvDone part) s = .next s) ∧
        (c.todo = [] → (∀ e ∈ c.reached, s.settledAt part c e.1 e.2 = true) → ∃ t, exec (.xinvDone part) s = .next t ∧
          only t { x with xinvDone := (x.xinvDone + 1) % 2 ^ 16, xinvCmds := r })) ∧
      (∀ slot (v : DWord),
        let root := bitsOf v.toNat 12 40 * 4096
        let old := s.asSlot part slot
        let a := part * 16 + slot
        (old.en = true ∧ root ≠ old.root → exec (.addressSpaceSlotWrite part slot v) s = .next s) ∧
        (¬ (old.en = true ∧ root ≠ old.root) → ∃ t, exec (.addressSpaceSlotWrite part slot v) s = .next t ∧ t = { s with parts := t.parts, pans := t.pans } ∧
          t.asSlot part slot = { en := v.getLsbD 63, torn := v.getLsbD 63 && old.torn, root := root } ∧
          (∀ j k, j ≠ part ∨ k ≠ slot → t.asSlot j k = s.asSlot j k) ∧ (v.getLsbD 63 = true → t.pans = s.pans) ∧
          (v.getLsbD 63 = false → ∀ j,
            let m := t.pan j
            m = { s.pan j with l1tlb := m.l1tlb, l2tlb := m.l2tlb, walkCache := m.walkCache, walked := m.walked } ∧
            (m.l2tlb = (s.pan j).l2tlb.filter fun e => decide (e.asid ≠ a)) ∧ (m.walkCache = (s.pan j).walkCache.filter fun e => decide (e.asid ≠ a)) ∧
            ∀ q, tgetD m.l1tlb q [] = (tgetD (s.pan j).l1tlb q []).filter fun e => decide (e.asid ≠ a)))) ∧
      (∀ slot, ∃ t, exec (.xfrRetry part slot) s = .next t ∧ t.mem = s.mem ∧ t.parts = s.parts ∧
        (∀ k g, s.group p k = some g →
          let waits := g.st = .faultw ∧ g.blockWait = false ∧ ∃ tm, tget n.core.teams g.team = some tm ∧ tm.part = part ∧ tm.slot = slot ∧
            g.posted ≤ x.xfr.head
          (waits → t.group p k = some { g with
            st := if g.run.isSome then .run else g.restState, walks := [], blocks := [], blockWait := false, readySince := s.clock.cycles }) ∧
          (¬ waits → t.group p k = some g)) ∧
        (t.pool = s.pool.map fun (e : PoolEntry) => if e.part = part ∧ e.wait = some slot then { e with wait := none } else e) ∧
        ∀ q, t.queue q = let z := s.queue q; if z.part = part ∧ z.stuck = some slot then { z with stuck := none } else z) ∧
      ∀ (i : Instr) (r : RecRing) (f : Part → RecRing), (i, r, f) = (.faultRecordPost part, x.xfr, fun y => y.xfr) ∨
          (i, r, f) = (.portRecordPost part, x.xpr, fun y => y.xpr) →
        (r.wait = [] ∨ 2 ^ r.log ≤ r.head - r.tail → ∃ t, exec i s = .next t ∧ t.mem = s.mem ∧ t.pans = s.pans ∧ ∀ j, t.part j = s.part j) ∧
        ∀ rec_ rest, r.wait = rec_ :: rest → r.head - r.tail < 2 ^ r.log → rec_.length = 32 →
          let pa := r.base + 32 * (r.head % 2 ^ r.log)
          pa % 32 = 0 → s.badLine pa = false → NoWindows s → s.wants = [] → FrontWrites s pa → ∃ t, exec i s = .next t ∧ t.mem = mwrite s.mem pa rec_ ∧
            f (t.part part) = { r with head := r.head + 1, wait := rest } ∧ ∀ j, j ≠ part → f (t.part j) = f (s.part j))

/-! ## Durability, recovery, errors and fences -/

/-- The fields of an error-log record (R386). -/
def ErrorRecord (rec_ : List Byte) (kind unit inst sub result part pa : Nat) : Prop :=
  let w := ofBytes (rec_.take 4)
  rec_.length = 32 ∧ bitsOf w 28 4 = kind ∧ bitsOf w 24 4 = unit ∧ bitsOf w 16 8 = inst % 256 ∧ bitsOf w 8 8 = sub % 256 ∧ bitsOf w 6 2 = result ∧
  bitsOf w 3 3 = part % 8 ∧ ofBytes ((rec_.drop 8).take 8) = pa

/-- A record joins those that wait for the error log, but a corrected-error record that finds the log full is dropped and counted
(R386). -/
def Logs (s t : State) (corrected : Bool) (P : List Byte → Prop) : Prop :=
  let full := 2 ^ s.err.log ≤ s.err.head - s.err.tail + s.err.wait.length
  (corrected = true → full → t.err = s.err ∧ t.errLost = (s.errLost + 1) % 2 ^ 32) ∧
  (corrected = false ∨ ¬ full → t.errLost = s.errLost ∧ ∃ rec_, P rec_ ∧ t.err = { s.err with wait := s.err.wait ++ [rec_] })

/-- R386: UNIT. -/
def unitNumber (u : UnitKind) : Nat :=
  match u with
  | .sram => 0
  | .regBank => 1
  | .datapath => 2
  | .matrix => 3
  | .rake => 4
  | .panCtl => 5
  | .sluice => 6
  | .salWay => 7
  | .shadow => 8
  | .frontPort => 9
  | .sidePort => 10
  | .channel => 11

/-- R377 to R381, R384, R385, R401: journal records become durable in order; a pan that loses power keeps a prefix of its events, and
goes on where it stood once it is tested; after a device power loss the brine window alone is kept, and recovered contexts return
only to a partition with their key. That a device reset keeps memory is the model's choice (log 37). -/
def Obligations.DurabilityAndRecovery : Prop :=
  ∀ (s : State) (p : Nat),
    let n := s.pan p
    (n.undo = [] ∨ n.off = true ∨ s.testing .shadow p (fun _ => true) = true → exec (.journalRecordDurable p) s = .next s) ∧
    (∀ c rest, n.undo = c :: rest → n.off = false → s.testing .shadow p (fun _ => true) = false →
      let due := s.dstatClears.filter fun e => e.1 == p && decide (e.2.2.2 ≤ n.drc + 1)
      ∃ t, exec (.journalRecordDurable p) s = .next t ∧ t.mem = s.mem ∧ (∀ j, j ≠ p → t.pan j = s.pan j) ∧
        (t.pan p = { n with drc := n.drc + 1, undo := rest, replies := n.replies.filter fun r => decide (n.drc + 1 < r.1) }) ∧
        (t.dstatClears = s.dstatClears.filter fun e => !(e.1 == p && decide (e.2.2.2 ≤ n.drc + 1))) ∧
        ∀ part b, b < 32 → ((t.part part).dstat.testBit b = true ↔
          (s.part part).dstat.testBit b = true ∧ ∀ e ∈ due, e.2.1 = part → e.2.2.1.testBit b = false)) ∧
    (∀ keep, (n.off = true → exec (.panPowerLoss p keep) s = .next s) ∧
      (n.off = false →
        let r : PanCore × Nat := match n.undo[keep]? with
          | some c => (c, n.drc + keep)
          | none => (n.core, n.drc + n.undo.length)
        ∃ t, exec (.panPowerLoss p keep) s = .next t ∧ t.mem = s.mem ∧
          let m := t.pan p
          (m.off = true ∧ m.rc = r.2 ∧ m.drc = r.2 ∧ m.undo = [] ∧ m.misses = [] ∧ m.l1tlb = [] ∧ m.l2tlb = [] ∧ m.walkCache = [] ∧
            m.decoded = [] ∧ m.l1 = [] ∧ m.spoilt = [] ∧ m.rake.cache = [] ∧ (∀ v ∈ m.rake.visits, v.2.st ≠ .ready) ∧ m.fen = n.fen) ∧
          m.core = { r.1 with groups := m.core.groups } ∧
          (∀ k g, tget r.1.groups k = some g → ∃ h, t.group p k = some h ∧ h = { g with dline := h.dline, rung := h.rung }) ∧
          (t.fabric = s.fabric.filter fun q => !(q.pan == p && decide (r.2 < q.rc))) ∧
          (t.resps = s.resps.filter fun q => !(q.pan == p && decide (r.2 < q.rc))) ∧
          t.receipts = s.receipts ++ (n.replies.filter fun x => decide (r.2 < x.1) && decide (x.2.rc ≤ r.2)).map (fun x => x.2) ∧
          (∀ j, j ≠ p → (t.pan j).core.teams = (s.pan j).core.teams ∧ (t.pan j).off = (s.pan j).off ∧ (t.pan j).undo = (s.pan j).undo) ∧
          ∃ rec_, t.err = { s.err with wait := s.err.wait ++ [rec_] } ∧ rec_.length = 32 ∧ bitsOf (ofBytes (rec_.take 4)) 28 4 = 6)) ∧
    (let waits := n.off = true ∧ Test.pan p ∉ s.tests
     (waits → exec (.panPowerRestore p) s = .next { s with tests := s.tests ++ [.pan p] }) ∧ (¬ waits → exec (.panPowerRestore p) s = .next s)) ∧
    (∀ idx pass, s.tests[idx]? = some (.pan p) → ∃ t, exec (.selfTestComplete idx pass) s = .next t ∧ t.mem = s.mem ∧ t.tests = s.tests.eraseIdx idx ∧
      (t.pan p).off = false ∧ (pass = true → (t.pan p).fen = n.fen) ∧
      (pass = false → ∃ u : BitVec 32, let f := (t.pan p).fen
        f.seg = n.fen.seg ||| (u.extractLsb' 16 16).toNat ∧ f.qtr = n.fen.qtr ||| (u.extractLsb' 12 4).toNat ∧
        f.dpq = n.fen.dpq ||| (u.extractLsb' 8 4).toNat ∧ f.arr = n.fen.arr ||| (u.extractLsb' 4 4).toNat ∧
        f.nsl = n.fen.nsl ||| (2 ^ (u.extractLsb' 2 2).toNat - 1) ∧ f.whole = (n.fen.whole || u.getLsbD 1)) ∧
      (∀ i q, tget n.core.sluices i = some q → s.receipts = [] → s.eventReceipts = [] → n.core.held = [] → ∃ q', tget (t.pan p).core.sluices i = some q' ∧
        q'.slice = q.slice ∧ ((∃ a b c, q.st = .ended a b c) → q' = q) ∧ ((∀ a b c, q.st ≠ .ended a b c) → q'.done = 0 ∧ q'.asked = [])) ∧
      (s.receipts = [] → s.eventReceipts = [] → n.core.held = [] → ∀ k g, s.group p k = some g → ∃ h, t.group p k = some h ∧
        h.run = g.run ∧ h.th = g.th ∧ h.g = g.g ∧ h.team = g.team ∧ h.num = g.num ∧ h.ctr = g.ctr ∧ h.issues = g.issues)) ∧
    (∀ keep, ∃ t, exec (.devicePowerLoss keep) s = .next t ∧
      (t = { State.reset with
        agenda := s.agenda, freeCtr := s.freeCtr, actor := s.actor, nextId := s.nextId, mem := t.mem, durable := t.durable, bad := t.bad,
        pans := t.pans, receipts := t.receipts, eventReceipts := s.eventReceipts, beds := t.beds, fenFront := s.fenFront, fenSide := s.fenSide,
        wire := s.wire, boot := { s.boot with running := false }, rcv := t.rcv }) ∧ (∃ more, t.receipts = s.receipts ++ more) ∧
      (∀ a, 2 ^ 40 ≤ a → a < 2 ^ 40 + 2 ^ 30 → mget t.mem a = mget s.durable a ∧ mget t.durable a = mget s.durable a) ∧
      (t.bad = s.bad.filter fun l => decide (2 ^ 40 ≤ l) && decide (l < 2 ^ 40 + 2 ^ 30)) ∧
      (∀ j, let c := (t.pan j).core; t.pan j = { core := { evq := c.evq, held := c.held }, asleep := (t.pan j).asleep, fen := (s.pan j).fen }) ∧
      (tSorted s.pans = true → ∀ j,
        let r : PanCore := if (s.pan j).off then (s.pan j).core else (s.pan j).undo.getD keep (s.pan j).core
        let c := (t.pan j).core
        c.evq = r.evq ∧ c.held = r.held ∧ (t.pan j).asleep = (s.pan j).asleep.join (if (s.pan j).off then (s.pan j).rake else (s.pan j).rake.afterLoss)) ∧
      (∀ j, t.bed j = { fenced := (s.bed j).fenced }) ∧
      (tSorted s.pans = true → (∀ j, (s.pan j).undo = [] ∧ tSorted (s.pan j).core.teams = true ∧ ∀ e ∈ (s.pan j).core.teams, e.1 < 8) →
        ∀ k tm, s.team p k = some tm → ∃ x, tget t.rcv (8 * p + k) = some x ∧ x.tm = tm ∧ x.pan = p ∧ x.team = k ∧ x.cause = .host ∧
          (x.groups = n.core.groups.filter fun e => e.2.team == k) ∧ x.key = (s.part tm.part).key ∧
          (x.go = true → x.slices = [] ∧ x.gfx = [] ∧ ∀ e ∈ x.groups, e.2.children = 0 ∧ ∀ c ∈ e.2.ctr.list, c = 0))) ∧
    (∃ t, exec .deviceReset s = .next t ∧
      (t = { State.reset with
        agenda := s.agenda, freeCtr := s.freeCtr + 1, actor := s.actor, nextId := s.nextId, mem := s.mem, durable := t.durable, bad := s.bad,
        pans := t.pans, receipts := t.receipts, eventReceipts := s.eventReceipts, beds := t.beds, fenFront := t.fenFront, fenSide := t.fenSide,
        wire := s.wire, boot := { s.boot with running := t.boot.running }, rcv := t.rcv }) ∧ (∃ more, t.receipts = s.receipts ++ more) ∧
      (t.boot.running = true ↔ ∃ x, s.boot.image = some x ∧ x.sigOk = true ∧ x.digestOk = true ∧ Config.minVersion ≤ x.version) ∧
      (∀ j, let c := (t.pan j).core; t.pan j = { core := { evq := c.evq, held := c.held }, asleep := (t.pan j).asleep, fen := (t.pan j).fen }) ∧
      (tSorted s.pans = true → ∀ j, (t.pan j).core.evq = (s.pan j).core.evq ∧ (t.pan j).core.held = (s.pan j).core.held) ∧
      (((∀ j, (t.pan j).fen = {}) ∧ t.beds = [] ∧ t.fenFront = 0 ∧ t.fenSide = 0) ∨ ((∀ j, (t.pan j).fen = (s.pan j).fen) ∧
        (∀ j, t.bed j = { fenced := (s.bed j).fenced }) ∧ t.fenFront = s.fenFront ∧ t.fenSide = s.fenSide))) ∧
    (∀ (img : FwImage) src,
      let fine := s.boot.running = false ∧ img.sigOk = true ∧ img.digestOk = true ∧ Config.minVersion ≤ img.version
      (fine → exec (.firmwareImageReceive img src) s = .next { s with boot := { image := some img, running := true, mgr := src } }) ∧
      (¬ fine → exec (.firmwareImageReceive img src) s = .next s)) ∧
    ∀ k, let held := tget s.rcv (8 * p + k)
      let gone (t : State) : Prop := ∀ j, tget t.rcv j = if j = 8 * p + k then none else tget s.rcv j
      let slept (t : State) (x : Context) (wake : Bool) : Prop := ∀ j, let n := s.pan j
        t.pan j = { n with asleep := n.asleep.ofSpace x.tm.part x.tm.slot false,
                           rake := if wake then n.rake.join (n.asleep.ofSpace x.tm.part x.tm.slot true) else n.rake }
      (held = none → exec (.rcvRestore p k) s = .next s ∧ exec (.rcvDiscard p k) s = .next s) ∧
      (∀ x, held = some x → ∃ t, exec (.rcvDiscard p k) s = .next t ∧ t = { s with rcv := t.rcv, pans := t.pans } ∧ gone t ∧
        ((∃ e ∈ t.rcv, e.2.tm.part = x.tm.part ∧ e.2.tm.slot = x.tm.slot) → t.pans = s.pans) ∧
        ((∀ e ∈ t.rcv, ¬ (e.2.tm.part = x.tm.part ∧ e.2.tm.slot = x.tm.slot)) → slept t x false)) ∧
      ∀ x, held = some x →
        let fine := x.go = true ∧ (s.part x.tm.part).en = true ∧ (s.part x.tm.part).key = x.key
        (¬ fine → exec (.rcvRestore p k) s = .next s) ∧
        (fine → ∃ t, exec (.rcvRestore p k) s = .next t ∧ t = { s with rcv := t.rcv, contexts := t.contexts, parts := t.parts, pans := t.pans } ∧
          gone t ∧ slept t x true ∧
          t.contexts = s.contexts ++ [{ x with key := none }] ∧ (∀ j, j ≠ x.tm.part → t.part j = s.part j) ∧
          t.part x.tm.part = { s.part x.tm.part with nextGrid := Nat.max (s.part x.tm.part).nextGrid (x.tm.grid + 1) })

/-- R386 to R389, R395: an error is posted at once or tests its unit, a test's end posts its record and fences a unit that fails, and
the error log is written as its ring has room; a link that is lost is tested too. -/
def Obligations.ErrorsTestsAndFences : Prop :=
  ∀ (s : State),
    (∀ r : ErrReport,
      let fresh := r.corrected = true ∧ ∃ t0, tget s.passed (errUnit r) = some t0 ∧ s.clock.nowNs < t0 + 1000000
      let kind := if r.corrected then 0 else if r.unit = .frontPort ∨ r.unit = .sidePort then 4 else 1
      let channel := bitsOf r.pa 7 6 ^^^ bitsOf r.pa 13 6 ^^^ bitsOf r.pa 19 6 ^^^ bitsOf r.pa 25 6 ^^^ bitsOf r.pa 31 6 ^^^ bitsOf r.pa 37 2
      let inst := if r.unit = .channel ∧ r.pa ≠ 0 ∧ r.pa < 2 ^ 39 then channel else r.inst
      let form (result : Nat) (rec_ : List Byte) : Prop := ErrorRecord rec_ kind (unitNumber r.unit) inst r.sub result r.part r.pa
      let spoils (t : State) : Prop := (∀ l ∈ s.bad, l ∈ t.bad) ∧ (r.corrected = true → t.bad = s.bad) ∧
        (r.corrected = false → r.unit = .salWay ∨ r.unit = .channel → r.pa ≠ 0 → r.pa / 128 * 128 ∈ t.bad)
      r.pa < 2 ^ 64 →
      (r.unit = .channel ∨ fresh → ∃ t, exec (.unitError r) s = .next t ∧ t.mem = s.mem ∧ t.tests = s.tests ∧ spoils t ∧
        Logs s t r.corrected (form 0)) ∧
      (¬ (r.unit = .channel ∨ fresh) → ∃ t, exec (.unitError r) s = .next t ∧ t.mem = s.mem ∧ t.tests = s.tests ++ [.unit r] ∧ spoils t ∧ t.err = s.err ∧
        (r.unit = .sidePort → (t.link r.inst).up = false)) ∧
      ∀ idx, s.tests[idx]? = some (.unit r) →
        (∃ t, exec (.selfTestComplete idx true) s = .next t ∧ t.mem = s.mem ∧ t.tests = s.tests.eraseIdx idx ∧ (r.unit ≠ .sram → t.pans = s.pans) ∧
          (r.unit = .sram → ∀ j, let n := s.pan j
            t.pan j = { n with spoilt := if j = r.inst then n.spoilt.filter (fun a => a / 32768 != r.sub) else n.spoilt }) ∧ t.beds = s.beds ∧
          tget t.passed (errUnit r) = some s.clock.nowNs ∧ Logs s t r.corrected (form 1)) ∧
        ∃ t, exec (.selfTestComplete idx false) s = .next t ∧ t.mem = s.mem ∧ t.tests = s.tests.eraseIdx idx ∧ Logs s t r.corrected (form 2) ∧
          let f := (s.pan r.inst).fen
          let g := (t.pan r.inst).fen
          let bit := 2 ^ r.sub
          match r.unit with
          | .sram => g = { f with seg := f.seg ||| bit }
          | .regBank => g = { f with qtr := f.qtr ||| bit }
          | .datapath => r.sub < 4 → g = if f.dpq.testBit r.sub then { f with qtr := f.qtr ||| bit } else { f with dpq := f.dpq ||| bit }
          | .matrix => g = { f with arr := f.arr ||| bit }
          | .sluice => g = { f with nsl := f.nsl ||| bit, whole := f.whole || decide (f.nsl ||| bit = 15) }
          | .salWay => (t.bed r.inst).fenced = (s.bed r.inst).fenced ||| bit
          | .frontPort => t.fenFront = s.fenFront ||| 2 ^ r.inst ∧ ∃ e ∈ (t.conn 8 0).sent, e.x = .notice (.portFenced false r.inst)
          | .sidePort => t.fenSide = s.fenSide ||| 2 ^ r.inst ∧ ∃ e ∈ (t.conn 8 0).sent, e.x = .notice (.portFenced true r.inst)
          | .channel => t.pans = s.pans
          | _ => g = { f with whole := true } ∧ ∀ k, (s.team r.inst k).isSome = true → (t.pan r.inst).isSealing k = true) ∧
    (∀ idx pass, s.tests[idx]? = none → exec (.selfTestComplete idx pass) s = .next s) ∧
    (s.wants = [] → s.err.wait = [] ∨ 2 ^ s.err.log ≤ s.err.head - s.err.tail → exec .errorLogPost s = .next s) ∧
    (∀ rec_ rest, s.err.wait = rec_ :: rest → s.err.head - s.err.tail < 2 ^ s.err.log → rec_.length = 32 →
      let pa := s.err.base + 32 * (s.err.head % 2 ^ s.err.log)
      pa % 32 = 0 → s.badLine pa = false → NoWindows s → s.wants = [] → FrontWrites s pa → ∃ t, exec .errorLogPost s = .next t ∧ t.mem = mwrite s.mem pa rec_ ∧
        t.err = { s.err with head := s.err.head + 1, wait := rest }) ∧
    ∀ port,
      ((s.link port).up = false → exec (.portLinkLoss port) s = .next s) ∧
      ((s.link port).up = true → ∃ t r, exec (.portLinkLoss port) s = .next t ∧ t.mem = s.mem ∧ t.tests = s.tests ++ [.unit r] ∧ r.unit = .sidePort ∧
        r.inst = port ∧ r.corrected = false ∧ (∀ j, j ≠ port → t.link j = s.link j) ∧
        (let l := s.link port
         t.link port = { l with up := false, peer := 0, peerDict := 0, rx := 0, tx := 0, replay := [], reqs := [] }) ∧
        ∀ p j (q : SliceRun) m, tget (s.pan p).core.sluices j = some q → q.waiting.find? (fun m => m.id % 16 == port) = some m →
          tget (t.pan p).core.sluices j = some { q with st := .ended 5 m.va q.written })

/-! ## Partitions, the host transport, links and station time -/

/-- R391, R398 to R400, R419, R6, R392: partitions are created, sealed and ended, pans and extents given and withdrawn, quotes answered
and registers written. That a sealed partition ignores EN 0 is the model's choice (log 41). -/
def Obligations.PartitionsAndRegisters : Prop :=
  ∀ (s : State) (part : Nat),
    let x := s.part part
    let only (t : State) (y : Part) : Prop := t = { s with parts := t.parts } ∧ (∀ j, j ≠ part → t.part j = s.part j) ∧ t.part part = y
    (x.busy = true ∨ x.en = true ∨ 8 ≤ part → exec (.partitionEnable part) s = .next s) ∧
    (x.busy = false → x.en = false → part < 8 → ∃ t, exec (.partitionEnable part) s = .next t ∧
      only t { x with en := true, sealed_ := false, key := some (Config.partKey (mread x.nonce 0 32)) }) ∧
    (x.en = false → exec (.partitionSeal part) s = .next s) ∧
    (x.en = true → ∃ t, exec (.partitionSeal part) s = .next t ∧ only t { x with sealed_ := true }) ∧
    (x.en = false ∨ x.sealed_ = true → exec (.partitionDisable part) s = .next s) ∧
    (x.en = true → x.sealed_ = false → ∃ t, exec (.partitionDisable part) s = .next t ∧ t.mem = s.mem ∧
      (let y := t.part part; y.en = false ∧ y.sealed_ = false ∧ y.key = none ∧ y.busy = true ∧ y.leaving = 0 ∧ y.taking = []) ∧
      (∀ k, k < 16 → (t.asSlot part k).torn = true) ∧ (∀ c ∈ t.contexts, c.tm.part ≠ part) ∧ (∀ c ∈ t.rcv, c.2.tm.part ≠ part) ∧
      (∀ q, (s.queue q).part = part → (t.queue q).en = false) ∧
      ∀ i z, tget s.streams i = some z → z.part = part → (t.stream i).en = false) ∧
    (x.busy = false → exec (.partitionBusyClear part) s = .next s) ∧
    (x.busy = true → x.en = false →
      (s.partIdle part = false → exec (.partitionBusyClear part) s = .next s) ∧
      (s.partIdle part = true → ∃ t, exec (.partitionBusyClear part) s = .next t ∧ t.part part = {} ∧ (∀ j, j ≠ part → t.part j = s.part j) ∧
        (∀ e, tget t.pmOwn e ≠ some part) ∧ (∀ e q, q ≠ part → tget s.pmOwn e = some q → tget t.pmOwn e = some q) ∧
        (∀ e, tget t.sideOwn e ≠ some part) ∧
        ∀ a, let mine := 2 ^ 40 ≤ a ∧ a < 2 ^ 40 + 2 ^ 30 ∧ tget s.pmOwn (128 + (a - 2 ^ 40) / 2 ^ 28) = some part
          (mine → mget t.mem a = 0 ∧ mget t.durable a = 0) ∧ (¬ mine → mget t.mem a = mget s.mem a))) ∧
    (x.busy = true → x.en = true → x.taking = [] → (∀ k, x.leaving.testBit k = true → x.pans.testBit k = true ∧ k < 192) →
      let freed (k : Nat) : Prop := x.leaving.testBit k = true ∧ ∀ e ∈ (s.pan k).core.teams, e.2.part ≠ part
      ∃ t, exec (.partitionBusyClear part) s = .next t ∧ t.mem = s.mem ∧ t.pmOwn = s.pmOwn ∧
        let y := t.part part
        y = { x with pans := y.pans, leaving := y.leaving, busy := y.busy } ∧
        (∀ k, (y.pans.testBit k = true ↔ x.pans.testBit k = true ∧ ¬ freed k) ∧
          (y.leaving.testBit k = true ↔ x.leaving.testBit k = true ∧ ¬ freed k)) ∧
        (y.busy = true ↔ y.leaving ≠ 0)) ∧
    (∀ e new, x.busy = true → x.en = true → x.taking = [(e, new)] → x.leaving = 0 →
      (x.xinvCmds ≠ [] → ∃ t, exec (.partitionBusyClear part) s = .next t ∧ t.pmOwn = s.pmOwn ∧ (t.part part).busy = true ∧
        (t.part part).taking = x.taking) ∧
      (x.xinvCmds = [] → s.beds = [] → s.blockOuts = [] → ∃ t, exec (.partitionBusyClear part) s = .next t ∧ t.mem = s.mem ∧
        tget t.pmOwn e = new ∧ (∀ j, j ≠ e → tget t.pmOwn j = tget s.pmOwn j) ∧ (t.part part).busy = false ∧ (t.part part).taking = [])) ∧
    (∀ k (v : DWord),
      (x.busy = true ∨ x.sealed_ = true ∨ 3 ≤ k ∨ 8 ≤ part → exec (.pmPansWrite part k v) s = .next s) ∧
      (x.busy = false → x.sealed_ = false → k < 3 → part < 8 → ∃ t, exec (.pmPansWrite part k v) s = .next t ∧ t.mem = s.mem ∧
        let y := t.part part
        y = { x with pans := y.pans, leaving := y.leaving, busy := y.busy } ∧
        let used (c : Nat) : Prop := ∃ e ∈ (s.pan c).core.teams, e.2.part = part
        let wanted (c : Nat) : Prop := v.getLsbD (c - 64 * k) = true ∧ ¬ ∃ e ∈ s.parts, e.1 ≠ part ∧ e.2.en = true ∧ e.2.pans.testBit c = true
        (∀ c, c < 64 * k ∨ 64 * k + 64 ≤ c → y.pans.testBit c = x.pans.testBit c ∧ y.leaving.testBit c = false) ∧
        (∀ c, 64 * k ≤ c → c < 64 * k + 64 →
          (y.pans.testBit c = true ↔ wanted c ∨ (x.pans.testBit c = true ∧ used c)) ∧
          (y.leaving.testBit c = true ↔ x.pans.testBit c = true ∧ ¬ wanted c ∧ used c)) ∧
        (y.busy = true ↔ y.leaving ≠ 0) ∧
        ∀ c, y.leaving.testBit c = true → ∀ e ∈ (s.pan c).core.teams, e.2.part = part → (s.team c e.1).isSome = true →
          (t.pan c).isSealing e.1 = true)) ∧
    (∀ e (v : BitVec 4),
      let new : Option Nat := if v.getLsbD 3 then some (v.toNat % 8) else none
      let shut := ∃ q, (new = some q ∨ tget s.pmOwn e = some q) ∧ ((s.part q).busy = true ∨ (s.part q).sealed_ = true)
      (132 ≤ e ∨ shut → exec (.pmOwnWrite e v) s = .next s) ∧
      (e < 132 → ¬ shut → tget s.pmOwn e = none → ∃ t, exec (.pmOwnWrite e v) s = .next t ∧ t = { s with pmOwn := t.pmOwn } ∧
        tget t.pmOwn e = new ∧ ∀ j, j ≠ e → tget t.pmOwn j = tget s.pmOwn j) ∧
      (e < 132 → ¬ shut → tget s.pmOwn e = some part →
        (new = some part ∨ 64 ≤ x.xinvCmds.length → exec (.pmOwnWrite e v) s = .next s) ∧
        (new ≠ some part → x.xinvCmds.length < 64 → ∃ t, exec (.pmOwnWrite e v) s = .next t ∧
          only t { x with
            xinvIssued := (x.xinvIssued + 1) % 2 ^ 16
            xinvCmds := x.xinvCmds ++ [{ kind := 2, todo := (List.range 192).filter fun j => x.pans.testBit j }]
            busy := true
            taking := [(e, new)] }))) ∧
    (∀ challenge : List Byte,
      let asked := x.en = true ∧ s.boot.running = true ∧ challenge.length = 32
      (¬ asked → exec (.attestationQuote part challenge) s = .next s) ∧
      (asked → ∃ t fw sig, exec (.attestationQuote part challenge) s = .next t ∧ t = { s with wire := t.wire } ∧
        (∀ y, s.boot.image = some y → fw = bytesOf y.digest 48) ∧
        t.wire = s.wire ++ [.quote part [bytesOf Config.deviceId.toNat 8, fw, Config.sha384 (s.ownership part), Config.sha384 (mread x.nonce 0 32),
          challenge] sig])) ∧
    ∀ vf (v : DWord),
      let own := s.boot.running = true ∧ (vf = 8 ∨ (vf = part ∧ part < 8 ∧ x.en = true))
      let manager := s.boot.running = true ∧ vf = 8
      (∀ r, s.boot.running = false ∨ s.mayWrite vf r = false ∨ s.sealedBy r = true → exec (.registerWrite vf r v) s = .next s) ∧
      (∀ r, s.mayWrite vf r = true ↔ vf = 8 ∨ (vf < 8 ∧ (s.part vf).en = true ∧ s.partReach vf r = true ∧
        ¬ ((∃ p, r = .salWays p) ∨ (∃ p, r = .salPbud p) ∨ r = .pkgPlim))) ∧
      (own →
        (∀ r ev, (r, ev) ∈ [(Reg.xfrRetry part, Instr.xfrRetry part (bitsOf v.toNat 0 4)),
            (.xprRetry part, if v.getLsbD 4 then .xprRetryFail part (bitsOf v.toNat 0 4) else .xprRetry part (bitsOf v.toNat 0 4))] →
          exec (.registerWrite vf r v) s = exec ev s) ∧
        (∀ k, exec (.registerWrite vf (.asSlot part k) v) s = exec (.addressSpaceSlotWrite part k v) s) ∧
        (∃ t, exec (.registerWrite vf (.xinvVa part) v) s = .next t ∧ only t { x with xinvVa := bitsOf v.toNat 12 44 * 4096 }) ∧
        (∃ t, exec (.registerWrite vf (.xprOvfPa part) v) s = .next t ∧ only t { x with ovfPa := bitsOf v.toNat 12 40 * 4096 }) ∧
        (∃ t, exec (.registerWrite vf (.schedTmo part) v) s = .next t ∧ only t { x with dtmo := bitsOf v.toNat 16 16, wdog := bitsOf v.toNat 0 16 }) ∧
        (∃ t, exec (.registerWrite vf (.dlPlan part) v) s = .next t ∧ only t { x with dlRef := bitsOf v.toNat 0 32 }) ∧
        (∃ t, exec (.registerWrite vf (.xfrBase part) v) s = .next t ∧
          let l := bitsOf v.toNat 0 4
          only t { x with xfr := { x.xfr with base := bitsOf v.toNat 12 40 * 4096, log := if 4 ≤ l ∧ l ≤ 12 then l else x.xfr.log } }) ∧
        ∀ r ∈ [Reg.xinvStat part, .xfrHead part, .xprHead part, .xprOvfStat part, .dlStat part], exec (.registerWrite vf r v) s = .next s) ∧
      (manager →
        (∀ k, x.busy = false → x.sealed_ = false → exec (.registerWrite vf (.pmPans part k) v) s = exec (.pmPansWrite part k v) s) ∧
        (∀ k, x.sealed_ = true → exec (.registerWrite vf (.pmPeer part k) v) s = .next s ∧ exec (.registerWrite vf (.pmNonce part k) v) s = .next s) ∧
        (∀ k, x.sealed_ = false → ∃ t, exec (.registerWrite vf (.pmPeer part k) v) s = .next t ∧ t = { s with parts := t.parts } ∧
          tgetD (t.part part).peers k 0 = v.toNat) ∧
        (let w := bitsOf v.toNat 0 16
         let fine := 600 ≤ w ∧ w ≤ 1300 ∧ (s.parts.map fun e => e.2.share).sum ≤ w
         (fine → exec (.registerWrite vf .pkgPlim v) s = .next { s with plim := w }) ∧ (¬ fine → exec (.registerWrite vf .pkgPlim v) s = .next s)))

/-- The correction of station time by a measured offset, in ns (R356): at 1 ms or more, with no stream enabled, a step, else a rate. -/
def Corrects (s t : State) (ofs : Int) : Prop :=
  let streaming := ∃ e ∈ s.streams, e.2.en = true
  let now : Int := ((s.clock.sec * 10 ^ 9 + s.clock.ns) * 2 ^ 16 + s.clock.frac : Nat)
  (1000000 ≤ ofs.natAbs → ¬ streaming → 0 ≤ now - ofs * 2 ^ 16 → now - ofs * 2 ^ 16 < 2 ^ 48 * 10 ^ 9 * 2 ^ 16 →
    ((((t.clock.sec * 10 ^ 9 + t.clock.ns) * 2 ^ 16 + t.clock.frac : Nat) : Int) = now - ofs * 2 ^ 16 ∧ t.clock.owed = 0)) ∧
  (ofs.natAbs < 1000000 ∨ streaming → t.clock = { s.clock with owed := -ofs * 2 ^ 16 })

/-- R353 to R356: the PTP servo. What EN 0 does to station time is the model's choice (log 36). -/
def Obligations.ServoKeepsStationTime : Prop :=
  ∀ (s : State),
    let x := s.ptp
    let takes := x.en = true ∧ (x.st = .uncal ∨ x.st = .locked)
    let only (t : State) (y : Ptp) : Prop := t = { s with ptp := y }
    let measures (i : Instr) (master arrival : Int) : Prop := ∃ t, exec i s = .next t ∧ t = { s with clock := t.clock, ptp := t.ptp } ∧
      let ofs := arrival - master - x.delay
      let n := if ofs.natAbs < 100 then x.good + 1 else 0
      Corrects s t ofs ∧ t.ptp = { x with
        ofs := ofs, good := Nat.min n 16, sync := none, down := arrival - master, st := if x.st = .uncal ∧ 16 ≤ n then .locked else x.st }
    (x.en = true → exec (.ptpEnable true) s = .next s) ∧
    (x.en = false → ∃ t, exec (.ptpEnable true) s = .next t ∧ only t { x with en := true, st := .freerun }) ∧
    (∃ t, exec (.ptpEnable false) s = .next t ∧ t = { s with clock := t.clock, ptp := t.ptp } ∧ t.ptp.en = false ∧ t.ptp.st = .init ∧ t.ptp.gm = none ∧
      t.clock.owed = 0 ∧ ((∃ e ∈ s.streams, e.2.en = true) → t.clock = { s.clock with owed := 0 })) ∧
    (∀ gm, (x.en = false → exec (.ptpAnnounce gm) s = .next s) ∧
      (x.en = true → ∃ t, exec (.ptpAnnounce gm) s = .next t ∧
        let fresh := x.st = .freerun ∨ x.st = .holdover ∨ x.gm ≠ some gm
        (fresh → only t { x with gm := some gm, announce := s.clock.nowNs, st := .uncal, good := 0 }) ∧
        (¬ fresh → only t { x with gm := some gm, announce := s.clock.nowNs }))) ∧
    (∀ seq (master arrival : Int), (¬ takes → exec (.ptpSync seq master arrival) s = .next s) ∧
      (takes → x.two = true → ∃ t, exec (.ptpSync seq master arrival) s = .next t ∧ only t { x with sync := some (seq, arrival) }) ∧
      (takes → x.two = false → measures (.ptpSync seq master arrival) master arrival) ∧
      (x.sync = none → exec (.ptpFollowUp seq master) s = .next s) ∧
      (takes → x.two = true → x.sync = some (seq, arrival) → measures (.ptpFollowUp seq master) master arrival)) ∧
    (¬ takes → exec .ptpDelayReq s = .next s) ∧
    (takes → ∃ t, exec .ptpDelayReq s = .next t ∧ t = { s with ptp := { x with asked := some (s.clock.nanos : Int) }, wire := t.wire } ∧
      t.wire = s.wire ++ [.delayReq s.clock.nanos]) ∧
    (∀ got : Int, (x.asked = none ∨ ¬ takes → exec (.ptpDelayResp got) s = .next s) ∧
      ∀ left, takes → x.asked = some left → ∃ t, exec (.ptpDelayResp got) s = .next t ∧
        only t { x with asked := none, delay := (x.down + (got - left)) / 2 }) ∧
    (let late := takes ∧ x.announce + 3 * Config.announceInterval ≤ s.clock.nowNs
     (¬ late → exec .announceTimeout s = .next s) ∧
     (late → ∃ t, exec .announceTimeout s = .next t ∧ t.ptp.st = .holdover ∧ t.ptp.good = 0 ∧ t.ptp.en = true ∧ t.clock = { s.clock with owed := 0 } ∧
       t = { s with clock := t.clock, ptp := t.ptp })) ∧
    exec .stmSecRead s = .next { s with subLatch := s.clock.ns * 2 ^ 16 + s.clock.frac }

/-- What the device still has to see acknowledged on a connection once the peer expects a SEQ (R393). -/
def unacked (sent : List SltSent) (ackseq : Nat) : List SltSent :=
  sent.filter fun x => decide ((x.seq % 2 ^ 32 + 2 ^ 32 - ackseq % 2 ^ 32) % 2 ^ 32 < 2 ^ 31)

/-- R56, R83, R89, R234, R390 to R396: `exec` of each event of the host's transport (SLT packets written, read, acknowledged, refused
and sent again), of an endpoint store and a packet that leaves, of a pause frame, of a side link that comes up, a frame that it receives
and a request that a peer makes answers a next state, with what the event does to its connection, flow or link, to memory, and to the
slice that an answer is for. -/
def Obligations.TransportAndLinks : Prop :=
  ∀ (s : State),
    (∀ p : SltPacket,
      let c := s.conn p.vf p.conn
      let d := (p.seq % 2 ^ 32 + 2 ^ 32 - c.rx % 2 ^ 32) % 2 ^ 32
      let form := p.ok = true ∧ p.vf ≤ 8 ∧ p.conn < 64 ∧ 4 ≤ p.len ∧ p.len ≤ 8192 ∧ p.len % 4 = 0 ∧ p.addr % 4 = 0
      let reached := if p.vf = 8 then ∃ q, q < 8 ∧ (s.part q).sealed_ = false ∧ InOwned s q p.addr p.len
        else (s.part p.vf).en = true ∧ InOwned s p.vf p.addr p.len
      let turn := s.boot.running = true ∧ d = 0
      let taken (t : State) (tx : Nat) (more : List SltSent) : Prop := t.conn p.vf p.conn =
        { rx := (c.rx + 1) % 2 ^ 32, tx := tx, sent := unacked c.sent p.ackseq ++ more }
      let refuses (i : Instr) : Prop := ∃ t, exec i s = .next t ∧ t.mem = s.mem ∧ t.pans = s.pans ∧ taken t c.tx [] ∧
        t.wire = s.wire ++ [.sltReply p.vf p.conn ((c.rx + 1) % 2 ^ 32) 4096 (some 2)]
      (∀ i ∈ [Instr.sltWrite p, .sltRead p],
        (s.boot.running = false → exec i s = .next s) ∧
        (s.boot.running = true → d ≠ 0 → d < 2 ^ 31 → exec i s = .next { s with wire := s.wire ++ [.sltReply p.vf p.conn c.rx 4096 (some 0)] }) ∧
        (s.boot.running = true → 2 ^ 31 ≤ d → exec i s = .next { s with wire := s.wire ++ [.sltReply p.vf p.conn c.rx 4096 none] }) ∧
        (turn → s.wants = [] → ¬ form ∨ (¬ reached ∧ regsAt p.addr p.len (p.len / 4 + 1) = none) → refuses i)) ∧
      (turn → s.wants = [] → p.data.length ≠ p.len → refuses (.sltWrite p)) ∧
      (turn → form → p.data.length = p.len → reached → s.frontBusy p.addr p.len = true → exec (.sltWrite p) s = .next s) ∧
      (turn → form → p.data.length = p.len → reached → s.frontBusy p.addr p.len = false → NoWindows s → s.wants = [] →
        (∀ line, s.shut line 0 = false) → (∀ b ∈ s.beds, b.2.merge.length + 65 ≤ 2048) →
        ∃ t, exec (.sltWrite p) s = .next t ∧ t.mem = mwrite s.mem p.addr p.data ∧ t.pans = s.pans ∧ taken t c.tx [] ∧
          t.wire = s.wire ++ [.sltReply p.vf p.conn ((c.rx + 1) % 2 ^ 32) 4096 none]) ∧
      (turn → form → reached → s.wants = [] → (∀ k, 128 * k < p.addr % 128 + p.len →
          FrontReads s (if p.vf = 8 then tgetD s.pmOwn (extentOf p.addr) 8 else p.vf) (lineOf (p.addr + 128 * k))) → ∃ t, exec (.sltRead p) s = .next t ∧ t.mem = s.mem ∧ t.pans = s.pans ∧
        taken t ((c.tx + 1) % 2 ^ 32) [{ seq := c.tx, x := .rdata p.addr (mread s.mem p.addr p.len), last := s.clock.nowNs }] ∧
        t.wire = s.wire ++ [.slt p.vf p.conn c.tx ((c.rx + 1) % 2 ^ 32) 4096 (.rdata p.addr (mread s.mem p.addr p.len))]) ∧
      (let left := unacked c.sent p.ackseq
       (∃ t, exec (.sltAck p) s = .next t ∧ t = { s with slt := t.slt } ∧ t.conn p.vf p.conn = { c with sent := left }) ∧
       ((∃ y ∈ left, 16 ≤ y.sends) → ∃ t, exec (.sltNack p) s = .next t ∧ t = { s with slt := t.slt } ∧ t.conn p.vf p.conn = {}) ∧
       ((∀ y ∈ left, y.sends < 16) → ∃ t, exec (.sltNack p) s = .next t ∧ t = { s with slt := t.slt, wire := t.wire } ∧
         t.conn p.vf p.conn = { c with sent := left.map fun y => { y with last := s.clock.nowNs, sends := y.sends + 1 } } ∧
         t.wire = s.wire ++ left.map fun y => .slt p.vf p.conn y.seq c.rx 4096 y.x))) ∧
    (∀ vf k, let c := s.conn vf k
      (c.sent = [] → exec (.sltResendTimer vf k) s = .next s) ∧
      ∀ y rest, c.sent = y :: rest → (s.clock.nowNs < y.last + 50000 → exec (.sltResendTimer vf k) s = .next s) ∧
        (y.last + 50000 ≤ s.clock.nowNs → (∀ z ∈ c.sent, z.sends < 16) → ∃ t, exec (.sltResendTimer vf k) s = .next t ∧
          t.wire = s.wire ++ (c.sent.map fun z => .slt vf k z.seq c.rx 4096 z.x) ∧
          t.conn vf k = { c with sent := c.sent.map fun z => { z with last := s.clock.nowNs, sends := z.sends + 1 } }) ∧
        (y.last + 50000 ≤ s.clock.nowNs → (∃ z ∈ c.sent, 16 ≤ z.sends) → ∃ t, exec (.sltResendTimer vf k) s = .next t ∧ t.wire = s.wire ∧
          t.conn vf k = {})) ∧
    (∀ port, ∃ t, exec (.pauseFrameReceive port) s = .next t ∧ t = { s with pauses := t.pauses } ∧
      tgetD t.pauses port 0 = tgetD s.pauses port 0 + 1) ∧
    (∀ req q, s.request req = some q → s.fabric = [q] → q.op = .store → isEndpoint q.line = true → q.line % 128 = 0 → s.maySend q = true →
      (q.accs.Pairwise fun a b => a.lane < b.lane) → (∀ a ∈ q.accs, a.off < 128) →
      let port := (q.line - 2 ^ 41) / 2 ^ 24
      let flow := bitsOf q.line 16 8
      let f := s.flow port flow
      let bytes := q.accs.flatMap fun a => bytesOf a.val a.len
      ∃ t, exec (.endpointStoreAccept req) s = .next t ∧ t.mem = s.mem ∧ t.fabric = [] ∧
        (∃ r, t.resps = s.resps ++ [r] ∧ r.gk = q.gk ∧ r.issue = q.issue ∧ r.vals = q.accs.map fun a => { lane := a.lane }) ∧
        let g := t.flow port flow
        (f.en = false ∨ f.part ≠ q.gk.part → q.accs ≠ [] → g = { f with disc := (f.disc + q.accs.length) % 2 ^ 64 }) ∧
        (f.en = true → f.part = q.gk.part → f.overlong = false → f.open_.length + bytes.length ≤ 9216 →
          g = { f with open_ := g.open_, closed := g.closed } ∧
          (bitOf q.line 15 = false → g.open_ = f.open_ ++ bytes ∧ g.closed = f.closed) ∧
          (bitOf q.line 15 = true → ∀ a r, q.accs = a :: r → g.open_ = [] ∧
            g.closed = f.closed ++ (f.open_ ++ bytesOf a.val a.len) :: r.map fun b => bytesOf b.val b.len))) ∧
    (∀ port flow, let f := s.flow port flow
      (f.closed = [] ∨ s.portUp port = false → exec (.egressPacketSend port flow) s = .next s) ∧
      ∀ p rest, f.closed = p :: rest → s.portUp port = true → ∃ t frame, exec (.egressPacketSend port flow) s = .next t ∧
        t = { s with flows := t.flows, wire := s.wire ++ [.packet port flow frame] } ∧
        t.flow port flow = { f with closed := rest, pkt := (f.pkt + 1) % 2 ^ 64, byte := (f.byte + p.length) % 2 ^ 64 } ∧
        (f.kind = 0 → frame = mread f.tpl 0 f.hlen ++ p) ∧ ∃ header, frame = header ++ p) ∧
    (∀ port,
      let l := s.link port
      let only (t : State) (m : SideLink) : Prop := (∀ j, j ≠ port → t.link j = s.link j) ∧ t.link port = m
      let asks (i : Instr) : Prop := exec i s = .next { s with wire := s.wire ++ [.sideAgain port l.rx] }
      (∀ peer (ident : BitVec 16),
        (l.up = true ∨ s.fenSide.testBit port = true ∨ s.testing .sidePort port (fun _ => true) = true → exec (.linkUp port peer ident) s = .next s) ∧
        (l.up = false → s.fenSide.testBit port = false → s.testing .sidePort port (fun _ => true) = false →
          ∃ t, exec (.linkUp port peer ident) s = .next t ∧ t = { s with links := t.links } ∧
            only t { l with up := true, peer := peer, peerDict := ident.toNat, rx := 0, tx := 0, replay := [], reqs := [] })) ∧
      (∀ f : SideFrame,
        let ev := Instr.sideFrameReceive port f
        (l.up = false → exec ev s = .next s) ∧
        (l.up = true →
          (f.crcOk = false → asks ev) ∧
          (f.crcOk = true → (∀ n, f.body ≠ .again n) →
            (f.lseq < l.rx → exec ev s = .next s) ∧ (l.rx < f.lseq → asks ev) ∧
            (f.lseq = l.rx → f.coded = true → l.sameDict = false ∨ expandPayload l.dictBytes l.dictId f.payload = none → asks ev) ∧
            (f.lseq = l.rx → f.coded = false → s.wants = [] →
              (∀ id r, f.body = .request id r → ∃ t, exec ev s = .next t ∧ t = { s with links := t.links } ∧
                only t { l with rx := l.rx + 1, reqs := l.reqs ++ [(id, r)] }) ∧
              (∀ ident, f.body = .dict ident → ∃ t, exec ev s = .next t ∧ t = { s with links := t.links } ∧
                only t { l with rx := l.rx + 1, peerDict := ident.toNat }) ∧
              ∀ id data err p k r m, f.body = .answer id data err → s.asker id = some (p, k, r, m) →
                ((s.pan p).undo ≠ [] → exec ev s = .next s) ∧
                ((s.pan p).undo = [] → err = true → ∃ t, exec ev s = .next t ∧ t.mem = s.mem ∧ only t { l with rx := l.rx + 1 } ∧
                  tget (t.pan p).core.sluices k = some { r with st := .ended 5 m.va r.written }) ∧
                ((s.pan p).undo = [] → err = false → m.read = false → ∃ t r', exec ev s = .next t ∧ t.mem = s.mem ∧ only t { l with rx := l.rx + 1 } ∧
                  tget (t.pan p).core.sluices k = some r' ∧ r'.slice = r.slice ∧ r'.written = r.written + m.m.len ∧
                  r'.waiting = r.waiting.filter fun y => y.id != id))) ∧
          (∀ n, f.crcOk = true → f.body = .again n →
            (∀ e b k d, l.replay.find? (fun e => e.1 == n) = some (e, b, k, d) → k < 8 → ∃ t, exec ev s = .next t ∧ t.mem = s.mem ∧
              t.wire = s.wire ++ [.side port n (l.coded d b) b] ∧ (t.link port).up = true ∧ t.tests = s.tests) ∧
            ((∀ e b k d, l.replay.find? (fun e => e.1 == n) = some (e, b, k, d) → 8 ≤ k) → ∃ t r, exec ev s = .next t ∧ t.mem = s.mem ∧
              (t.link port).up = false ∧ t.tests = s.tests ++ [.unit r] ∧ r.unit = .sidePort ∧ r.inst = port)))) ∧
      ∀ idx,
        let ev := Instr.remoteRequest port idx
        (l.reqs[idx]? = none → exec ev s = .next s) ∧
        ∀ id r, s.wants = [] → l.reqs[idx]? = some (id, r) →
          let va := r.va.toNat
          let answers (t : State) (data : List Byte) (err : Bool) : Prop := t.wire = s.wire ++ [.side port l.tx none (.answer id data err)] ∧
            (t.link port).tx = l.tx + 1 ∧ (t.link port).reqs = l.reqs.eraseIdx idx
          (tget s.sideOwn port = none → ∃ t, exec ev s = .next t ∧ t.mem = s.mem ∧ answers t [] true) ∧
          ∀ part, tget s.sideOwn port = some part →
            (l.peer = 0 ∨ (∀ e ∈ (s.part part).peers, e.2 ≠ l.peer.toNat) → ∃ t, exec ev s = .next t ∧ t.mem = s.mem ∧ answers t [] true) ∧
            (l.peer ≠ 0 → (∃ e ∈ (s.part part).peers, e.2 = l.peer.toNat) →
              let a := s.asSlot part r.slot
              (r.scope ≠ 3 → ∃ t, exec ev s = .next t ∧ t.mem = s.mem ∧ answers t [] true) ∧
              (2 ^ 56 ≤ va ∨ a.en = false ∨ a.torn = true → ∃ t, exec ev s = .next t ∧ t.mem = s.mem ∧ answers t [] true) ∧
              ∀ e lvl, va < 2 ^ 56 → a.en = true → a.torn = false → InOwned s part a.root 4096 → Walked s part va 4 a.root (.leaf e lvl) →
                let need := match r.op with
                  | .read _ => bitOf e 6
                  | _ => bitOf e 7
                (bitOf e 56 = true ∨ need = false → ∃ t, exec ev s = .next t ∧ t.mem = s.mem ∧ answers t [] true) ∧
                (bitOf e 56 = false → need = true → isEndpoint (leafPa e va) = false → bitsOf e 60 4 = 0 → r.scope = 3 → r.acq = false → r.rel = false → NoWindows s →
                  (∀ l ∈ s.linesOfWalk none part r.slot va, FrontReads s part l) → s.shut (lineOf (leafPa e va)) 0 = false →
                  (∀ bs, r.op = .write bs → va % 128 + bs.length ≤ 128 → s.mergeRoom (lineOf (leafPa e va)) false = true → ∃ t, exec ev s = .next t ∧ t.mem = mwrite s.mem (leafPa e va) bs ∧
                    answers t [] false) ∧
                  (∀ n, r.op = .read n → 0 < n → va % 128 + n ≤ 128 → s.badLine (leafPa e va) = false →
                    LineReadable s part (lineOf (leafPa e va)) false (pteRet e) → ∃ t, exec ev s = .next t ∧ t.mem = s.mem ∧
                    answers t (mread s.mem (leafPa e va) n) false))))

/-! ## Reset, and what every step keeps -/

/-- R3, R6, R47, R61, R64, R71, R77, R91, R93, R106, R136, R148, R292, R336, R353, R355, R359, R362, R364, R369, R385, R386, R388, R391,
R396, R398: what every register reads as after reset, where its table gives a value; every sequence counter is 0, station time counts
from 0 with the servo in INIT; and the invariants hold. A write-only register reads as 0. -/
def Obligations.ResetState : Prop :=
  (∀ r : Reg, (∀ k, r ≠ .ec k) → State.reset.readReg r = match r with
    | .xfrBase _ => 4
    | .xprBase _ => 4
    | .qcmp _ => 4
    | .errBase => 4
    | .salPbud _ => 0xFFFF
    | .panMem _ => 256 * 2 ^ 5 + 8
    | .strmCfg _ => 3 * 2 ^ 48 + 2 * 2 ^ 45 + 4 * 2 ^ 32
    | .strmFmt _ => 2 ^ 48 + 2 ^ 45
    | .qrsize _ => 1
    | .schedTmo _ => 1000 * 2 ^ 16
    | .enBal _ => 65536
    | .plan _ => 8192 * 2 ^ 16 + 28
    | .pkgPlim => 1100
    | .fll _ => 28 * 2 ^ 8 + 28
    | .epfCtl _ _ => 14 * 2 ^ 32
    | _ => 0) ∧
  (∀ b part, tgetD (State.reset.bed b).seqs part 0 = 0) ∧
  State.reset.clock.fine = 0 ∧ State.reset.ptp.st = .init ∧ (∀ i a, mget (State.reset.flow (i / 256) (i % 256)).tpl a = 0) ∧
  (∀ p a, mget (State.reset.part p).nonce a = 0) ∧ MemoryWf State.reset ∧ TablesAscend State.reset ∧ State.reset.wants = []

/-- No step of any state stops: each answers a next state, since every instruction, event and turn has an effect or none. -/
def Obligations.NoStepStops : Prop := ∀ s : State, GoesOn s

/-- Every step of every state keeps the canonical form of the memories: addresses rise strictly, and no entry is what an unlisted
byte reads as. -/
def Obligations.StepKeepsMemoryForm : Prop := ∀ s t : State, MemoryWf s → step s = .next t → MemoryWf t

/-- Every step of every state keeps the tables that stand in it ascending, and the numbers of team and visit slots in range; and between
two steps no access of a step waits. -/
def Obligations.StepKeepsTables : Prop := ∀ s t : State, step s = .next t → (TablesAscend s → TablesAscend t) ∧ (s.wants = [] → t.wants = [])
end

