-- ==== Sys2Proof/Laws/Exec.lean ====
section
/-! SUPPORT. One arm of `exec` each, by name. -/

namespace Sys2Proof.Machine

theorem exec_add (x : Std) (s : State) : exec (.add x) s = execAdd x s := rfl
theorem exec_sub (x : Std) (s : State) : exec (.sub x) s = execSub x s := rfl
theorem exec_addc (x : Std) (s : State) : exec (.addc x) s = execAddc x s := rfl
theorem exec_subb (x : Std) (s : State) : exec (.subb x) s = execSubb x s := rfl
theorem exec_mullo (x : Std) (s : State) : exec (.mullo x) s = execMullo x s := rfl
theorem exec_mulhi (x : Std) (s : State) : exec (.mulhi x) s = execMulhi x s := rfl
theorem exec_mad (x : Std) (s : State) : exec (.mad x) s = execMad x s := rfl
theorem exec_madw (x : Std) (s : State) : exec (.madw x) s = execMadw x s := rfl
theorem exec_div (x : Std) (s : State) : exec (.div x) s = execDiv x s := rfl
theorem exec_rem (x : Std) (s : State) : exec (.rem x) s = execRem x s := rfl
theorem exec_min (x : Std) (s : State) : exec (.min x) s = execMin x s := rfl
theorem exec_max (x : Std) (s : State) : exec (.max x) s = execMax x s := rfl
theorem exec_abs (x : Std) (s : State) : exec (.abs x) s = execAbs x s := rfl
theorem exec_neg (x : Std) (s : State) : exec (.neg x) s = execNeg x s := rfl
theorem exec_addsat (x : Std) (s : State) : exec (.addsat x) s = execAddsat x s := rfl
theorem exec_subsat (x : Std) (s : State) : exec (.subsat x) s = execSubsat x s := rfl
theorem exec_lea (x : Std) (s : State) : exec (.lea x) s = execLea x s := rfl
theorem exec_icmp (x : Std) (s : State) : exec (.icmp x) s = execIcmp x s := rfl
theorem exec_sel (x : Std) (s : State) : exec (.sel x) s = execSel x s := rfl
theorem exec_mov (x : Std) (s : State) : exec (.mov x) s = execMov x s := rfl
theorem exec_clamp (x : Std) (s : State) : exec (.clamp x) s = execClamp x s := rfl
theorem exec_sad (x : Std) (s : State) : exec (.sad x) s = execSad x s := rfl
theorem exec_dot4 (x : Std) (s : State) : exec (.dot4 x) s = execDot4 x s := rfl
theorem exec_dot2 (x : Std) (s : State) : exec (.dot2 x) s = execDot2 x s := rfl
theorem exec_cvti (x : Std) (s : State) : exec (.cvti x) s = execCvti x s := rfl
theorem exec_bysel (x : Std) (s : State) : exec (.bysel x) s = execBysel x s := rfl
theorem exec_pack (x : Std) (s : State) : exec (.pack x) s = execPack x s := rfl
theorem exec_unpk (x : Std) (s : State) : exec (.unpk x) s = execUnpk x s := rfl
theorem exec_avg (x : Std) (s : State) : exec (.avg x) s = execAvg x s := rfl
theorem exec_and (x : Std) (s : State) : exec (.and x) s = execAnd x s := rfl
theorem exec_or (x : Std) (s : State) : exec (.or x) s = execOr x s := rfl
theorem exec_xor (x : Std) (s : State) : exec (.xor x) s = execXor x s := rfl
theorem exec_andn (x : Std) (s : State) : exec (.andn x) s = execAndn x s := rfl
theorem exec_orn (x : Std) (s : State) : exec (.orn x) s = execOrn x s := rfl
theorem exec_not (x : Std) (s : State) : exec (.not x) s = execNot x s := rfl
theorem exec_logt (x : Std) (s : State) : exec (.logt x) s = execLogt x s := rfl
theorem exec_shl (x : Std) (s : State) : exec (.shl x) s = execShl x s := rfl
theorem exec_shr (x : Std) (s : State) : exec (.shr x) s = execShr x s := rfl
theorem exec_sar (x : Std) (s : State) : exec (.sar x) s = execSar x s := rfl
theorem exec_rol (x : Std) (s : State) : exec (.rol x) s = execRol x s := rfl
theorem exec_ror (x : Std) (s : State) : exec (.ror x) s = execRor x s := rfl
theorem exec_fshl (x : Std) (s : State) : exec (.fshl x) s = execFshl x s := rfl
theorem exec_fshr (x : Std) (s : State) : exec (.fshr x) s = execFshr x s := rfl
theorem exec_bfe (x : Std) (s : State) : exec (.bfe x) s = execBfe x s := rfl
theorem exec_bfi (x : Std) (s : State) : exec (.bfi x) s = execBfi x s := rfl
theorem exec_popc (x : Std) (s : State) : exec (.popc x) s = execPopc x s := rfl
theorem exec_clz (x : Std) (s : State) : exec (.clz x) s = execClz x s := rfl
theorem exec_ctz (x : Std) (s : State) : exec (.ctz x) s = execCtz x s := rfl
theorem exec_brev (x : Std) (s : State) : exec (.brev x) s = execBrev x s := rfl
theorem exec_bmsk (x : Std) (s : State) : exec (.bmsk x) s = execBmsk x s := rfl
theorem exec_plogt (x : Std) (s : State) : exec (.plogt x) s = execPlogt x s := rfl
theorem exec_p2v (x : Std) (s : State) : exec (.p2v x) s = execP2v x s := rfl
theorem exec_v2p (x : Std) (s : State) : exec (.v2p x) s = execV2p x s := rfl
theorem exec_fadd (x : Std) (s : State) : exec (.fadd x) s = execFadd x s := rfl
theorem exec_fsub (x : Std) (s : State) : exec (.fsub x) s = execFsub x s := rfl
theorem exec_fmul (x : Std) (s : State) : exec (.fmul x) s = execFmul x s := rfl
theorem exec_ffma (x : Std) (s : State) : exec (.ffma x) s = execFfma x s := rfl
theorem exec_fmin (x : Std) (s : State) : exec (.fmin x) s = execFmin x s := rfl
theorem exec_fmax (x : Std) (s : State) : exec (.fmax x) s = execFmax x s := rfl
theorem exec_fminm (x : Std) (s : State) : exec (.fminm x) s = execFminm x s := rfl
theorem exec_fmaxm (x : Std) (s : State) : exec (.fmaxm x) s = execFmaxm x s := rfl
theorem exec_fcmp (x : Std) (s : State) : exec (.fcmp x) s = execFcmp x s := rfl
theorem exec_fclass (x : Std) (s : State) : exec (.fclass x) s = execFclass x s := rfl
theorem exec_fclassPredicate (x : Std) (s : State) : exec (.fclassPredicate x) s = execFclassPredicate x s := rfl
theorem exec_frnd (x : Std) (s : State) : exec (.frnd x) s = execFrnd x s := rfl
theorem exec_ffrc (x : Std) (s : State) : exec (.ffrc x) s = execFfrc x s := rfl
theorem exec_fscl (x : Std) (s : State) : exec (.fscl x) s = execFscl x s := rfl
theorem exec_fexpt (x : Std) (s : State) : exec (.fexpt x) s = execFexpt x s := rfl
theorem exec_fcps (x : Std) (s : State) : exec (.fcps x) s = execFcps x s := rfl
theorem exec_fdiv (x : Std) (s : State) : exec (.fdiv x) s = execFdiv x s := rfl
theorem exec_fsqrt (x : Std) (s : State) : exec (.fsqrt x) s = execFsqrt x s := rfl
theorem exec_frcp (x : Std) (s : State) : exec (.frcp x) s = execFrcp x s := rfl
theorem exec_frsq (x : Std) (s : State) : exec (.frsq x) s = execFrsq x s := rfl
theorem exec_fex2 (x : Std) (s : State) : exec (.fex2 x) s = execFex2 x s := rfl
theorem exec_flg2 (x : Std) (s : State) : exec (.flg2 x) s = execFlg2 x s := rfl
theorem exec_fsin (x : Std) (s : State) : exec (.fsin x) s = execFsin x s := rfl
theorem exec_fcos (x : Std) (s : State) : exec (.fcos x) s = execFcos x s := rfl
theorem exec_ftanh (x : Std) (s : State) : exec (.ftanh x) s = execFtanh x s := rfl
theorem exec_fdotp2 (x : Std) (s : State) : exec (.fdotp2 x) s = execFdotp2 x s := rfl
theorem exec_hfma2 (x : Std) (s : State) : exec (.hfma2 x) s = execHfma2 x s := rfl
theorem exec_cvtf (x : Std) (s : State) : exec (.cvtf x) s = execCvtf x s := rfl
theorem exec_cvtfi (x : Std) (s : State) : exec (.cvtfi x) s = execCvtfi x s := rfl
theorem exec_cvtif (x : Std) (s : State) : exec (.cvtif x) s = execCvtif x s := rfl
theorem exec_flgrd (x : Std) (s : State) : exec (.flgrd x) s = execFlgrd x s := rfl
theorem exec_flgclr (x : Std) (s : State) : exec (.flgclr x) s = execFlgclr x s := rfl
theorem exec_vote (x : Std) (s : State) : exec (.vote x) s = execVote x s := rfl
theorem exec_ballot (x : Std) (s : State) : exec (.ballot x) s = execBallot x s := rfl
theorem exec_shfl (x : Std) (s : State) : exec (.shfl x) s = execShfl x s := rfl
theorem exec_shflup (x : Std) (s : State) : exec (.shflup x) s = execShflup x s := rfl
theorem exec_shfldn (x : Std) (s : State) : exec (.shfldn x) s = execShfldn x s := rfl
theorem exec_shflx (x : Std) (s : State) : exec (.shflx x) s = execShflx x s := rfl
theorem exec_redx (x : Std) (s : State) : exec (.redx x) s = execRedx x s := rfl
theorem exec_scanx (x : Std) (s : State) : exec (.scanx x) s = execScanx x s := rfl
theorem exec_matchLanes (x : Std) (s : State) : exec (.matchLanes x) s = execMatchLanes x s := rfl
theorem exec_elect (x : Std) (s : State) : exec (.elect x) s = execElect x s := rfl
theorem exec_gbcast (x : Std) (s : State) : exec (.gbcast x) s = execGbcast x s := rfl
theorem exec_conv (x : Std) (s : State) : exec (.conv x) s = execConv x s := rfl
theorem exec_ld (x : Std) (s : State) : exec (.ld x) s = execLd x s := rfl
theorem exec_st (x : Std) (s : State) : exec (.st x) s = execSt x s := rfl
theorem exec_lds (x : Std) (s : State) : exec (.lds x) s = execLds x s := rfl
theorem exec_sts (x : Std) (s : State) : exec (.sts x) s = execSts x s := rfl
theorem exec_ldk (x : Std) (s : State) : exec (.ldk x) s = execLdk x s := rfl
theorem exec_pref (x : Std) (s : State) : exec (.pref x) s = execPref x s := rfl
theorem exec_cctlL1line (x : Std) (s : State) : exec (.cctlL1line x) s = execCctlL1line x s := rfl
theorem exec_cctlL1all (x : Std) (s : State) : exec (.cctlL1all x) s = execCctlL1all x s := rfl
theorem exec_cctlDemote (x : Std) (s : State) : exec (.cctlDemote x) s = execCctlDemote x s := rfl
theorem exec_fence (x : Std) (s : State) : exec (.fence x) s = execFence x s := rfl
theorem exec_pfencePp (x : Std) (s : State) : exec (.pfencePp x) s = execPfencePp x s := rfl
theorem exec_pfenceDp (x : Std) (s : State) : exec (.pfenceDp x) s = execPfenceDp x s := rfl
theorem exec_atom (x : Std) (s : State) : exec (.atom x) s = execAtom x s := rfl
theorem exec_atoms (x : Std) (s : State) : exec (.atoms x) s = execAtoms x s := rfl
theorem exec_red (x : Std) (s : State) : exec (.red x) s = execRed x s := rfl
theorem exec_reds (x : Std) (s : State) : exec (.reds x) s = execReds x s := rfl
theorem exec_atomx (x : Std) (s : State) : exec (.atomx x) s = execAtomx x s := rfl
theorem exec_dflush (x : Std) (s : State) : exec (.dflush x) s = execDflush x s := rfl
theorem exec_cas (x : Std) (s : State) : exec (.cas x) s = execCas x s := rfl
theorem exec_cass (x : Std) (s : State) : exec (.cass x) s = execCass x s := rfl
theorem exec_ecrd (x : Std) (s : State) : exec (.ecrd x) s = execEcrd x s := rfl
theorem exec_ecclr (x : Std) (s : State) : exec (.ecclr x) s = execEcclr x s := rfl
theorem exec_cpy (x : Std) (s : State) : exec (.cpy x) s = execCpy x s := rfl
theorem exec_cpyt (x : Std) (s : State) : exec (.cpyt x) s = execCpyt x s := rfl
theorem exec_cpyg (x : Std) (s : State) : exec (.cpyg x) s = execCpyg x s := rfl
theorem exec_seminit (x : Std) (s : State) : exec (.seminit x) s = execSeminit x s := rfl
theorem exec_semacq (x : Std) (s : State) : exec (.semacq x) s = execSemacq x s := rfl
theorem exec_semrel (x : Std) (s : State) : exec (.semrel x) s = execSemrel x s := rfl
theorem exec_tbinit (x : Std) (s : State) : exec (.tbinit x) s = execTbinit x s := rfl
theorem exec_tbexp (x : Std) (s : State) : exec (.tbexp x) s = execTbexp x s := rfl
theorem exec_tbarr (x : Std) (s : State) : exec (.tbarr x) s = execTbarr x s := rfl
theorem exec_tbtst (x : Std) (s : State) : exec (.tbtst x) s = execTbtst x s := rfl
theorem exec_tbwait (x : Std) (s : State) : exec (.tbwait x) s = execTbwait x s := rfl
theorem exec_bar (x : Std) (s : State) : exec (.bar x) s = execBar x s := rfl
theorem exec_sgput (x : Std) (s : State) : exec (.sgput x) s = execSgput x s := rfl
theorem exec_sgputWait (x : Std) (s : State) : exec (.sgputWait x) s = execSgputWait x s := rfl
theorem exec_sgget (x : Std) (s : State) : exec (.sgget x) s = execSgget x s := rfl
theorem exec_sggetErr (x : Std) (s : State) : exec (.sggetErr x) s = execSggetErr x s := rfl
theorem exec_sgrel (x : Std) (s : State) : exec (.sgrel x) s = execSgrel x s := rfl
theorem exec_mma (x : Std) (s : State) : exec (.mma x) s = execMma x s := rfl
theorem exec_mmas (x : Std) (s : State) : exec (.mmas x) s = execMmas x s := rfl
theorem exec_mtrn (x : Std) (s : State) : exec (.mtrn x) s = execMtrn x s := rfl
theorem exec_mprm (x : Std) (s : State) : exec (.mprm x) s = execMprm x s := rfl
theorem exec_mred (x : Std) (s : State) : exec (.mred x) s = execMred x s := rfl
theorem exec_mldb (x : Std) (s : State) : exec (.mldb x) s = execMldb x s := rfl
theorem exec_mstc (x : Std) (s : State) : exec (.mstc x) s = execMstc x s := rfl
theorem exec_mzero (x : Std) (s : State) : exec (.mzero x) s = execMzero x s := rfl
theorem exec_mqry (x : Std) (s : State) : exec (.mqry x) s = execMqry x s := rfl
theorem exec_rkbind (x : Std) (s : State) : exec (.rkbind x) s = execRkbind x s := rfl
theorem exec_rkray (x : Std) (s : State) : exec (.rkray x) s = execRkray x s := rfl
theorem exec_rkqry (x : Std) (s : State) : exec (.rkqry x) s = execRkqry x s := rfl
theorem exec_rksav (x : Std) (s : State) : exec (.rksav x) s = execRksav x s := rfl
theorem exec_rkres (x : Std) (s : State) : exec (.rkres x) s = execRkres x s := rfl
theorem exec_rkref (x : Std) (s : State) : exec (.rkref x) s = execRkref x s := rfl
theorem exec_rkflsh (x : Std) (s : State) : exec (.rkflsh x) s = execRkflsh x s := rfl
theorem exec_rkcan (x : Std) (s : State) : exec (.rkcan x) s = execRkcan x s := rfl
theorem exec_binpop (x : Std) (s : State) : exec (.binpop x) s = execBinpop x s := rfl
theorem exec_rstq (x : Std) (s : State) : exec (.rstq x) s = execRstq x s := rfl
theorem exec_rstqBin (x : Std) (s : State) : exec (.rstqBin x) s = execRstqBin x s := rfl
theorem exec_frgld (x : Std) (s : State) : exec (.frgld x) s = execFrgld x s := rfl
theorem exec_rate (x : Std) (s : State) : exec (.rate x) s = execRate x s := rfl
theorem exec_rgst (x : Std) (s : State) : exec (.rgst x) s = execRgst x s := rfl
theorem exec_rgld (x : Std) (s : State) : exec (.rgld x) s = execRgld x s := rfl
theorem exec_rgdone (x : Std) (s : State) : exec (.rgdone x) s = execRgdone x s := rfl
theorem exec_pstat (x : Std) (s : State) : exec (.pstat x) s = execPstat x s := rfl
theorem exec_bra (x : Std) (s : State) : exec (.bra x) s = execBra x s := rfl
theorem exec_brx (x : Std) (s : State) : exec (.brx x) s = execBrx x s := rfl
theorem exec_call (x : Std) (s : State) : exec (.call x) s = execCall x s := rfl
theorem exec_callx (x : Std) (s : State) : exec (.callx x) s = execCallx x s := rfl
theorem exec_ret (x : Std) (s : State) : exec (.ret x) s = execRet x s := rfl
theorem exec_launch (x : Std) (s : State) : exec (.launch x) s = execLaunch x s := rfl
theorem exec_join (x : Std) (s : State) : exec (.join x) s = execJoin x s := rfl
theorem exec_post (x : Std) (s : State) : exec (.post x) s = execPost x s := rfl
theorem exec_regroup (x : Std) (s : State) : exec (.regroup x) s = execRegroup x s := rfl
theorem exec_trap (x : Std) (s : State) : exec (.trap x) s = execTrap x s := rfl
theorem exec_srd (x : Std) (s : State) : exec (.srd x) s = execSrd x s := rfl
theorem exec_swr (x : Std) (s : State) : exec (.swr x) s = execSwr x s := rfl
theorem exec_twait (x : Std) (s : State) : exec (.twait x) s = execTwait x s := rfl
theorem exec_recx (x : Std) (s : State) : exec (.recx x) s = execRecx x s := rfl
theorem exec_eret (x : Std) (s : State) : exec (.eret x) s = execEret x s := rfl
theorem exec_halt (x : Std) (s : State) : exec (.halt x) s = execHalt x s := rfl
theorem exec_nop (s : State) : exec .nop s = execNop s := rfl
theorem exec_wait (n sel) (s : State) : exec (.wait n sel) s = execWait n sel s := rfl
theorem exec_yield (s : State) : exec .yield s = execYield s := rfl
theorem exec_exit (s : State) : exec .exit s = execExit s := rfl
theorem exec_brs (off) (s : State) : exec (.brs off) s = execBrs off s := rfl
theorem exec_brp (code neg off) (s : State) : exec (.brp code neg off) s = execBrp code neg off s := rfl
theorem exec_movi (imm d) (s : State) : exec (.movi imm d) s = execMovi imm d s := rfl
theorem exec_bkpt (code) (s : State) : exec (.bkpt code) s = execBkpt code s := rfl
theorem exec_rkNld (a) (s : State) : exec (.rkNld a) s = execRkNld a s := rfl
theorem exec_rkFex (d f e) (s : State) : exec (.rkFex d f e) s = execRkFex d f e s := rfl
theorem exec_rkBox (d f) (s : State) : exec (.rkBox d f) s = execRkBox d f s := rfl
theorem exec_rkTri (d f) (s : State) : exec (.rkTri d f) s = execRkTri d f s := rfl
theorem exec_rkPtd (d a f) (s : State) : exec (.rkPtd d a f) s = execRkPtd d a f s := rfl
theorem exec_rkEed (d a f e) (s : State) : exec (.rkEed d a f e) s = execRkEed d a f e s := rfl
theorem exec_rkCmpf (a b x) (s : State) : exec (.rkCmpf a b x) s = execRkCmpf a b x s := rfl
theorem exec_rkJmp (target) (s : State) : exec (.rkJmp target) s = execRkJmp target s := rfl
theorem exec_rkJc (x target) (s : State) : exec (.rkJc x target) s = execRkJc x target s := rfl
theorem exec_rkEnq (a b) (s : State) : exec (.rkEnq a b) s = execRkEnq a b s := rfl
theorem exec_rkNext (a) (s : State) : exec (.rkNext a) s = execRkNext a s := rfl
theorem exec_rkNextChild (s : State) : exec .rkNextChild s = execRkNextChild s := rfl
theorem exec_rkHmin (a b) (s : State) : exec (.rkHmin a b) s = execRkHmin a b s := rfl
theorem exec_rkEmit (a) (s : State) : exec (.rkEmit a) s = execRkEmit a s := rfl
theorem exec_rkYld (s : State) : exec .rkYld s = execRkYld s := rfl
theorem exec_rkDone (fin) (s : State) : exec (.rkDone fin) s = execRkDone fin s := rfl
theorem exec_rkFlt (code) (s : State) : exec (.rkFlt code) s = execRkFlt code s := rfl
theorem exec_qLdw (d a w im) (s : State) : exec (.qLdw d a w im) s = execQLdw d a w im s := rfl
theorem exec_qStw (d a w im) (s : State) : exec (.qStw d a w im) s = execQStw d a w im s := rfl
theorem exec_qMovi (d im) (s : State) : exec (.qMovi d im) s = execQMovi d im s := rfl
theorem exec_qMoviHi (d im) (s : State) : exec (.qMoviHi d im) s = execQMoviHi d im s := rfl
theorem exec_qAdd (d a x im) (s : State) : exec (.qAdd d a x im) s = execQAdd d a x im s := rfl
theorem exec_qSub (d a x im) (s : State) : exec (.qSub d a x im) s = execQSub d a x im s := rfl
theorem exec_qAnd (d a x im) (s : State) : exec (.qAnd d a x im) s = execQAnd d a x im s := rfl
theorem exec_qOr (d a x im) (s : State) : exec (.qOr d a x im) s = execQOr d a x im s := rfl
theorem exec_qShl (d a x im) (s : State) : exec (.qShl d a x im) s = execQShl d a x im s := rfl
theorem exec_qShr (d a x im) (s : State) : exec (.qShr d a x im) s = execQShr d a x im s := rfl
theorem exec_qCmp (d a x c im) (s : State) : exec (.qCmp d a x c im) s = execQCmp d a x c im s := rfl
theorem exec_qSel (d a x im) (s : State) : exec (.qSel d a x im) s = execQSel d a x im s := rfl
theorem exec_qBr (a c im) (s : State) : exec (.qBr a c im) s = execQBr a c im s := rfl
theorem exec_qLoop (body n) (s : State) : exec (.qLoop body n) s = execQLoop body n s := rfl
theorem exec_qDispatch (d a w t) (s : State) : exec (.qDispatch d a w t) s = execQDispatch d a w t s := rfl
theorem exec_qNode (d a n g) (s : State) : exec (.qNode d a n g) s = execQNode d a n g s := rfl
theorem exec_qWaitw (d a geu w im) (s : State) : exec (.qWaitw d a geu w im) s = execQWaitw d a geu w im s := rfl
theorem exec_qSignal (d a w im) (s : State) : exec (.qSignal d a w im) s = execQSignal d a w im s := rfl
theorem exec_qFence (s : State) : exec .qFence s = execQFence s := rfl
theorem exec_qPostrd (d im) (s : State) : exec (.qPostrd d im) s = execQPostrd d im s := rfl
theorem exec_qPostrdWait (d im) (s : State) : exec (.qPostrdWait d im) s = execQPostrdWait d im s := rfl
theorem exec_qTimeat (a) (s : State) : exec (.qTimeat a) s = execQTimeat a s := rfl
theorem exec_qIntr (a im) (s : State) : exec (.qIntr a im) s = execQIntr a im s := rfl
theorem exec_qErr (im) (s : State) : exec (.qErr im) s = execQErr im s := rfl
theorem exec_qHalt (s : State) : exec .qHalt s = execQHalt s := rfl
theorem exec_qNopb (s : State) : exec .qNopb s = execQNopb s := rfl
theorem exec_runBegin (pan slot) (s : State) : exec (.runBegin pan slot) s = execRunBegin pan slot s := rfl
theorem exec_groupExchange (pan slot) (s : State) : exec (.groupExchange pan slot) s = execGroupExchange pan slot s := rfl
theorem exec_forcedExchange (pan slot) (s : State) : exec (.forcedExchange pan slot) s = execForcedExchange pan slot s := rfl
theorem exec_regroupComplete (pan team role) (s : State) : exec (.regroupComplete pan team role) s = execRegroupComplete pan team role s := rfl
theorem exec_teamLanding (part) (s : State) : exec (.teamLanding part) s = execTeamLanding part s := rfl
theorem exec_walkComplete (pan idx) (s : State) : exec (.walkComplete pan idx) s = execWalkComplete pan idx s := rfl
theorem exec_invalidationArrival (pan part) (s : State) : exec (.invalidationArrival pan part) s = execInvalidationArrival pan part s := rfl
theorem exec_xinvDone (part) (s : State) : exec (.xinvDone part) s = execXinvDone part s := rfl
theorem exec_xinvRange (part slot pages) (s : State) : exec (.xinvRange part slot pages) s = execXinvRange part slot pages s := rfl
theorem exec_xinvSlot (part slot) (s : State) : exec (.xinvSlot part slot) s = execXinvSlot part slot s := rfl
theorem exec_xinvPartition (part) (s : State) : exec (.xinvPartition part) s = execXinvPartition part s := rfl
theorem exec_xfrRetry (part slot) (s : State) : exec (.xfrRetry part slot) s = execXfrRetry part slot s := rfl
theorem exec_faultRecordPost (part) (s : State) : exec (.faultRecordPost part) s = execFaultRecordPost part s := rfl
theorem exec_addressSpaceSlotWrite (part slot value) (s : State) : exec (.addressSpaceSlotWrite part slot value) s = execAddressSpaceSlotWrite part slot value s := rfl
theorem exec_portFillComplete (kind port) (s : State) : exec (.portFillComplete kind port) s = execPortFillComplete kind port s := rfl
theorem exec_codedWriteback (part pa) (s : State) : exec (.codedWriteback part pa) s = execCodedWriteback part pa s := rfl
theorem exec_xprTblWrite (part k off bytes) (s : State) : exec (.xprTblWrite part k off bytes) s = execXprTblWrite part k off bytes s := rfl
theorem exec_xprRetry (part slot) (s : State) : exec (.xprRetry part slot) s = execXprRetry part slot s := rfl
theorem exec_xprRetryFail (part slot) (s : State) : exec (.xprRetryFail part slot) s = execXprRetryFail part slot s := rfl
theorem exec_overflowMove (part kind port entry) (s : State) : exec (.overflowMove part kind port entry) s = execOverflowMove part kind port entry s := rfl
theorem exec_overflowRelease (part kind port entry) (s : State) : exec (.overflowRelease part kind port entry) s = execOverflowRelease part kind port entry s := rfl
theorem exec_overflowRetry (part kind port entry) (s : State) : exec (.overflowRetry part kind port entry) s = execOverflowRetry part kind port entry s := rfl
theorem exec_portRecordPost (part) (s : State) : exec (.portRecordPost part) s = execPortRecordPost part s := rfl
theorem exec_dictionaryLoad (port bytes ident) (s : State) : exec (.dictionaryLoad port bytes ident) s = execDictionaryLoad port bytes ident s := rfl
theorem exec_bedLoad (req) (s : State) : exec (.bedLoad req) s = execBedLoad req s := rfl
theorem exec_bedWrite (req) (s : State) : exec (.bedWrite req) s = execBedWrite req s := rfl
theorem exec_bedAtomic (req) (s : State) : exec (.bedAtomic req) s = execBedAtomic req s := rfl
theorem exec_orderedUpdateArrival (req) (s : State) : exec (.orderedUpdateArrival req) s = execOrderedUpdateArrival req s := rfl
theorem exec_windowTimer (bed) (s : State) : exec (.windowTimer bed) s = execWindowTimer bed s := rfl
theorem exec_bedCloseRequest (idx) (s : State) : exec (.bedCloseRequest idx) s = execBedCloseRequest idx s := rfl
theorem exec_exactAdd (req) (s : State) : exec (.exactAdd req) s = execExactAdd req s := rfl
theorem exec_tbInitOperation (req) (s : State) : exec (.tbInitOperation req) s = execTbInitOperation req s := rfl
theorem exec_tbExpectOperation (req) (s : State) : exec (.tbExpectOperation req) s = execTbExpectOperation req s := rfl
theorem exec_tbArriveOperation (req) (s : State) : exec (.tbArriveOperation req) s = execTbArriveOperation req s := rfl
theorem exec_tbDeliverOperation (req) (s : State) : exec (.tbDeliverOperation req) s = execTbDeliverOperation req s := rfl
theorem exec_tbTestOperation (req) (s : State) : exec (.tbTestOperation req) s = execTbTestOperation req s := rfl
theorem exec_phaseNotice (idx) (s : State) : exec (.phaseNotice idx) s = execPhaseNotice idx s := rfl
theorem exec_watchRetest (pan slot) (s : State) : exec (.watchRetest pan slot) s = execWatchRetest pan slot s := rfl
theorem exec_mergeBufferEvict (bed idx) (s : State) : exec (.mergeBufferEvict bed idx) s = execMergeBufferEvict bed idx s := rfl
theorem exec_lineFillReturn (idx) (s : State) : exec (.lineFillReturn idx) s = execLineFillReturn idx s := rfl
theorem exec_bedPersistRequest (idx) (s : State) : exec (.bedPersistRequest idx) s = execBedPersistRequest idx s := rfl
theorem exec_salternBudgetRefill (pan) (s : State) : exec (.salternBudgetRefill pan) s = execSalternBudgetRefill pan s := rfl
theorem exec_salWaysWrite (part mask) (s : State) : exec (.salWaysWrite part mask) s = execSalWaysWrite part mask s := rfl
theorem exec_maskReductionComplete (part) (s : State) : exec (.maskReductionComplete part) s = execMaskReductionComplete part s := rfl
theorem exec_loadReturn (idx) (s : State) : exec (.loadReturn idx) s = execLoadReturn idx s := rfl
theorem exec_writeAck (idx) (s : State) : exec (.writeAck idx) s = execWriteAck idx s := rfl
theorem exec_endpointStoreAccept (req) (s : State) : exec (.endpointStoreAccept req) s = execEndpointStoreAccept req s := rfl
theorem exec_egressPacketSend (port flow) (s : State) : exec (.egressPacketSend port flow) s = execEgressPacketSend port flow s := rfl
theorem exec_engineAdmission (pan q) (s : State) : exec (.engineAdmission pan q) s = execEngineAdmission pan q s := rfl
theorem exec_sluiceStart (pan sluice) (s : State) : exec (.sluiceStart pan sluice) s = execSluiceStart pan sluice s := rfl
theorem exec_sliceComplete (pan sluice) (s : State) : exec (.sliceComplete pan sluice) s = execSliceComplete pan sluice s := rfl
theorem exec_evqTailWrite (pan value) (s : State) : exec (.evqTailWrite pan value) s = execEvqTailWrite pan value s := rfl
theorem exec_mldbBroadcast (pan team set bbuf) (s : State) : exec (.mldbBroadcast pan team set bbuf) s = execMldbBroadcast pan team set bbuf s := rfl
theorem exec_matrixCommandComplete (pan quarter) (s : State) : exec (.matrixCommandComplete pan quarter) s = execMatrixCommandComplete pan quarter s := rfl
theorem exec_rakeClaim (pan) (s : State) : exec (.rakeClaim pan) s = execRakeClaim pan s := rfl
theorem exec_claimEntryReread (pan idx) (s : State) : exec (.claimEntryReread pan idx) s = execClaimEntryReread pan idx s := rfl
theorem exec_visitAdmission (pan visit) (s : State) : exec (.visitAdmission pan visit) s = execVisitAdmission pan visit s := rfl
theorem exec_nodeReadReturn (pan visit) (s : State) : exec (.nodeReadReturn pan visit) s = execNodeReadReturn pan visit s := rfl
theorem exec_saveRingReserve (pan visit) (s : State) : exec (.saveRingReserve pan visit) s = execSaveRingReserve pan visit s := rfl
theorem exec_finishNotice (idx) (s : State) : exec (.finishNotice idx) s = execFinishNotice idx s := rfl
theorem exec_graphicsCommandComplete (pan idx) (s : State) : exec (.graphicsCommandComplete pan idx) s = execGraphicsCommandComplete pan idx s := rfl
theorem exec_streamEnable (stream) (s : State) : exec (.streamEnable stream) s = execStreamEnable stream s := rfl
theorem exec_streamDisable (stream) (s : State) : exec (.streamDisable stream) s = execStreamDisable stream s := rfl
theorem exec_chainAdmission (stream chain) (s : State) : exec (.chainAdmission stream chain) s = execChainAdmission stream chain s := rfl
theorem exec_chainClaimable (stream chain) (s : State) : exec (.chainClaimable stream chain) s = execChainClaimable stream chain s := rfl
theorem exec_chainKill (stream chain) (s : State) : exec (.chainKill stream chain) s = execChainKill stream chain s := rfl
theorem exec_stripSerialize (stream strip) (s : State) : exec (.stripSerialize stream strip) s = execStripSerialize stream strip s := rfl
theorem exec_stripEncode (stream strip) (s : State) : exec (.stripEncode stream strip) s = execStripEncode stream strip s := rfl
theorem exec_launchPlace (idx) (s : State) : exec (.launchPlace idx) s = execLaunchPlace idx s := rfl
theorem exec_overflowListMove (part grid) (s : State) : exec (.overflowListMove part grid) s = execOverflowListMove part grid s := rfl
theorem exec_postWordAccept (idx) (s : State) : exec (.postWordAccept idx) s = execPostWordAccept idx s := rfl
theorem exec_nodeRecordEnqueue (idx) (s : State) : exec (.nodeRecordEnqueue idx) s = execNodeRecordEnqueue idx s := rfl
theorem exec_nodeTimerExpiry (part grid node) (s : State) : exec (.nodeTimerExpiry part grid node) s = execNodeTimerExpiry part grid node s := rfl
theorem exec_twaitExpiry (pan slot) (s : State) : exec (.twaitExpiry pan slot) s = execTwaitExpiry pan slot s := rfl
theorem exec_queueEnable (q) (s : State) : exec (.queueEnable q) s = execQueueEnable q s := rfl
theorem exec_queueDisable (q) (s : State) : exec (.queueDisable q) s = execQueueDisable q s := rfl
theorem exec_qwptrWrite (q value) (s : State) : exec (.qwptrWrite q value) s = execQwptrWrite q value s := rfl
theorem exec_packetHeaderRead (q) (s : State) : exec (.packetHeaderRead q) s = execPacketHeaderRead q s := rfl
theorem exec_packetStart (q) (s : State) : exec (.packetStart q) s = execPacketStart q s := rfl
theorem exec_queueWaitRecheck (q) (s : State) : exec (.queueWaitRecheck q) s = execQueueWaitRecheck q s := rfl
theorem exec_stagedEffectApply (q) (s : State) : exec (.stagedEffectApply q) s = execStagedEffectApply q s := rfl
theorem exec_gridComplete (part grid) (s : State) : exec (.gridComplete part grid) s = execGridComplete part grid s := rfl
theorem exec_energyTick (pan) (s : State) : exec (.energyTick pan) s = execEnergyTick pan s := rfl
theorem exec_plannerRecompute (s : State) : exec .plannerRecompute s = execPlannerRecompute s := rfl
theorem exec_fllStep (pan) (s : State) : exec (.fllStep pan) s = execFllStep pan s := rfl
theorem exec_deadlineReserveRefill (part) (s : State) : exec (.deadlineReserveRefill part) s = execDeadlineReserveRefill part s := rfl
theorem exec_teamIdleSeal (pan team) (s : State) : exec (.teamIdleSeal pan team) s = execTeamIdleSeal pan team s := rfl
theorem exec_panGate (pan) (s : State) : exec (.panGate pan) s = execPanGate pan s := rfl
theorem exec_schedDrain (part pan team sld) (s : State) : exec (.schedDrain part pan team sld) s = execSchedDrain part pan team sld s := rfl
theorem exec_schedSeal (part pan team sld) (s : State) : exec (.schedSeal part pan team sld) s = execSchedSeal part pan team sld s := rfl
theorem exec_schedTeardown (part pan team sld) (s : State) : exec (.schedTeardown part pan team sld) s = execSchedTeardown part pan team sld s := rfl
theorem exec_schedRestore (part pan team sld) (s : State) : exec (.schedRestore part pan team sld) s = execSchedRestore part pan team sld s := rfl
theorem exec_drainTimeout (pan team) (s : State) : exec (.drainTimeout pan team) s = execDrainTimeout pan team s := rfl
theorem exec_sealTimeout (pan team) (s : State) : exec (.sealTimeout pan team) s = execSealTimeout pan team s := rfl
theorem exec_watchdogExpiry (pan team) (s : State) : exec (.watchdogExpiry pan team) s = execWatchdogExpiry pan team s := rfl
theorem exec_contextSealed (pan team) (s : State) : exec (.contextSealed pan team) s = execContextSealed pan team s := rfl
theorem exec_contextRestore (idx pan) (s : State) : exec (.contextRestore idx pan) s = execContextRestore idx pan s := rfl
theorem exec_journalRecordDurable (pan) (s : State) : exec (.journalRecordDurable pan) s = execJournalRecordDurable pan s := rfl
theorem exec_panPowerLoss (pan keep) (s : State) : exec (.panPowerLoss pan keep) s = execPanPowerLoss pan keep s := rfl
theorem exec_panPowerRestore (pan) (s : State) : exec (.panPowerRestore pan) s = execPanPowerRestore pan s := rfl
theorem exec_devicePowerLoss (keep) (s : State) : exec (.devicePowerLoss keep) s = execDevicePowerLoss keep s := rfl
theorem exec_deviceReset (s : State) : exec .deviceReset s = execDeviceReset s := rfl
theorem exec_firmwareImageReceive (img source) (s : State) : exec (.firmwareImageReceive img source) s = execFirmwareImageReceive img source s := rfl
theorem exec_rcvRestore (pan team) (s : State) : exec (.rcvRestore pan team) s = execRcvRestore pan team s := rfl
theorem exec_rcvDiscard (pan team) (s : State) : exec (.rcvDiscard pan team) s = execRcvDiscard pan team s := rfl
theorem exec_unitError (r) (s : State) : exec (.unitError r) s = execUnitError r s := rfl
theorem exec_selfTestComplete (idx pass) (s : State) : exec (.selfTestComplete idx pass) s = execSelfTestComplete idx pass s := rfl
theorem exec_partitionEnable (part) (s : State) : exec (.partitionEnable part) s = execPartitionEnable part s := rfl
theorem exec_partitionDisable (part) (s : State) : exec (.partitionDisable part) s = execPartitionDisable part s := rfl
theorem exec_partitionSeal (part) (s : State) : exec (.partitionSeal part) s = execPartitionSeal part s := rfl
theorem exec_partitionBusyClear (part) (s : State) : exec (.partitionBusyClear part) s = execPartitionBusyClear part s := rfl
theorem exec_pmPansWrite (part k value) (s : State) : exec (.pmPansWrite part k value) s = execPmPansWrite part k value s := rfl
theorem exec_pmOwnWrite (extent value) (s : State) : exec (.pmOwnWrite extent value) s = execPmOwnWrite extent value s := rfl
theorem exec_attestationQuote (part challenge) (s : State) : exec (.attestationQuote part challenge) s = execAttestationQuote part challenge s := rfl
theorem exec_sltWrite (p) (s : State) : exec (.sltWrite p) s = execSltWrite p s := rfl
theorem exec_sltRead (p) (s : State) : exec (.sltRead p) s = execSltRead p s := rfl
theorem exec_sltAck (p) (s : State) : exec (.sltAck p) s = execSltAck p s := rfl
theorem exec_sltNack (p) (s : State) : exec (.sltNack p) s = execSltNack p s := rfl
theorem exec_sltResendTimer (vf conn) (s : State) : exec (.sltResendTimer vf conn) s = execSltResendTimer vf conn s := rfl
theorem exec_pauseFrameReceive (port) (s : State) : exec (.pauseFrameReceive port) s = execPauseFrameReceive port s := rfl
theorem exec_linkUp (port peer dict) (s : State) : exec (.linkUp port peer dict) s = execLinkUp port peer dict s := rfl
theorem exec_sideFrameReceive (port f) (s : State) : exec (.sideFrameReceive port f) s = execSideFrameReceive port f s := rfl
theorem exec_remoteRequest (port idx) (s : State) : exec (.remoteRequest port idx) s = execRemoteRequest port idx s := rfl
theorem exec_ptpEnable (en) (s : State) : exec (.ptpEnable en) s = execPtpEnable en s := rfl
theorem exec_ptpAnnounce (gm) (s : State) : exec (.ptpAnnounce gm) s = execPtpAnnounce gm s := rfl
theorem exec_ptpSync (seq master arrival) (s : State) : exec (.ptpSync seq master arrival) s = execPtpSync seq master arrival s := rfl
theorem exec_ptpFollowUp (seq master) (s : State) : exec (.ptpFollowUp seq master) s = execPtpFollowUp seq master s := rfl
theorem exec_ptpDelayReq (s : State) : exec .ptpDelayReq s = execPtpDelayReq s := rfl
theorem exec_ptpDelayResp (received) (s : State) : exec (.ptpDelayResp received) s = execPtpDelayResp received s := rfl
theorem exec_announceTimeout (s : State) : exec .announceTimeout s = execAnnounceTimeout s := rfl
theorem exec_stmSecRead (s : State) : exec .stmSecRead s = execStmSecRead s := rfl
theorem exec_registerWrite (vf r value) (s : State) : exec (.registerWrite vf r value) s = execRegisterWrite vf r value s := rfl
theorem exec_errorLogPost (s : State) : exec .errorLogPost s = execErrorLogPost s := rfl
theorem exec_completionRingPost (q) (s : State) : exec (.completionRingPost q) s = execCompletionRingPost q s := rfl
theorem exec_timeatExpiry (q) (s : State) : exec (.timeatExpiry q) s = execTimeatExpiry q s := rfl
theorem exec_brineWindowWriteDone (idx) (s : State) : exec (.brineWindowWriteDone idx) s = execBrineWindowWriteDone idx s := rfl
theorem exec_outputStripDrained (stream strip) (s : State) : exec (.outputStripDrained stream strip) s = execOutputStripDrained stream strip s := rfl
theorem exec_portLinkLoss (port) (s : State) : exec (.portLinkLoss port) s = execPortLinkLoss port s := rfl

end Sys2Proof.Machine
end

