-- ==== Sys2Proof/Laws/Tables.lean ====
section
/-! SUPPORT. Sparse tables and memory: what a read gives after a write, and that every operation keeps the ascending,
canonical form. -/

namespace Sys2Proof

variable {V : Type}

/-! ## Reading after writing -/

@[simp] theorem tget_nil (k : Nat) : tget ([] : Tbl V) k = none := rfl

@[simp] theorem tget_cons (j : Nat) (v : V) (r : Tbl V) (k : Nat) :
    tget ((j, v) :: r) k = if j = k then some v else tget r k := rfl

/-- Reading gives what was written, at the place written. -/
@[simp] theorem tget_tput_same (t : Tbl V) (k : Nat) (v : V) : tget (tput t k v) k = some v := by
  induction t with
  | nil => simp [tput]
  | cons e r ih =>
    obtain ⟨j, w⟩ := e
    simp only [tput]
    split
    · simp
    · split
      · simp
      · rename_i h1 h2
        have : ¬ j = k := fun h => h2 h.symm
        simp [this, ih]

/-- Every other place reads as before. -/
theorem tget_tput_other (t : Tbl V) {k j : Nat} (v : V) (h : j ≠ k) : tget (tput t k v) j = tget t j := by
  induction t with
  | nil => simp [tput, Ne.symm h]
  | cons e r ih =>
    obtain ⟨i, w⟩ := e
    simp only [tput]
    split
    · simp [Ne.symm h]
    · split
      · rename_i h1 h2
        subst h2
        simp [Ne.symm h]
      · simp [ih]

/-- Changing an entry changes it where there is one. -/
@[simp] theorem tget_tmod_same (t : Tbl V) (k : Nat) (f : V → V) : tget (tmod t k f) k = (tget t k).map f := by
  induction t with
  | nil => rfl
  | cons e r ih =>
    obtain ⟨j, w⟩ := e
    simp only [tmod]
    split
    · rename_i h; simp [h]
    · rename_i h; simp [h, ih]

/-- Changing an entry leaves the others. -/
theorem tget_tmod_other (t : Tbl V) {k j : Nat} (f : V → V) (h : j ≠ k) : tget (tmod t k f) j = tget t j := by
  induction t with
  | nil => rfl
  | cons e r ih =>
    obtain ⟨i, w⟩ := e
    simp only [tmod]
    split
    · rename_i h2; subst h2; simp [Ne.symm h]
    · simp [ih]

/-- Changing every entry changes each as its own number says. -/
@[simp] theorem tget_tmap (t : Tbl V) (f : Nat → V → V) (k : Nat) : tget (tmap t f) k = (tget t k).map (f k) := by
  induction t with
  | nil => rfl
  | cons e r ih =>
    obtain ⟨j, w⟩ := e
    simp only [tmap, List.map_cons, tget_cons] at ih ⊢
    split
    · rename_i h; simp [h]
    · simpa using ih

/-- A removal leaves the other entries. -/
theorem tget_tdel_other (t : Tbl V) {k j : Nat} (h : j ≠ k) : tget (tdel t k) j = tget t j := by
  induction t with
  | nil => rfl
  | cons e r ih =>
    obtain ⟨i, w⟩ := e
    simp only [tdel]
    split
    · rename_i h2; subst h2; simp [Ne.symm h, ih]
    · simp [ih]

/-- A removed number is not listed. -/
@[simp] theorem tget_tdel_same (t : Tbl V) (k : Nat) : tget (tdel t k) k = none := by
  induction t with
  | nil => rfl
  | cons e r ih =>
    obtain ⟨i, w⟩ := e
    simp only [tdel]
    split
    · exact ih
    · rename_i h1; simp [h1, ih]

/-- Reading with a default gives what was written, also where the default itself was. -/
@[simp] theorem tgetD_tputD_same [DecidableEq V] (d : V) (t : Tbl V) (k : Nat) (v : V) : tgetD (tputD d t k v) k d = v := by
  unfold tgetD tputD
  split
  · rename_i h; simp [h]
  · simp

theorem tgetD_tputD_other [DecidableEq V] (d : V) (t : Tbl V) {k j : Nat} (v : V) (h : j ≠ k) :
    tgetD (tputD d t k v) j d = tgetD t j d := by
  unfold tgetD tputD
  split
  · rw [tget_tdel_other t h]
  · rw [tget_tput_other t v h]

/-! ## The ascending form -/

/-- Every number of a table lies above `k`. -/
def TAbove (k : Nat) (t : Tbl V) : Prop := ∀ e ∈ t, k < e.1

theorem tSorted_cons (j : Nat) (v : V) (r : Tbl V) : tSorted ((j, v) :: r) = true ↔ TAbove j r ∧ tSorted r = true := by
  induction r generalizing j v with
  | nil => simp [tSorted, TAbove]
  | cons e r ih =>
    obtain ⟨i, w⟩ := e
    simp only [tSorted, Bool.and_eq_true, decide_eq_true_eq]
    constructor
    · rintro ⟨h1, h2⟩
      refine ⟨?_, h2⟩
      intro e he
      rcases List.mem_cons.1 he with rfl | he
      · exact h1
      · exact Nat.lt_trans h1 (((ih i w).1 h2).1 e he)
    · rintro ⟨h1, h2⟩
      exact ⟨h1 _ (List.mem_cons_self ..), h2⟩

theorem tAbove_tput {k j : Nat} {t : Tbl V} (v : V) (hk : k < j) (h : TAbove k t) : TAbove k (tput t j v) := by
  induction t with
  | nil => intro e he; simp [tput] at he; subst he; exact hk
  | cons e r ih =>
    obtain ⟨i, w⟩ := e
    have hr : TAbove k r := fun e he => h e (List.mem_cons_of_mem _ he)
    have hi : k < i := h _ (List.mem_cons_self ..)
    simp only [tput]
    split
    · intro e he
      rcases List.mem_cons.1 he with rfl | he
      · exact hk
      · exact h e he
    · split
      · intro e he
        rcases List.mem_cons.1 he with rfl | he
        · exact hk
        · exact hr e he
      · intro e he
        rcases List.mem_cons.1 he with rfl | he
        · exact hi
        · exact ih hr e he

/-- A write keeps the ascending form. -/
theorem tSorted_tput {t : Tbl V} (k : Nat) (v : V) (h : tSorted t = true) : tSorted (tput t k v) = true := by
  induction t with
  | nil => rfl
  | cons e r ih =>
    obtain ⟨i, w⟩ := e
    obtain ⟨ha, hr⟩ := (tSorted_cons i w r).1 h
    simp only [tput]
    split
    · rename_i hk
      refine (tSorted_cons ..).2 ⟨?_, h⟩
      intro e he
      rcases List.mem_cons.1 he with rfl | he
      · exact hk
      · exact Nat.lt_trans hk (ha e he)
    · split
      · rename_i hk; subst hk; exact (tSorted_cons ..).2 ⟨ha, hr⟩
      · rename_i h1 h2
        have hik : i < k := by omega
        exact (tSorted_cons ..).2 ⟨tAbove_tput v hik ha, ih hr⟩

theorem tAbove_tdel {k : Nat} (j : Nat) {t : Tbl V} (h : TAbove k t) : TAbove k (tdel t j) := by
  induction t with
  | nil => exact h
  | cons e r ih =>
    obtain ⟨i, w⟩ := e
    have hr : TAbove k r := fun e he => h e (List.mem_cons_of_mem _ he)
    simp only [tdel]
    split
    · exact ih hr
    · intro e he
      rcases List.mem_cons.1 he with rfl | he
      · exact h _ (List.mem_cons_self ..)
      · exact ih hr e he

/-- A removal keeps the ascending form. -/
theorem tSorted_tdel {t : Tbl V} (k : Nat) (h : tSorted t = true) : tSorted (tdel t k) = true := by
  induction t with
  | nil => rfl
  | cons e r ih =>
    obtain ⟨i, w⟩ := e
    obtain ⟨ha, hr⟩ := (tSorted_cons i w r).1 h
    simp only [tdel]
    split
    · exact ih hr
    · exact (tSorted_cons ..).2 ⟨tAbove_tdel k ha, ih hr⟩

end Sys2Proof

namespace Sys2Proof.Machine

/-! ## Memory in canonical form -/

theorem all_tput {P : Byte → Bool} {t : Tbl Byte} (k : Nat) {v : Byte} (hv : P v = true)
    (h : t.all (fun c => P c.2) = true) : (tput t k v).all (fun c => P c.2) = true := by
  induction t with
  | nil => simp [tput, hv]
  | cons e r ih =>
    obtain ⟨i, w⟩ := e
    simp only [List.all_cons, Bool.and_eq_true] at h
    simp only [tput]
    split
    · simp [hv, h.1, h.2]
    · split
      · simp [hv, h.2]
      · simp [h.1, ih h.2]

theorem all_tdel {P : Byte → Bool} {t : Tbl Byte} (k : Nat) (h : t.all (fun c => P c.2) = true) :
    (tdel t k).all (fun c => P c.2) = true := by
  induction t with
  | nil => rfl
  | cons e r ih =>
    obtain ⟨i, w⟩ := e
    simp only [List.all_cons, Bool.and_eq_true] at h
    simp only [tdel]
    split
    · exact ih h.2
    · simp [h.1, ih h.2]

/-- Writing a byte keeps the canonical form. -/
theorem mput_wf {m : Memory} (a : Nat) (b : Byte) (h : Memory.wf m = true) : Memory.wf (mput m a b) = true := by
  simp only [Memory.wf, Bool.and_eq_true] at h ⊢
  unfold mput tputD
  split
  · exact ⟨tSorted_tdel a h.1, all_tdel (P := fun x => x != 0) a h.2⟩
  · rename_i hb
    exact ⟨tSorted_tput a b h.1, all_tput (P := fun x => x != 0) a (by simpa using hb) h.2⟩

/-- Writing bytes keeps the canonical form. -/
theorem mwrite_wf {m : Memory} (a : Nat) (bs : List Byte) (h : Memory.wf m = true) : Memory.wf (mwrite m a bs) = true := by
  induction bs generalizing m a with
  | nil => exact h
  | cons b r ih => exact ih (a + 1) (mput_wf a b h)

/-- A byte reads as it was written. -/
@[simp] theorem mget_mput_same (m : Memory) (a : Nat) (b : Byte) : mget (mput m a b) a = b := tgetD_tputD_same 0 m a b

/-- A write leaves every other byte. -/
theorem mget_mput_other (m : Memory) {a x : Nat} (b : Byte) (h : x ≠ a) : mget (mput m a b) x = mget m x :=
  tgetD_tputD_other 0 m b h

/-- A write of bytes leaves every byte outside them. -/
theorem mget_mwrite_outside (m : Memory) (a : Nat) (bs : List Byte) {x : Nat} (h : x < a ∨ a + bs.length ≤ x) :
    mget (mwrite m a bs) x = mget m x := by
  induction bs generalizing m a with
  | nil => rfl
  | cons b r ih =>
    simp only [List.length_cons] at h
    simp only [mwrite]
    rw [ih _ _ (by omega), mget_mput_other m b (by omega)]

/-- Bytes written read back at their places. -/
theorem mget_mwrite_inside (m : Memory) (a : Nat) (bs : List Byte) {k : Nat} (hk : k < bs.length) :
    mget (mwrite m a bs) (a + k) = bs[k] := by
  induction bs generalizing m a k with
  | nil => exact absurd hk (Nat.not_lt_zero _)
  | cons b r ih =>
    simp only [mwrite]
    cases k with
    | zero =>
      rw [mget_mwrite_outside _ _ _ (by omega)]
      simp
    | succ k =>
      have := ih (mput m a b) (a + 1) (k := k) (by simpa using hk)
      simpa [Nat.add_assoc, Nat.add_comm 1 k] using this

end Sys2Proof.Machine
end

