-- ==== Sys2Proof/Laws/State.lean ====
section
/-! SUPPORT. What each named update of the state leaves, field by field, and what it changes. -/

namespace Sys2Proof.Machine

/-! ## modPan -/

section

variable (s : State) (p : Nat) (f : Pan → Pan)

@[simp] theorem modPan_agenda : (s.modPan p f).agenda = s.agenda := rfl
@[simp] theorem modPan_freeCtr : (s.modPan p f).freeCtr = s.freeCtr := rfl
@[simp] theorem modPan_actor : (s.modPan p f).actor = s.actor := rfl
@[simp] theorem modPan_nextId : (s.modPan p f).nextId = s.nextId := rfl
@[simp] theorem modPan_clock : (s.modPan p f).clock = s.clock := rfl
@[simp] theorem modPan_mem : (s.modPan p f).mem = s.mem := rfl
@[simp] theorem modPan_parts : (s.modPan p f).parts = s.parts := rfl
@[simp] theorem modPan_grids : (s.modPan p f).grids = s.grids := rfl
@[simp] theorem modPan_xmem : (s.modPan p f).xmem = s.xmem := rfl
@[simp] theorem modPan_durable : (s.modPan p f).durable = s.durable := rfl
@[simp] theorem modPan_brineWrites : (s.modPan p f).brineWrites = s.brineWrites := rfl
@[simp] theorem modPan_beds : (s.modPan p f).beds = s.beds := rfl
@[simp] theorem modPan_fills : (s.modPan p f).fills = s.fills := rfl
@[simp] theorem modPan_wants : (s.modPan p f).wants = s.wants := rfl
@[simp] theorem modPan_fabric : (s.modPan p f).fabric = s.fabric := rfl
@[simp] theorem modPan_resps : (s.modPan p f).resps = s.resps := rfl
@[simp] theorem modPan_prefs : (s.modPan p f).prefs = s.prefs := rfl
@[simp] theorem modPan_receipts : (s.modPan p f).receipts = s.receipts := rfl
@[simp] theorem modPan_closes : (s.modPan p f).closes = s.closes := rfl
@[simp] theorem modPan_persists : (s.modPan p f).persists = s.persists := rfl
@[simp] theorem modPan_blockFills : (s.modPan p f).blockFills = s.blockFills := rfl
@[simp] theorem modPan_blockOuts : (s.modPan p f).blockOuts = s.blockOuts := rfl
@[simp] theorem modPan_overflow : (s.modPan p f).overflow = s.overflow := rfl
@[simp] theorem modPan_joined : (s.modPan p f).joined = s.joined := rfl
@[simp] theorem modPan_contexts : (s.modPan p f).contexts = s.contexts := rfl
@[simp] theorem modPan_dstatClears : (s.modPan p f).dstatClears = s.dstatClears := rfl
@[simp] theorem modPan_launches : (s.modPan p f).launches = s.launches := rfl
@[simp] theorem modPan_posts : (s.modPan p f).posts = s.posts := rfl
@[simp] theorem modPan_recs : (s.modPan p f).recs = s.recs := rfl
@[simp] theorem modPan_pool : (s.modPan p f).pool = s.pool := rfl
@[simp] theorem modPan_queues : (s.modPan p f).queues = s.queues := rfl
@[simp] theorem modPan_lastServed : (s.modPan p f).lastServed = s.lastServed := rfl
@[simp] theorem modPan_queries : (s.modPan p f).queries = s.queries := rfl
@[simp] theorem modPan_finishes : (s.modPan p f).finishes = s.finishes := rfl
@[simp] theorem modPan_eventReceipts : (s.modPan p f).eventReceipts = s.eventReceipts := rfl
@[simp] theorem modPan_streams : (s.modPan p f).streams = s.streams := rfl
@[simp] theorem modPan_drains : (s.modPan p f).drains = s.drains := rfl
@[simp] theorem modPan_harvest : (s.modPan p f).harvest = s.harvest := rfl
@[simp] theorem modPan_plim : (s.modPan p f).plim = s.plim := rfl
@[simp] theorem modPan_planTick : (s.modPan p f).planTick = s.planTick := rfl
@[simp] theorem modPan_wire : (s.modPan p f).wire = s.wire := rfl
@[simp] theorem modPan_pmOwn : (s.modPan p f).pmOwn = s.pmOwn := rfl
@[simp] theorem modPan_sideOwn : (s.modPan p f).sideOwn = s.sideOwn := rfl
@[simp] theorem modPan_bad : (s.modPan p f).bad = s.bad := rfl
@[simp] theorem modPan_err : (s.modPan p f).err = s.err := rfl
@[simp] theorem modPan_errLost : (s.modPan p f).errLost = s.errLost := rfl
@[simp] theorem modPan_tests : (s.modPan p f).tests = s.tests := rfl
@[simp] theorem modPan_passed : (s.modPan p f).passed = s.passed := rfl
@[simp] theorem modPan_fenFront : (s.modPan p f).fenFront = s.fenFront := rfl
@[simp] theorem modPan_fenSide : (s.modPan p f).fenSide = s.fenSide := rfl
@[simp] theorem modPan_rcv : (s.modPan p f).rcv = s.rcv := rfl
@[simp] theorem modPan_boot : (s.modPan p f).boot = s.boot := rfl
@[simp] theorem modPan_slt : (s.modPan p f).slt = s.slt := rfl
@[simp] theorem modPan_flows : (s.modPan p f).flows = s.flows := rfl
@[simp] theorem modPan_apertures : (s.modPan p f).apertures = s.apertures := rfl
@[simp] theorem modPan_links : (s.modPan p f).links = s.links := rfl
@[simp] theorem modPan_pauses : (s.modPan p f).pauses = s.pauses := rfl
@[simp] theorem modPan_ptp : (s.modPan p f).ptp = s.ptp := rfl
@[simp] theorem modPan_subLatch : (s.modPan p f).subLatch = s.subLatch := rfl

end

/-! ## modPart -/

section

variable (s : State) (p : Nat) (f : Part → Part)

@[simp] theorem modPart_agenda : (s.modPart p f).agenda = s.agenda := rfl
@[simp] theorem modPart_freeCtr : (s.modPart p f).freeCtr = s.freeCtr := rfl
@[simp] theorem modPart_actor : (s.modPart p f).actor = s.actor := rfl
@[simp] theorem modPart_nextId : (s.modPart p f).nextId = s.nextId := rfl
@[simp] theorem modPart_clock : (s.modPart p f).clock = s.clock := rfl
@[simp] theorem modPart_mem : (s.modPart p f).mem = s.mem := rfl
@[simp] theorem modPart_pans : (s.modPart p f).pans = s.pans := rfl
@[simp] theorem modPart_grids : (s.modPart p f).grids = s.grids := rfl
@[simp] theorem modPart_xmem : (s.modPart p f).xmem = s.xmem := rfl
@[simp] theorem modPart_durable : (s.modPart p f).durable = s.durable := rfl
@[simp] theorem modPart_brineWrites : (s.modPart p f).brineWrites = s.brineWrites := rfl
@[simp] theorem modPart_beds : (s.modPart p f).beds = s.beds := rfl
@[simp] theorem modPart_fills : (s.modPart p f).fills = s.fills := rfl
@[simp] theorem modPart_wants : (s.modPart p f).wants = s.wants := rfl
@[simp] theorem modPart_fabric : (s.modPart p f).fabric = s.fabric := rfl
@[simp] theorem modPart_resps : (s.modPart p f).resps = s.resps := rfl
@[simp] theorem modPart_prefs : (s.modPart p f).prefs = s.prefs := rfl
@[simp] theorem modPart_receipts : (s.modPart p f).receipts = s.receipts := rfl
@[simp] theorem modPart_closes : (s.modPart p f).closes = s.closes := rfl
@[simp] theorem modPart_persists : (s.modPart p f).persists = s.persists := rfl
@[simp] theorem modPart_blockFills : (s.modPart p f).blockFills = s.blockFills := rfl
@[simp] theorem modPart_blockOuts : (s.modPart p f).blockOuts = s.blockOuts := rfl
@[simp] theorem modPart_overflow : (s.modPart p f).overflow = s.overflow := rfl
@[simp] theorem modPart_joined : (s.modPart p f).joined = s.joined := rfl
@[simp] theorem modPart_contexts : (s.modPart p f).contexts = s.contexts := rfl
@[simp] theorem modPart_dstatClears : (s.modPart p f).dstatClears = s.dstatClears := rfl
@[simp] theorem modPart_launches : (s.modPart p f).launches = s.launches := rfl
@[simp] theorem modPart_posts : (s.modPart p f).posts = s.posts := rfl
@[simp] theorem modPart_recs : (s.modPart p f).recs = s.recs := rfl
@[simp] theorem modPart_pool : (s.modPart p f).pool = s.pool := rfl
@[simp] theorem modPart_queues : (s.modPart p f).queues = s.queues := rfl
@[simp] theorem modPart_lastServed : (s.modPart p f).lastServed = s.lastServed := rfl
@[simp] theorem modPart_queries : (s.modPart p f).queries = s.queries := rfl
@[simp] theorem modPart_finishes : (s.modPart p f).finishes = s.finishes := rfl
@[simp] theorem modPart_eventReceipts : (s.modPart p f).eventReceipts = s.eventReceipts := rfl
@[simp] theorem modPart_streams : (s.modPart p f).streams = s.streams := rfl
@[simp] theorem modPart_drains : (s.modPart p f).drains = s.drains := rfl
@[simp] theorem modPart_harvest : (s.modPart p f).harvest = s.harvest := rfl
@[simp] theorem modPart_plim : (s.modPart p f).plim = s.plim := rfl
@[simp] theorem modPart_planTick : (s.modPart p f).planTick = s.planTick := rfl
@[simp] theorem modPart_wire : (s.modPart p f).wire = s.wire := rfl
@[simp] theorem modPart_pmOwn : (s.modPart p f).pmOwn = s.pmOwn := rfl
@[simp] theorem modPart_sideOwn : (s.modPart p f).sideOwn = s.sideOwn := rfl
@[simp] theorem modPart_bad : (s.modPart p f).bad = s.bad := rfl
@[simp] theorem modPart_err : (s.modPart p f).err = s.err := rfl
@[simp] theorem modPart_errLost : (s.modPart p f).errLost = s.errLost := rfl
@[simp] theorem modPart_tests : (s.modPart p f).tests = s.tests := rfl
@[simp] theorem modPart_passed : (s.modPart p f).passed = s.passed := rfl
@[simp] theorem modPart_fenFront : (s.modPart p f).fenFront = s.fenFront := rfl
@[simp] theorem modPart_fenSide : (s.modPart p f).fenSide = s.fenSide := rfl
@[simp] theorem modPart_rcv : (s.modPart p f).rcv = s.rcv := rfl
@[simp] theorem modPart_boot : (s.modPart p f).boot = s.boot := rfl
@[simp] theorem modPart_slt : (s.modPart p f).slt = s.slt := rfl
@[simp] theorem modPart_flows : (s.modPart p f).flows = s.flows := rfl
@[simp] theorem modPart_apertures : (s.modPart p f).apertures = s.apertures := rfl
@[simp] theorem modPart_links : (s.modPart p f).links = s.links := rfl
@[simp] theorem modPart_pauses : (s.modPart p f).pauses = s.pauses := rfl
@[simp] theorem modPart_ptp : (s.modPart p f).ptp = s.ptp := rfl
@[simp] theorem modPart_subLatch : (s.modPart p f).subLatch = s.subLatch := rfl

end

/-! ## modGrid -/

section

variable (s : State) (p id : Nat) (f : Grid → Grid)

@[simp] theorem modGrid_agenda : (s.modGrid p id f).agenda = s.agenda := rfl
@[simp] theorem modGrid_freeCtr : (s.modGrid p id f).freeCtr = s.freeCtr := rfl
@[simp] theorem modGrid_actor : (s.modGrid p id f).actor = s.actor := rfl
@[simp] theorem modGrid_nextId : (s.modGrid p id f).nextId = s.nextId := rfl
@[simp] theorem modGrid_clock : (s.modGrid p id f).clock = s.clock := rfl
@[simp] theorem modGrid_mem : (s.modGrid p id f).mem = s.mem := rfl
@[simp] theorem modGrid_pans : (s.modGrid p id f).pans = s.pans := rfl
@[simp] theorem modGrid_parts : (s.modGrid p id f).parts = s.parts := rfl
@[simp] theorem modGrid_xmem : (s.modGrid p id f).xmem = s.xmem := rfl
@[simp] theorem modGrid_durable : (s.modGrid p id f).durable = s.durable := rfl
@[simp] theorem modGrid_brineWrites : (s.modGrid p id f).brineWrites = s.brineWrites := rfl
@[simp] theorem modGrid_beds : (s.modGrid p id f).beds = s.beds := rfl
@[simp] theorem modGrid_fills : (s.modGrid p id f).fills = s.fills := rfl
@[simp] theorem modGrid_wants : (s.modGrid p id f).wants = s.wants := rfl
@[simp] theorem modGrid_fabric : (s.modGrid p id f).fabric = s.fabric := rfl
@[simp] theorem modGrid_resps : (s.modGrid p id f).resps = s.resps := rfl
@[simp] theorem modGrid_prefs : (s.modGrid p id f).prefs = s.prefs := rfl
@[simp] theorem modGrid_receipts : (s.modGrid p id f).receipts = s.receipts := rfl
@[simp] theorem modGrid_closes : (s.modGrid p id f).closes = s.closes := rfl
@[simp] theorem modGrid_persists : (s.modGrid p id f).persists = s.persists := rfl
@[simp] theorem modGrid_blockFills : (s.modGrid p id f).blockFills = s.blockFills := rfl
@[simp] theorem modGrid_blockOuts : (s.modGrid p id f).blockOuts = s.blockOuts := rfl
@[simp] theorem modGrid_overflow : (s.modGrid p id f).overflow = s.overflow := rfl
@[simp] theorem modGrid_joined : (s.modGrid p id f).joined = s.joined := rfl
@[simp] theorem modGrid_contexts : (s.modGrid p id f).contexts = s.contexts := rfl
@[simp] theorem modGrid_dstatClears : (s.modGrid p id f).dstatClears = s.dstatClears := rfl
@[simp] theorem modGrid_launches : (s.modGrid p id f).launches = s.launches := rfl
@[simp] theorem modGrid_posts : (s.modGrid p id f).posts = s.posts := rfl
@[simp] theorem modGrid_recs : (s.modGrid p id f).recs = s.recs := rfl
@[simp] theorem modGrid_pool : (s.modGrid p id f).pool = s.pool := rfl
@[simp] theorem modGrid_queues : (s.modGrid p id f).queues = s.queues := rfl
@[simp] theorem modGrid_lastServed : (s.modGrid p id f).lastServed = s.lastServed := rfl
@[simp] theorem modGrid_queries : (s.modGrid p id f).queries = s.queries := rfl
@[simp] theorem modGrid_finishes : (s.modGrid p id f).finishes = s.finishes := rfl
@[simp] theorem modGrid_eventReceipts : (s.modGrid p id f).eventReceipts = s.eventReceipts := rfl
@[simp] theorem modGrid_streams : (s.modGrid p id f).streams = s.streams := rfl
@[simp] theorem modGrid_drains : (s.modGrid p id f).drains = s.drains := rfl
@[simp] theorem modGrid_harvest : (s.modGrid p id f).harvest = s.harvest := rfl
@[simp] theorem modGrid_plim : (s.modGrid p id f).plim = s.plim := rfl
@[simp] theorem modGrid_planTick : (s.modGrid p id f).planTick = s.planTick := rfl
@[simp] theorem modGrid_wire : (s.modGrid p id f).wire = s.wire := rfl
@[simp] theorem modGrid_pmOwn : (s.modGrid p id f).pmOwn = s.pmOwn := rfl
@[simp] theorem modGrid_sideOwn : (s.modGrid p id f).sideOwn = s.sideOwn := rfl
@[simp] theorem modGrid_bad : (s.modGrid p id f).bad = s.bad := rfl
@[simp] theorem modGrid_err : (s.modGrid p id f).err = s.err := rfl
@[simp] theorem modGrid_errLost : (s.modGrid p id f).errLost = s.errLost := rfl
@[simp] theorem modGrid_tests : (s.modGrid p id f).tests = s.tests := rfl
@[simp] theorem modGrid_passed : (s.modGrid p id f).passed = s.passed := rfl
@[simp] theorem modGrid_fenFront : (s.modGrid p id f).fenFront = s.fenFront := rfl
@[simp] theorem modGrid_fenSide : (s.modGrid p id f).fenSide = s.fenSide := rfl
@[simp] theorem modGrid_rcv : (s.modGrid p id f).rcv = s.rcv := rfl
@[simp] theorem modGrid_boot : (s.modGrid p id f).boot = s.boot := rfl
@[simp] theorem modGrid_slt : (s.modGrid p id f).slt = s.slt := rfl
@[simp] theorem modGrid_flows : (s.modGrid p id f).flows = s.flows := rfl
@[simp] theorem modGrid_apertures : (s.modGrid p id f).apertures = s.apertures := rfl
@[simp] theorem modGrid_links : (s.modGrid p id f).links = s.links := rfl
@[simp] theorem modGrid_pauses : (s.modGrid p id f).pauses = s.pauses := rfl
@[simp] theorem modGrid_ptp : (s.modGrid p id f).ptp = s.ptp := rfl
@[simp] theorem modGrid_subLatch : (s.modGrid p id f).subLatch = s.subLatch := rfl

end

/-! ## modStream -/

section

variable (s : State) (i : Nat) (f : Stream → Stream)

@[simp] theorem modStream_agenda : (s.modStream i f).agenda = s.agenda := rfl
@[simp] theorem modStream_freeCtr : (s.modStream i f).freeCtr = s.freeCtr := rfl
@[simp] theorem modStream_actor : (s.modStream i f).actor = s.actor := rfl
@[simp] theorem modStream_nextId : (s.modStream i f).nextId = s.nextId := rfl
@[simp] theorem modStream_clock : (s.modStream i f).clock = s.clock := rfl
@[simp] theorem modStream_mem : (s.modStream i f).mem = s.mem := rfl
@[simp] theorem modStream_pans : (s.modStream i f).pans = s.pans := rfl
@[simp] theorem modStream_parts : (s.modStream i f).parts = s.parts := rfl
@[simp] theorem modStream_grids : (s.modStream i f).grids = s.grids := rfl
@[simp] theorem modStream_xmem : (s.modStream i f).xmem = s.xmem := rfl
@[simp] theorem modStream_durable : (s.modStream i f).durable = s.durable := rfl
@[simp] theorem modStream_brineWrites : (s.modStream i f).brineWrites = s.brineWrites := rfl
@[simp] theorem modStream_beds : (s.modStream i f).beds = s.beds := rfl
@[simp] theorem modStream_fills : (s.modStream i f).fills = s.fills := rfl
@[simp] theorem modStream_wants : (s.modStream i f).wants = s.wants := rfl
@[simp] theorem modStream_fabric : (s.modStream i f).fabric = s.fabric := rfl
@[simp] theorem modStream_resps : (s.modStream i f).resps = s.resps := rfl
@[simp] theorem modStream_prefs : (s.modStream i f).prefs = s.prefs := rfl
@[simp] theorem modStream_receipts : (s.modStream i f).receipts = s.receipts := rfl
@[simp] theorem modStream_closes : (s.modStream i f).closes = s.closes := rfl
@[simp] theorem modStream_persists : (s.modStream i f).persists = s.persists := rfl
@[simp] theorem modStream_blockFills : (s.modStream i f).blockFills = s.blockFills := rfl
@[simp] theorem modStream_blockOuts : (s.modStream i f).blockOuts = s.blockOuts := rfl
@[simp] theorem modStream_overflow : (s.modStream i f).overflow = s.overflow := rfl
@[simp] theorem modStream_joined : (s.modStream i f).joined = s.joined := rfl
@[simp] theorem modStream_contexts : (s.modStream i f).contexts = s.contexts := rfl
@[simp] theorem modStream_dstatClears : (s.modStream i f).dstatClears = s.dstatClears := rfl
@[simp] theorem modStream_launches : (s.modStream i f).launches = s.launches := rfl
@[simp] theorem modStream_posts : (s.modStream i f).posts = s.posts := rfl
@[simp] theorem modStream_recs : (s.modStream i f).recs = s.recs := rfl
@[simp] theorem modStream_pool : (s.modStream i f).pool = s.pool := rfl
@[simp] theorem modStream_queues : (s.modStream i f).queues = s.queues := rfl
@[simp] theorem modStream_lastServed : (s.modStream i f).lastServed = s.lastServed := rfl
@[simp] theorem modStream_queries : (s.modStream i f).queries = s.queries := rfl
@[simp] theorem modStream_finishes : (s.modStream i f).finishes = s.finishes := rfl
@[simp] theorem modStream_eventReceipts : (s.modStream i f).eventReceipts = s.eventReceipts := rfl
@[simp] theorem modStream_drains : (s.modStream i f).drains = s.drains := rfl
@[simp] theorem modStream_harvest : (s.modStream i f).harvest = s.harvest := rfl
@[simp] theorem modStream_plim : (s.modStream i f).plim = s.plim := rfl
@[simp] theorem modStream_planTick : (s.modStream i f).planTick = s.planTick := rfl
@[simp] theorem modStream_wire : (s.modStream i f).wire = s.wire := rfl
@[simp] theorem modStream_pmOwn : (s.modStream i f).pmOwn = s.pmOwn := rfl
@[simp] theorem modStream_sideOwn : (s.modStream i f).sideOwn = s.sideOwn := rfl
@[simp] theorem modStream_bad : (s.modStream i f).bad = s.bad := rfl
@[simp] theorem modStream_err : (s.modStream i f).err = s.err := rfl
@[simp] theorem modStream_errLost : (s.modStream i f).errLost = s.errLost := rfl
@[simp] theorem modStream_tests : (s.modStream i f).tests = s.tests := rfl
@[simp] theorem modStream_passed : (s.modStream i f).passed = s.passed := rfl
@[simp] theorem modStream_fenFront : (s.modStream i f).fenFront = s.fenFront := rfl
@[simp] theorem modStream_fenSide : (s.modStream i f).fenSide = s.fenSide := rfl
@[simp] theorem modStream_rcv : (s.modStream i f).rcv = s.rcv := rfl
@[simp] theorem modStream_boot : (s.modStream i f).boot = s.boot := rfl
@[simp] theorem modStream_slt : (s.modStream i f).slt = s.slt := rfl
@[simp] theorem modStream_flows : (s.modStream i f).flows = s.flows := rfl
@[simp] theorem modStream_apertures : (s.modStream i f).apertures = s.apertures := rfl
@[simp] theorem modStream_links : (s.modStream i f).links = s.links := rfl
@[simp] theorem modStream_pauses : (s.modStream i f).pauses = s.pauses := rfl
@[simp] theorem modStream_ptp : (s.modStream i f).ptp = s.ptp := rfl
@[simp] theorem modStream_subLatch : (s.modStream i f).subLatch = s.subLatch := rfl

end

/-! ## modBed -/

section

variable (s : State) (b : Nat) (f : Bed → Bed)

@[simp] theorem modBed_agenda : (s.modBed b f).agenda = s.agenda := rfl
@[simp] theorem modBed_freeCtr : (s.modBed b f).freeCtr = s.freeCtr := rfl
@[simp] theorem modBed_actor : (s.modBed b f).actor = s.actor := rfl
@[simp] theorem modBed_nextId : (s.modBed b f).nextId = s.nextId := rfl
@[simp] theorem modBed_clock : (s.modBed b f).clock = s.clock := rfl
@[simp] theorem modBed_mem : (s.modBed b f).mem = s.mem := rfl
@[simp] theorem modBed_pans : (s.modBed b f).pans = s.pans := rfl
@[simp] theorem modBed_parts : (s.modBed b f).parts = s.parts := rfl
@[simp] theorem modBed_grids : (s.modBed b f).grids = s.grids := rfl
@[simp] theorem modBed_xmem : (s.modBed b f).xmem = s.xmem := rfl
@[simp] theorem modBed_durable : (s.modBed b f).durable = s.durable := rfl
@[simp] theorem modBed_brineWrites : (s.modBed b f).brineWrites = s.brineWrites := rfl
@[simp] theorem modBed_fills : (s.modBed b f).fills = s.fills := rfl
@[simp] theorem modBed_wants : (s.modBed b f).wants = s.wants := rfl
@[simp] theorem modBed_fabric : (s.modBed b f).fabric = s.fabric := rfl
@[simp] theorem modBed_resps : (s.modBed b f).resps = s.resps := rfl
@[simp] theorem modBed_prefs : (s.modBed b f).prefs = s.prefs := rfl
@[simp] theorem modBed_receipts : (s.modBed b f).receipts = s.receipts := rfl
@[simp] theorem modBed_closes : (s.modBed b f).closes = s.closes := rfl
@[simp] theorem modBed_persists : (s.modBed b f).persists = s.persists := rfl
@[simp] theorem modBed_blockFills : (s.modBed b f).blockFills = s.blockFills := rfl
@[simp] theorem modBed_blockOuts : (s.modBed b f).blockOuts = s.blockOuts := rfl
@[simp] theorem modBed_overflow : (s.modBed b f).overflow = s.overflow := rfl
@[simp] theorem modBed_joined : (s.modBed b f).joined = s.joined := rfl
@[simp] theorem modBed_contexts : (s.modBed b f).contexts = s.contexts := rfl
@[simp] theorem modBed_dstatClears : (s.modBed b f).dstatClears = s.dstatClears := rfl
@[simp] theorem modBed_launches : (s.modBed b f).launches = s.launches := rfl
@[simp] theorem modBed_posts : (s.modBed b f).posts = s.posts := rfl
@[simp] theorem modBed_recs : (s.modBed b f).recs = s.recs := rfl
@[simp] theorem modBed_pool : (s.modBed b f).pool = s.pool := rfl
@[simp] theorem modBed_queues : (s.modBed b f).queues = s.queues := rfl
@[simp] theorem modBed_lastServed : (s.modBed b f).lastServed = s.lastServed := rfl
@[simp] theorem modBed_queries : (s.modBed b f).queries = s.queries := rfl
@[simp] theorem modBed_finishes : (s.modBed b f).finishes = s.finishes := rfl
@[simp] theorem modBed_eventReceipts : (s.modBed b f).eventReceipts = s.eventReceipts := rfl
@[simp] theorem modBed_streams : (s.modBed b f).streams = s.streams := rfl
@[simp] theorem modBed_drains : (s.modBed b f).drains = s.drains := rfl
@[simp] theorem modBed_harvest : (s.modBed b f).harvest = s.harvest := rfl
@[simp] theorem modBed_plim : (s.modBed b f).plim = s.plim := rfl
@[simp] theorem modBed_planTick : (s.modBed b f).planTick = s.planTick := rfl
@[simp] theorem modBed_wire : (s.modBed b f).wire = s.wire := rfl
@[simp] theorem modBed_pmOwn : (s.modBed b f).pmOwn = s.pmOwn := rfl
@[simp] theorem modBed_sideOwn : (s.modBed b f).sideOwn = s.sideOwn := rfl
@[simp] theorem modBed_bad : (s.modBed b f).bad = s.bad := rfl
@[simp] theorem modBed_err : (s.modBed b f).err = s.err := rfl
@[simp] theorem modBed_errLost : (s.modBed b f).errLost = s.errLost := rfl
@[simp] theorem modBed_tests : (s.modBed b f).tests = s.tests := rfl
@[simp] theorem modBed_passed : (s.modBed b f).passed = s.passed := rfl
@[simp] theorem modBed_fenFront : (s.modBed b f).fenFront = s.fenFront := rfl
@[simp] theorem modBed_fenSide : (s.modBed b f).fenSide = s.fenSide := rfl
@[simp] theorem modBed_rcv : (s.modBed b f).rcv = s.rcv := rfl
@[simp] theorem modBed_boot : (s.modBed b f).boot = s.boot := rfl
@[simp] theorem modBed_slt : (s.modBed b f).slt = s.slt := rfl
@[simp] theorem modBed_flows : (s.modBed b f).flows = s.flows := rfl
@[simp] theorem modBed_apertures : (s.modBed b f).apertures = s.apertures := rfl
@[simp] theorem modBed_links : (s.modBed b f).links = s.links := rfl
@[simp] theorem modBed_pauses : (s.modBed b f).pauses = s.pauses := rfl
@[simp] theorem modBed_ptp : (s.modBed b f).ptp = s.ptp := rfl
@[simp] theorem modBed_subLatch : (s.modBed b f).subLatch = s.subLatch := rfl

end

/-! ## modQueue -/

section

variable (s : State) (n : Nat) (f : Queue → Queue)

@[simp] theorem modQueue_agenda : (s.modQueue n f).agenda = s.agenda := rfl
@[simp] theorem modQueue_freeCtr : (s.modQueue n f).freeCtr = s.freeCtr := rfl
@[simp] theorem modQueue_actor : (s.modQueue n f).actor = s.actor := rfl
@[simp] theorem modQueue_nextId : (s.modQueue n f).nextId = s.nextId := rfl
@[simp] theorem modQueue_clock : (s.modQueue n f).clock = s.clock := rfl
@[simp] theorem modQueue_mem : (s.modQueue n f).mem = s.mem := rfl
@[simp] theorem modQueue_pans : (s.modQueue n f).pans = s.pans := rfl
@[simp] theorem modQueue_parts : (s.modQueue n f).parts = s.parts := rfl
@[simp] theorem modQueue_grids : (s.modQueue n f).grids = s.grids := rfl
@[simp] theorem modQueue_xmem : (s.modQueue n f).xmem = s.xmem := rfl
@[simp] theorem modQueue_durable : (s.modQueue n f).durable = s.durable := rfl
@[simp] theorem modQueue_brineWrites : (s.modQueue n f).brineWrites = s.brineWrites := rfl
@[simp] theorem modQueue_beds : (s.modQueue n f).beds = s.beds := rfl
@[simp] theorem modQueue_fills : (s.modQueue n f).fills = s.fills := rfl
@[simp] theorem modQueue_wants : (s.modQueue n f).wants = s.wants := rfl
@[simp] theorem modQueue_fabric : (s.modQueue n f).fabric = s.fabric := rfl
@[simp] theorem modQueue_resps : (s.modQueue n f).resps = s.resps := rfl
@[simp] theorem modQueue_prefs : (s.modQueue n f).prefs = s.prefs := rfl
@[simp] theorem modQueue_receipts : (s.modQueue n f).receipts = s.receipts := rfl
@[simp] theorem modQueue_closes : (s.modQueue n f).closes = s.closes := rfl
@[simp] theorem modQueue_persists : (s.modQueue n f).persists = s.persists := rfl
@[simp] theorem modQueue_blockFills : (s.modQueue n f).blockFills = s.blockFills := rfl
@[simp] theorem modQueue_blockOuts : (s.modQueue n f).blockOuts = s.blockOuts := rfl
@[simp] theorem modQueue_overflow : (s.modQueue n f).overflow = s.overflow := rfl
@[simp] theorem modQueue_joined : (s.modQueue n f).joined = s.joined := rfl
@[simp] theorem modQueue_contexts : (s.modQueue n f).contexts = s.contexts := rfl
@[simp] theorem modQueue_dstatClears : (s.modQueue n f).dstatClears = s.dstatClears := rfl
@[simp] theorem modQueue_launches : (s.modQueue n f).launches = s.launches := rfl
@[simp] theorem modQueue_posts : (s.modQueue n f).posts = s.posts := rfl
@[simp] theorem modQueue_recs : (s.modQueue n f).recs = s.recs := rfl
@[simp] theorem modQueue_pool : (s.modQueue n f).pool = s.pool := rfl
@[simp] theorem modQueue_lastServed : (s.modQueue n f).lastServed = s.lastServed := rfl
@[simp] theorem modQueue_queries : (s.modQueue n f).queries = s.queries := rfl
@[simp] theorem modQueue_finishes : (s.modQueue n f).finishes = s.finishes := rfl
@[simp] theorem modQueue_eventReceipts : (s.modQueue n f).eventReceipts = s.eventReceipts := rfl
@[simp] theorem modQueue_streams : (s.modQueue n f).streams = s.streams := rfl
@[simp] theorem modQueue_drains : (s.modQueue n f).drains = s.drains := rfl
@[simp] theorem modQueue_harvest : (s.modQueue n f).harvest = s.harvest := rfl
@[simp] theorem modQueue_plim : (s.modQueue n f).plim = s.plim := rfl
@[simp] theorem modQueue_planTick : (s.modQueue n f).planTick = s.planTick := rfl
@[simp] theorem modQueue_wire : (s.modQueue n f).wire = s.wire := rfl
@[simp] theorem modQueue_pmOwn : (s.modQueue n f).pmOwn = s.pmOwn := rfl
@[simp] theorem modQueue_sideOwn : (s.modQueue n f).sideOwn = s.sideOwn := rfl
@[simp] theorem modQueue_bad : (s.modQueue n f).bad = s.bad := rfl
@[simp] theorem modQueue_err : (s.modQueue n f).err = s.err := rfl
@[simp] theorem modQueue_errLost : (s.modQueue n f).errLost = s.errLost := rfl
@[simp] theorem modQueue_tests : (s.modQueue n f).tests = s.tests := rfl
@[simp] theorem modQueue_passed : (s.modQueue n f).passed = s.passed := rfl
@[simp] theorem modQueue_fenFront : (s.modQueue n f).fenFront = s.fenFront := rfl
@[simp] theorem modQueue_fenSide : (s.modQueue n f).fenSide = s.fenSide := rfl
@[simp] theorem modQueue_rcv : (s.modQueue n f).rcv = s.rcv := rfl
@[simp] theorem modQueue_boot : (s.modQueue n f).boot = s.boot := rfl
@[simp] theorem modQueue_slt : (s.modQueue n f).slt = s.slt := rfl
@[simp] theorem modQueue_flows : (s.modQueue n f).flows = s.flows := rfl
@[simp] theorem modQueue_apertures : (s.modQueue n f).apertures = s.apertures := rfl
@[simp] theorem modQueue_links : (s.modQueue n f).links = s.links := rfl
@[simp] theorem modQueue_pauses : (s.modQueue n f).pauses = s.pauses := rfl
@[simp] theorem modQueue_ptp : (s.modQueue n f).ptp = s.ptp := rfl
@[simp] theorem modQueue_subLatch : (s.modQueue n f).subLatch = s.subLatch := rfl

end

/-! ## modLink -/

section

variable (s : State) (port : Nat) (f : SideLink → SideLink)

@[simp] theorem modLink_agenda : (s.modLink port f).agenda = s.agenda := rfl
@[simp] theorem modLink_freeCtr : (s.modLink port f).freeCtr = s.freeCtr := rfl
@[simp] theorem modLink_actor : (s.modLink port f).actor = s.actor := rfl
@[simp] theorem modLink_nextId : (s.modLink port f).nextId = s.nextId := rfl
@[simp] theorem modLink_clock : (s.modLink port f).clock = s.clock := rfl
@[simp] theorem modLink_mem : (s.modLink port f).mem = s.mem := rfl
@[simp] theorem modLink_pans : (s.modLink port f).pans = s.pans := rfl
@[simp] theorem modLink_parts : (s.modLink port f).parts = s.parts := rfl
@[simp] theorem modLink_grids : (s.modLink port f).grids = s.grids := rfl
@[simp] theorem modLink_xmem : (s.modLink port f).xmem = s.xmem := rfl
@[simp] theorem modLink_durable : (s.modLink port f).durable = s.durable := rfl
@[simp] theorem modLink_brineWrites : (s.modLink port f).brineWrites = s.brineWrites := rfl
@[simp] theorem modLink_beds : (s.modLink port f).beds = s.beds := rfl
@[simp] theorem modLink_fills : (s.modLink port f).fills = s.fills := rfl
@[simp] theorem modLink_wants : (s.modLink port f).wants = s.wants := rfl
@[simp] theorem modLink_fabric : (s.modLink port f).fabric = s.fabric := rfl
@[simp] theorem modLink_resps : (s.modLink port f).resps = s.resps := rfl
@[simp] theorem modLink_prefs : (s.modLink port f).prefs = s.prefs := rfl
@[simp] theorem modLink_receipts : (s.modLink port f).receipts = s.receipts := rfl
@[simp] theorem modLink_closes : (s.modLink port f).closes = s.closes := rfl
@[simp] theorem modLink_persists : (s.modLink port f).persists = s.persists := rfl
@[simp] theorem modLink_blockFills : (s.modLink port f).blockFills = s.blockFills := rfl
@[simp] theorem modLink_blockOuts : (s.modLink port f).blockOuts = s.blockOuts := rfl
@[simp] theorem modLink_overflow : (s.modLink port f).overflow = s.overflow := rfl
@[simp] theorem modLink_joined : (s.modLink port f).joined = s.joined := rfl
@[simp] theorem modLink_contexts : (s.modLink port f).contexts = s.contexts := rfl
@[simp] theorem modLink_dstatClears : (s.modLink port f).dstatClears = s.dstatClears := rfl
@[simp] theorem modLink_launches : (s.modLink port f).launches = s.launches := rfl
@[simp] theorem modLink_posts : (s.modLink port f).posts = s.posts := rfl
@[simp] theorem modLink_recs : (s.modLink port f).recs = s.recs := rfl
@[simp] theorem modLink_pool : (s.modLink port f).pool = s.pool := rfl
@[simp] theorem modLink_queues : (s.modLink port f).queues = s.queues := rfl
@[simp] theorem modLink_lastServed : (s.modLink port f).lastServed = s.lastServed := rfl
@[simp] theorem modLink_queries : (s.modLink port f).queries = s.queries := rfl
@[simp] theorem modLink_finishes : (s.modLink port f).finishes = s.finishes := rfl
@[simp] theorem modLink_eventReceipts : (s.modLink port f).eventReceipts = s.eventReceipts := rfl
@[simp] theorem modLink_streams : (s.modLink port f).streams = s.streams := rfl
@[simp] theorem modLink_drains : (s.modLink port f).drains = s.drains := rfl
@[simp] theorem modLink_harvest : (s.modLink port f).harvest = s.harvest := rfl
@[simp] theorem modLink_plim : (s.modLink port f).plim = s.plim := rfl
@[simp] theorem modLink_planTick : (s.modLink port f).planTick = s.planTick := rfl
@[simp] theorem modLink_wire : (s.modLink port f).wire = s.wire := rfl
@[simp] theorem modLink_pmOwn : (s.modLink port f).pmOwn = s.pmOwn := rfl
@[simp] theorem modLink_sideOwn : (s.modLink port f).sideOwn = s.sideOwn := rfl
@[simp] theorem modLink_bad : (s.modLink port f).bad = s.bad := rfl
@[simp] theorem modLink_err : (s.modLink port f).err = s.err := rfl
@[simp] theorem modLink_errLost : (s.modLink port f).errLost = s.errLost := rfl
@[simp] theorem modLink_tests : (s.modLink port f).tests = s.tests := rfl
@[simp] theorem modLink_passed : (s.modLink port f).passed = s.passed := rfl
@[simp] theorem modLink_fenFront : (s.modLink port f).fenFront = s.fenFront := rfl
@[simp] theorem modLink_fenSide : (s.modLink port f).fenSide = s.fenSide := rfl
@[simp] theorem modLink_rcv : (s.modLink port f).rcv = s.rcv := rfl
@[simp] theorem modLink_boot : (s.modLink port f).boot = s.boot := rfl
@[simp] theorem modLink_slt : (s.modLink port f).slt = s.slt := rfl
@[simp] theorem modLink_flows : (s.modLink port f).flows = s.flows := rfl
@[simp] theorem modLink_apertures : (s.modLink port f).apertures = s.apertures := rfl
@[simp] theorem modLink_pauses : (s.modLink port f).pauses = s.pauses := rfl
@[simp] theorem modLink_ptp : (s.modLink port f).ptp = s.ptp := rfl
@[simp] theorem modLink_subLatch : (s.modLink port f).subLatch = s.subLatch := rfl

end

/-! ## modFlow -/

section

variable (s : State) (port flow : Nat) (f : Flow → Flow)

@[simp] theorem modFlow_agenda : (s.modFlow port flow f).agenda = s.agenda := rfl
@[simp] theorem modFlow_freeCtr : (s.modFlow port flow f).freeCtr = s.freeCtr := rfl
@[simp] theorem modFlow_actor : (s.modFlow port flow f).actor = s.actor := rfl
@[simp] theorem modFlow_nextId : (s.modFlow port flow f).nextId = s.nextId := rfl
@[simp] theorem modFlow_clock : (s.modFlow port flow f).clock = s.clock := rfl
@[simp] theorem modFlow_mem : (s.modFlow port flow f).mem = s.mem := rfl
@[simp] theorem modFlow_pans : (s.modFlow port flow f).pans = s.pans := rfl
@[simp] theorem modFlow_parts : (s.modFlow port flow f).parts = s.parts := rfl
@[simp] theorem modFlow_grids : (s.modFlow port flow f).grids = s.grids := rfl
@[simp] theorem modFlow_xmem : (s.modFlow port flow f).xmem = s.xmem := rfl
@[simp] theorem modFlow_durable : (s.modFlow port flow f).durable = s.durable := rfl
@[simp] theorem modFlow_brineWrites : (s.modFlow port flow f).brineWrites = s.brineWrites := rfl
@[simp] theorem modFlow_beds : (s.modFlow port flow f).beds = s.beds := rfl
@[simp] theorem modFlow_fills : (s.modFlow port flow f).fills = s.fills := rfl
@[simp] theorem modFlow_wants : (s.modFlow port flow f).wants = s.wants := rfl
@[simp] theorem modFlow_fabric : (s.modFlow port flow f).fabric = s.fabric := rfl
@[simp] theorem modFlow_resps : (s.modFlow port flow f).resps = s.resps := rfl
@[simp] theorem modFlow_prefs : (s.modFlow port flow f).prefs = s.prefs := rfl
@[simp] theorem modFlow_receipts : (s.modFlow port flow f).receipts = s.receipts := rfl
@[simp] theorem modFlow_closes : (s.modFlow port flow f).closes = s.closes := rfl
@[simp] theorem modFlow_persists : (s.modFlow port flow f).persists = s.persists := rfl
@[simp] theorem modFlow_blockFills : (s.modFlow port flow f).blockFills = s.blockFills := rfl
@[simp] theorem modFlow_blockOuts : (s.modFlow port flow f).blockOuts = s.blockOuts := rfl
@[simp] theorem modFlow_overflow : (s.modFlow port flow f).overflow = s.overflow := rfl
@[simp] theorem modFlow_joined : (s.modFlow port flow f).joined = s.joined := rfl
@[simp] theorem modFlow_contexts : (s.modFlow port flow f).contexts = s.contexts := rfl
@[simp] theorem modFlow_dstatClears : (s.modFlow port flow f).dstatClears = s.dstatClears := rfl
@[simp] theorem modFlow_launches : (s.modFlow port flow f).launches = s.launches := rfl
@[simp] theorem modFlow_posts : (s.modFlow port flow f).posts = s.posts := rfl
@[simp] theorem modFlow_recs : (s.modFlow port flow f).recs = s.recs := rfl
@[simp] theorem modFlow_pool : (s.modFlow port flow f).pool = s.pool := rfl
@[simp] theorem modFlow_queues : (s.modFlow port flow f).queues = s.queues := rfl
@[simp] theorem modFlow_lastServed : (s.modFlow port flow f).lastServed = s.lastServed := rfl
@[simp] theorem modFlow_queries : (s.modFlow port flow f).queries = s.queries := rfl
@[simp] theorem modFlow_finishes : (s.modFlow port flow f).finishes = s.finishes := rfl
@[simp] theorem modFlow_eventReceipts : (s.modFlow port flow f).eventReceipts = s.eventReceipts := rfl
@[simp] theorem modFlow_streams : (s.modFlow port flow f).streams = s.streams := rfl
@[simp] theorem modFlow_drains : (s.modFlow port flow f).drains = s.drains := rfl
@[simp] theorem modFlow_harvest : (s.modFlow port flow f).harvest = s.harvest := rfl
@[simp] theorem modFlow_plim : (s.modFlow port flow f).plim = s.plim := rfl
@[simp] theorem modFlow_planTick : (s.modFlow port flow f).planTick = s.planTick := rfl
@[simp] theorem modFlow_wire : (s.modFlow port flow f).wire = s.wire := rfl
@[simp] theorem modFlow_pmOwn : (s.modFlow port flow f).pmOwn = s.pmOwn := rfl
@[simp] theorem modFlow_sideOwn : (s.modFlow port flow f).sideOwn = s.sideOwn := rfl
@[simp] theorem modFlow_bad : (s.modFlow port flow f).bad = s.bad := rfl
@[simp] theorem modFlow_err : (s.modFlow port flow f).err = s.err := rfl
@[simp] theorem modFlow_errLost : (s.modFlow port flow f).errLost = s.errLost := rfl
@[simp] theorem modFlow_tests : (s.modFlow port flow f).tests = s.tests := rfl
@[simp] theorem modFlow_passed : (s.modFlow port flow f).passed = s.passed := rfl
@[simp] theorem modFlow_fenFront : (s.modFlow port flow f).fenFront = s.fenFront := rfl
@[simp] theorem modFlow_fenSide : (s.modFlow port flow f).fenSide = s.fenSide := rfl
@[simp] theorem modFlow_rcv : (s.modFlow port flow f).rcv = s.rcv := rfl
@[simp] theorem modFlow_boot : (s.modFlow port flow f).boot = s.boot := rfl
@[simp] theorem modFlow_slt : (s.modFlow port flow f).slt = s.slt := rfl
@[simp] theorem modFlow_apertures : (s.modFlow port flow f).apertures = s.apertures := rfl
@[simp] theorem modFlow_links : (s.modFlow port flow f).links = s.links := rfl
@[simp] theorem modFlow_pauses : (s.modFlow port flow f).pauses = s.pauses := rfl
@[simp] theorem modFlow_ptp : (s.modFlow port flow f).ptp = s.ptp := rfl
@[simp] theorem modFlow_subLatch : (s.modFlow port flow f).subLatch = s.subLatch := rfl

end

/-! ## modConn -/

section

variable (s : State) (vf conn : Nat) (f : SltConn → SltConn)

@[simp] theorem modConn_agenda : (s.modConn vf conn f).agenda = s.agenda := rfl
@[simp] theorem modConn_freeCtr : (s.modConn vf conn f).freeCtr = s.freeCtr := rfl
@[simp] theorem modConn_actor : (s.modConn vf conn f).actor = s.actor := rfl
@[simp] theorem modConn_nextId : (s.modConn vf conn f).nextId = s.nextId := rfl
@[simp] theorem modConn_clock : (s.modConn vf conn f).clock = s.clock := rfl
@[simp] theorem modConn_mem : (s.modConn vf conn f).mem = s.mem := rfl
@[simp] theorem modConn_pans : (s.modConn vf conn f).pans = s.pans := rfl
@[simp] theorem modConn_parts : (s.modConn vf conn f).parts = s.parts := rfl
@[simp] theorem modConn_grids : (s.modConn vf conn f).grids = s.grids := rfl
@[simp] theorem modConn_xmem : (s.modConn vf conn f).xmem = s.xmem := rfl
@[simp] theorem modConn_durable : (s.modConn vf conn f).durable = s.durable := rfl
@[simp] theorem modConn_brineWrites : (s.modConn vf conn f).brineWrites = s.brineWrites := rfl
@[simp] theorem modConn_beds : (s.modConn vf conn f).beds = s.beds := rfl
@[simp] theorem modConn_fills : (s.modConn vf conn f).fills = s.fills := rfl
@[simp] theorem modConn_wants : (s.modConn vf conn f).wants = s.wants := rfl
@[simp] theorem modConn_fabric : (s.modConn vf conn f).fabric = s.fabric := rfl
@[simp] theorem modConn_resps : (s.modConn vf conn f).resps = s.resps := rfl
@[simp] theorem modConn_prefs : (s.modConn vf conn f).prefs = s.prefs := rfl
@[simp] theorem modConn_receipts : (s.modConn vf conn f).receipts = s.receipts := rfl
@[simp] theorem modConn_closes : (s.modConn vf conn f).closes = s.closes := rfl
@[simp] theorem modConn_persists : (s.modConn vf conn f).persists = s.persists := rfl
@[simp] theorem modConn_blockFills : (s.modConn vf conn f).blockFills = s.blockFills := rfl
@[simp] theorem modConn_blockOuts : (s.modConn vf conn f).blockOuts = s.blockOuts := rfl
@[simp] theorem modConn_overflow : (s.modConn vf conn f).overflow = s.overflow := rfl
@[simp] theorem modConn_joined : (s.modConn vf conn f).joined = s.joined := rfl
@[simp] theorem modConn_contexts : (s.modConn vf conn f).contexts = s.contexts := rfl
@[simp] theorem modConn_dstatClears : (s.modConn vf conn f).dstatClears = s.dstatClears := rfl
@[simp] theorem modConn_launches : (s.modConn vf conn f).launches = s.launches := rfl
@[simp] theorem modConn_posts : (s.modConn vf conn f).posts = s.posts := rfl
@[simp] theorem modConn_recs : (s.modConn vf conn f).recs = s.recs := rfl
@[simp] theorem modConn_pool : (s.modConn vf conn f).pool = s.pool := rfl
@[simp] theorem modConn_queues : (s.modConn vf conn f).queues = s.queues := rfl
@[simp] theorem modConn_lastServed : (s.modConn vf conn f).lastServed = s.lastServed := rfl
@[simp] theorem modConn_queries : (s.modConn vf conn f).queries = s.queries := rfl
@[simp] theorem modConn_finishes : (s.modConn vf conn f).finishes = s.finishes := rfl
@[simp] theorem modConn_eventReceipts : (s.modConn vf conn f).eventReceipts = s.eventReceipts := rfl
@[simp] theorem modConn_streams : (s.modConn vf conn f).streams = s.streams := rfl
@[simp] theorem modConn_drains : (s.modConn vf conn f).drains = s.drains := rfl
@[simp] theorem modConn_harvest : (s.modConn vf conn f).harvest = s.harvest := rfl
@[simp] theorem modConn_plim : (s.modConn vf conn f).plim = s.plim := rfl
@[simp] theorem modConn_planTick : (s.modConn vf conn f).planTick = s.planTick := rfl
@[simp] theorem modConn_wire : (s.modConn vf conn f).wire = s.wire := rfl
@[simp] theorem modConn_pmOwn : (s.modConn vf conn f).pmOwn = s.pmOwn := rfl
@[simp] theorem modConn_sideOwn : (s.modConn vf conn f).sideOwn = s.sideOwn := rfl
@[simp] theorem modConn_bad : (s.modConn vf conn f).bad = s.bad := rfl
@[simp] theorem modConn_err : (s.modConn vf conn f).err = s.err := rfl
@[simp] theorem modConn_errLost : (s.modConn vf conn f).errLost = s.errLost := rfl
@[simp] theorem modConn_tests : (s.modConn vf conn f).tests = s.tests := rfl
@[simp] theorem modConn_passed : (s.modConn vf conn f).passed = s.passed := rfl
@[simp] theorem modConn_fenFront : (s.modConn vf conn f).fenFront = s.fenFront := rfl
@[simp] theorem modConn_fenSide : (s.modConn vf conn f).fenSide = s.fenSide := rfl
@[simp] theorem modConn_rcv : (s.modConn vf conn f).rcv = s.rcv := rfl
@[simp] theorem modConn_boot : (s.modConn vf conn f).boot = s.boot := rfl
@[simp] theorem modConn_flows : (s.modConn vf conn f).flows = s.flows := rfl
@[simp] theorem modConn_apertures : (s.modConn vf conn f).apertures = s.apertures := rfl
@[simp] theorem modConn_links : (s.modConn vf conn f).links = s.links := rfl
@[simp] theorem modConn_pauses : (s.modConn vf conn f).pauses = s.pauses := rfl
@[simp] theorem modConn_ptp : (s.modConn vf conn f).ptp = s.ptp := rfl
@[simp] theorem modConn_subLatch : (s.modConn vf conn f).subLatch = s.subLatch := rfl

end

/-! ## modPtp -/

section

variable (s : State) (f : Ptp → Ptp)

@[simp] theorem modPtp_agenda : (s.modPtp f).agenda = s.agenda := rfl
@[simp] theorem modPtp_freeCtr : (s.modPtp f).freeCtr = s.freeCtr := rfl
@[simp] theorem modPtp_actor : (s.modPtp f).actor = s.actor := rfl
@[simp] theorem modPtp_nextId : (s.modPtp f).nextId = s.nextId := rfl
@[simp] theorem modPtp_clock : (s.modPtp f).clock = s.clock := rfl
@[simp] theorem modPtp_mem : (s.modPtp f).mem = s.mem := rfl
@[simp] theorem modPtp_pans : (s.modPtp f).pans = s.pans := rfl
@[simp] theorem modPtp_parts : (s.modPtp f).parts = s.parts := rfl
@[simp] theorem modPtp_grids : (s.modPtp f).grids = s.grids := rfl
@[simp] theorem modPtp_xmem : (s.modPtp f).xmem = s.xmem := rfl
@[simp] theorem modPtp_durable : (s.modPtp f).durable = s.durable := rfl
@[simp] theorem modPtp_brineWrites : (s.modPtp f).brineWrites = s.brineWrites := rfl
@[simp] theorem modPtp_beds : (s.modPtp f).beds = s.beds := rfl
@[simp] theorem modPtp_fills : (s.modPtp f).fills = s.fills := rfl
@[simp] theorem modPtp_wants : (s.modPtp f).wants = s.wants := rfl
@[simp] theorem modPtp_fabric : (s.modPtp f).fabric = s.fabric := rfl
@[simp] theorem modPtp_resps : (s.modPtp f).resps = s.resps := rfl
@[simp] theorem modPtp_prefs : (s.modPtp f).prefs = s.prefs := rfl
@[simp] theorem modPtp_receipts : (s.modPtp f).receipts = s.receipts := rfl
@[simp] theorem modPtp_closes : (s.modPtp f).closes = s.closes := rfl
@[simp] theorem modPtp_persists : (s.modPtp f).persists = s.persists := rfl
@[simp] theorem modPtp_blockFills : (s.modPtp f).blockFills = s.blockFills := rfl
@[simp] theorem modPtp_blockOuts : (s.modPtp f).blockOuts = s.blockOuts := rfl
@[simp] theorem modPtp_overflow : (s.modPtp f).overflow = s.overflow := rfl
@[simp] theorem modPtp_joined : (s.modPtp f).joined = s.joined := rfl
@[simp] theorem modPtp_contexts : (s.modPtp f).contexts = s.contexts := rfl
@[simp] theorem modPtp_dstatClears : (s.modPtp f).dstatClears = s.dstatClears := rfl
@[simp] theorem modPtp_launches : (s.modPtp f).launches = s.launches := rfl
@[simp] theorem modPtp_posts : (s.modPtp f).posts = s.posts := rfl
@[simp] theorem modPtp_recs : (s.modPtp f).recs = s.recs := rfl
@[simp] theorem modPtp_pool : (s.modPtp f).pool = s.pool := rfl
@[simp] theorem modPtp_queues : (s.modPtp f).queues = s.queues := rfl
@[simp] theorem modPtp_lastServed : (s.modPtp f).lastServed = s.lastServed := rfl
@[simp] theorem modPtp_queries : (s.modPtp f).queries = s.queries := rfl
@[simp] theorem modPtp_finishes : (s.modPtp f).finishes = s.finishes := rfl
@[simp] theorem modPtp_eventReceipts : (s.modPtp f).eventReceipts = s.eventReceipts := rfl
@[simp] theorem modPtp_streams : (s.modPtp f).streams = s.streams := rfl
@[simp] theorem modPtp_drains : (s.modPtp f).drains = s.drains := rfl
@[simp] theorem modPtp_harvest : (s.modPtp f).harvest = s.harvest := rfl
@[simp] theorem modPtp_plim : (s.modPtp f).plim = s.plim := rfl
@[simp] theorem modPtp_planTick : (s.modPtp f).planTick = s.planTick := rfl
@[simp] theorem modPtp_wire : (s.modPtp f).wire = s.wire := rfl
@[simp] theorem modPtp_pmOwn : (s.modPtp f).pmOwn = s.pmOwn := rfl
@[simp] theorem modPtp_sideOwn : (s.modPtp f).sideOwn = s.sideOwn := rfl
@[simp] theorem modPtp_bad : (s.modPtp f).bad = s.bad := rfl
@[simp] theorem modPtp_err : (s.modPtp f).err = s.err := rfl
@[simp] theorem modPtp_errLost : (s.modPtp f).errLost = s.errLost := rfl
@[simp] theorem modPtp_tests : (s.modPtp f).tests = s.tests := rfl
@[simp] theorem modPtp_passed : (s.modPtp f).passed = s.passed := rfl
@[simp] theorem modPtp_fenFront : (s.modPtp f).fenFront = s.fenFront := rfl
@[simp] theorem modPtp_fenSide : (s.modPtp f).fenSide = s.fenSide := rfl
@[simp] theorem modPtp_rcv : (s.modPtp f).rcv = s.rcv := rfl
@[simp] theorem modPtp_boot : (s.modPtp f).boot = s.boot := rfl
@[simp] theorem modPtp_slt : (s.modPtp f).slt = s.slt := rfl
@[simp] theorem modPtp_flows : (s.modPtp f).flows = s.flows := rfl
@[simp] theorem modPtp_apertures : (s.modPtp f).apertures = s.apertures := rfl
@[simp] theorem modPtp_links : (s.modPtp f).links = s.links := rfl
@[simp] theorem modPtp_pauses : (s.modPtp f).pauses = s.pauses := rfl
@[simp] theorem modPtp_subLatch : (s.modPtp f).subLatch = s.subLatch := rfl

end

/-! ## modAperture -/

section

variable (s : State) (port e : Nat) (f : Aperture → Aperture)

@[simp] theorem modAperture_agenda : (s.modAperture port e f).agenda = s.agenda := rfl
@[simp] theorem modAperture_freeCtr : (s.modAperture port e f).freeCtr = s.freeCtr := rfl
@[simp] theorem modAperture_actor : (s.modAperture port e f).actor = s.actor := rfl
@[simp] theorem modAperture_nextId : (s.modAperture port e f).nextId = s.nextId := rfl
@[simp] theorem modAperture_clock : (s.modAperture port e f).clock = s.clock := rfl
@[simp] theorem modAperture_mem : (s.modAperture port e f).mem = s.mem := rfl
@[simp] theorem modAperture_pans : (s.modAperture port e f).pans = s.pans := rfl
@[simp] theorem modAperture_parts : (s.modAperture port e f).parts = s.parts := rfl
@[simp] theorem modAperture_grids : (s.modAperture port e f).grids = s.grids := rfl
@[simp] theorem modAperture_xmem : (s.modAperture port e f).xmem = s.xmem := rfl
@[simp] theorem modAperture_durable : (s.modAperture port e f).durable = s.durable := rfl
@[simp] theorem modAperture_brineWrites : (s.modAperture port e f).brineWrites = s.brineWrites := rfl
@[simp] theorem modAperture_beds : (s.modAperture port e f).beds = s.beds := rfl
@[simp] theorem modAperture_fills : (s.modAperture port e f).fills = s.fills := rfl
@[simp] theorem modAperture_wants : (s.modAperture port e f).wants = s.wants := rfl
@[simp] theorem modAperture_fabric : (s.modAperture port e f).fabric = s.fabric := rfl
@[simp] theorem modAperture_resps : (s.modAperture port e f).resps = s.resps := rfl
@[simp] theorem modAperture_prefs : (s.modAperture port e f).prefs = s.prefs := rfl
@[simp] theorem modAperture_receipts : (s.modAperture port e f).receipts = s.receipts := rfl
@[simp] theorem modAperture_closes : (s.modAperture port e f).closes = s.closes := rfl
@[simp] theorem modAperture_persists : (s.modAperture port e f).persists = s.persists := rfl
@[simp] theorem modAperture_blockFills : (s.modAperture port e f).blockFills = s.blockFills := rfl
@[simp] theorem modAperture_blockOuts : (s.modAperture port e f).blockOuts = s.blockOuts := rfl
@[simp] theorem modAperture_overflow : (s.modAperture port e f).overflow = s.overflow := rfl
@[simp] theorem modAperture_joined : (s.modAperture port e f).joined = s.joined := rfl
@[simp] theorem modAperture_contexts : (s.modAperture port e f).contexts = s.contexts := rfl
@[simp] theorem modAperture_dstatClears : (s.modAperture port e f).dstatClears = s.dstatClears := rfl
@[simp] theorem modAperture_launches : (s.modAperture port e f).launches = s.launches := rfl
@[simp] theorem modAperture_posts : (s.modAperture port e f).posts = s.posts := rfl
@[simp] theorem modAperture_recs : (s.modAperture port e f).recs = s.recs := rfl
@[simp] theorem modAperture_pool : (s.modAperture port e f).pool = s.pool := rfl
@[simp] theorem modAperture_queues : (s.modAperture port e f).queues = s.queues := rfl
@[simp] theorem modAperture_lastServed : (s.modAperture port e f).lastServed = s.lastServed := rfl
@[simp] theorem modAperture_queries : (s.modAperture port e f).queries = s.queries := rfl
@[simp] theorem modAperture_finishes : (s.modAperture port e f).finishes = s.finishes := rfl
@[simp] theorem modAperture_eventReceipts : (s.modAperture port e f).eventReceipts = s.eventReceipts := rfl
@[simp] theorem modAperture_streams : (s.modAperture port e f).streams = s.streams := rfl
@[simp] theorem modAperture_drains : (s.modAperture port e f).drains = s.drains := rfl
@[simp] theorem modAperture_harvest : (s.modAperture port e f).harvest = s.harvest := rfl
@[simp] theorem modAperture_plim : (s.modAperture port e f).plim = s.plim := rfl
@[simp] theorem modAperture_planTick : (s.modAperture port e f).planTick = s.planTick := rfl
@[simp] theorem modAperture_wire : (s.modAperture port e f).wire = s.wire := rfl
@[simp] theorem modAperture_pmOwn : (s.modAperture port e f).pmOwn = s.pmOwn := rfl
@[simp] theorem modAperture_sideOwn : (s.modAperture port e f).sideOwn = s.sideOwn := rfl
@[simp] theorem modAperture_bad : (s.modAperture port e f).bad = s.bad := rfl
@[simp] theorem modAperture_err : (s.modAperture port e f).err = s.err := rfl
@[simp] theorem modAperture_errLost : (s.modAperture port e f).errLost = s.errLost := rfl
@[simp] theorem modAperture_tests : (s.modAperture port e f).tests = s.tests := rfl
@[simp] theorem modAperture_passed : (s.modAperture port e f).passed = s.passed := rfl
@[simp] theorem modAperture_fenFront : (s.modAperture port e f).fenFront = s.fenFront := rfl
@[simp] theorem modAperture_fenSide : (s.modAperture port e f).fenSide = s.fenSide := rfl
@[simp] theorem modAperture_rcv : (s.modAperture port e f).rcv = s.rcv := rfl
@[simp] theorem modAperture_boot : (s.modAperture port e f).boot = s.boot := rfl
@[simp] theorem modAperture_slt : (s.modAperture port e f).slt = s.slt := rfl
@[simp] theorem modAperture_flows : (s.modAperture port e f).flows = s.flows := rfl
@[simp] theorem modAperture_links : (s.modAperture port e f).links = s.links := rfl
@[simp] theorem modAperture_pauses : (s.modAperture port e f).pauses = s.pauses := rfl
@[simp] theorem modAperture_ptp : (s.modAperture port e f).ptp = s.ptp := rfl
@[simp] theorem modAperture_subLatch : (s.modAperture port e f).subLatch = s.subLatch := rfl

end

/-! ## emit -/

section

variable (s : State) (w : Wire)

@[simp] theorem emit_agenda : (s.emit w).agenda = s.agenda := rfl
@[simp] theorem emit_freeCtr : (s.emit w).freeCtr = s.freeCtr := rfl
@[simp] theorem emit_actor : (s.emit w).actor = s.actor := rfl
@[simp] theorem emit_nextId : (s.emit w).nextId = s.nextId := rfl
@[simp] theorem emit_clock : (s.emit w).clock = s.clock := rfl
@[simp] theorem emit_mem : (s.emit w).mem = s.mem := rfl
@[simp] theorem emit_pans : (s.emit w).pans = s.pans := rfl
@[simp] theorem emit_parts : (s.emit w).parts = s.parts := rfl
@[simp] theorem emit_grids : (s.emit w).grids = s.grids := rfl
@[simp] theorem emit_xmem : (s.emit w).xmem = s.xmem := rfl
@[simp] theorem emit_durable : (s.emit w).durable = s.durable := rfl
@[simp] theorem emit_brineWrites : (s.emit w).brineWrites = s.brineWrites := rfl
@[simp] theorem emit_beds : (s.emit w).beds = s.beds := rfl
@[simp] theorem emit_fills : (s.emit w).fills = s.fills := rfl
@[simp] theorem emit_wants : (s.emit w).wants = s.wants := rfl
@[simp] theorem emit_fabric : (s.emit w).fabric = s.fabric := rfl
@[simp] theorem emit_resps : (s.emit w).resps = s.resps := rfl
@[simp] theorem emit_prefs : (s.emit w).prefs = s.prefs := rfl
@[simp] theorem emit_receipts : (s.emit w).receipts = s.receipts := rfl
@[simp] theorem emit_closes : (s.emit w).closes = s.closes := rfl
@[simp] theorem emit_persists : (s.emit w).persists = s.persists := rfl
@[simp] theorem emit_blockFills : (s.emit w).blockFills = s.blockFills := rfl
@[simp] theorem emit_blockOuts : (s.emit w).blockOuts = s.blockOuts := rfl
@[simp] theorem emit_overflow : (s.emit w).overflow = s.overflow := rfl
@[simp] theorem emit_joined : (s.emit w).joined = s.joined := rfl
@[simp] theorem emit_contexts : (s.emit w).contexts = s.contexts := rfl
@[simp] theorem emit_dstatClears : (s.emit w).dstatClears = s.dstatClears := rfl
@[simp] theorem emit_launches : (s.emit w).launches = s.launches := rfl
@[simp] theorem emit_posts : (s.emit w).posts = s.posts := rfl
@[simp] theorem emit_recs : (s.emit w).recs = s.recs := rfl
@[simp] theorem emit_pool : (s.emit w).pool = s.pool := rfl
@[simp] theorem emit_queues : (s.emit w).queues = s.queues := rfl
@[simp] theorem emit_lastServed : (s.emit w).lastServed = s.lastServed := rfl
@[simp] theorem emit_queries : (s.emit w).queries = s.queries := rfl
@[simp] theorem emit_finishes : (s.emit w).finishes = s.finishes := rfl
@[simp] theorem emit_eventReceipts : (s.emit w).eventReceipts = s.eventReceipts := rfl
@[simp] theorem emit_streams : (s.emit w).streams = s.streams := rfl
@[simp] theorem emit_drains : (s.emit w).drains = s.drains := rfl
@[simp] theorem emit_harvest : (s.emit w).harvest = s.harvest := rfl
@[simp] theorem emit_plim : (s.emit w).plim = s.plim := rfl
@[simp] theorem emit_planTick : (s.emit w).planTick = s.planTick := rfl
@[simp] theorem emit_pmOwn : (s.emit w).pmOwn = s.pmOwn := rfl
@[simp] theorem emit_sideOwn : (s.emit w).sideOwn = s.sideOwn := rfl
@[simp] theorem emit_bad : (s.emit w).bad = s.bad := rfl
@[simp] theorem emit_err : (s.emit w).err = s.err := rfl
@[simp] theorem emit_errLost : (s.emit w).errLost = s.errLost := rfl
@[simp] theorem emit_tests : (s.emit w).tests = s.tests := rfl
@[simp] theorem emit_passed : (s.emit w).passed = s.passed := rfl
@[simp] theorem emit_fenFront : (s.emit w).fenFront = s.fenFront := rfl
@[simp] theorem emit_fenSide : (s.emit w).fenSide = s.fenSide := rfl
@[simp] theorem emit_rcv : (s.emit w).rcv = s.rcv := rfl
@[simp] theorem emit_boot : (s.emit w).boot = s.boot := rfl
@[simp] theorem emit_slt : (s.emit w).slt = s.slt := rfl
@[simp] theorem emit_flows : (s.emit w).flows = s.flows := rfl
@[simp] theorem emit_apertures : (s.emit w).apertures = s.apertures := rfl
@[simp] theorem emit_links : (s.emit w).links = s.links := rfl
@[simp] theorem emit_pauses : (s.emit w).pauses = s.pauses := rfl
@[simp] theorem emit_ptp : (s.emit w).ptp = s.ptp := rfl
@[simp] theorem emit_subLatch : (s.emit w).subLatch = s.subLatch := rfl

end

/-! ## respond -/

section

variable (s : State) (r : Resp)

@[simp] theorem respond_agenda : (s.respond r).agenda = s.agenda := rfl
@[simp] theorem respond_freeCtr : (s.respond r).freeCtr = s.freeCtr := rfl
@[simp] theorem respond_actor : (s.respond r).actor = s.actor := rfl
@[simp] theorem respond_nextId : (s.respond r).nextId = s.nextId := rfl
@[simp] theorem respond_clock : (s.respond r).clock = s.clock := rfl
@[simp] theorem respond_mem : (s.respond r).mem = s.mem := rfl
@[simp] theorem respond_pans : (s.respond r).pans = s.pans := rfl
@[simp] theorem respond_parts : (s.respond r).parts = s.parts := rfl
@[simp] theorem respond_grids : (s.respond r).grids = s.grids := rfl
@[simp] theorem respond_xmem : (s.respond r).xmem = s.xmem := rfl
@[simp] theorem respond_durable : (s.respond r).durable = s.durable := rfl
@[simp] theorem respond_brineWrites : (s.respond r).brineWrites = s.brineWrites := rfl
@[simp] theorem respond_beds : (s.respond r).beds = s.beds := rfl
@[simp] theorem respond_fills : (s.respond r).fills = s.fills := rfl
@[simp] theorem respond_wants : (s.respond r).wants = s.wants := rfl
@[simp] theorem respond_fabric : (s.respond r).fabric = s.fabric := rfl
@[simp] theorem respond_prefs : (s.respond r).prefs = s.prefs := rfl
@[simp] theorem respond_receipts : (s.respond r).receipts = s.receipts := rfl
@[simp] theorem respond_closes : (s.respond r).closes = s.closes := rfl
@[simp] theorem respond_persists : (s.respond r).persists = s.persists := rfl
@[simp] theorem respond_blockFills : (s.respond r).blockFills = s.blockFills := rfl
@[simp] theorem respond_blockOuts : (s.respond r).blockOuts = s.blockOuts := rfl
@[simp] theorem respond_overflow : (s.respond r).overflow = s.overflow := rfl
@[simp] theorem respond_joined : (s.respond r).joined = s.joined := rfl
@[simp] theorem respond_contexts : (s.respond r).contexts = s.contexts := rfl
@[simp] theorem respond_dstatClears : (s.respond r).dstatClears = s.dstatClears := rfl
@[simp] theorem respond_launches : (s.respond r).launches = s.launches := rfl
@[simp] theorem respond_posts : (s.respond r).posts = s.posts := rfl
@[simp] theorem respond_recs : (s.respond r).recs = s.recs := rfl
@[simp] theorem respond_pool : (s.respond r).pool = s.pool := rfl
@[simp] theorem respond_queues : (s.respond r).queues = s.queues := rfl
@[simp] theorem respond_lastServed : (s.respond r).lastServed = s.lastServed := rfl
@[simp] theorem respond_queries : (s.respond r).queries = s.queries := rfl
@[simp] theorem respond_finishes : (s.respond r).finishes = s.finishes := rfl
@[simp] theorem respond_eventReceipts : (s.respond r).eventReceipts = s.eventReceipts := rfl
@[simp] theorem respond_streams : (s.respond r).streams = s.streams := rfl
@[simp] theorem respond_drains : (s.respond r).drains = s.drains := rfl
@[simp] theorem respond_harvest : (s.respond r).harvest = s.harvest := rfl
@[simp] theorem respond_plim : (s.respond r).plim = s.plim := rfl
@[simp] theorem respond_planTick : (s.respond r).planTick = s.planTick := rfl
@[simp] theorem respond_wire : (s.respond r).wire = s.wire := rfl
@[simp] theorem respond_pmOwn : (s.respond r).pmOwn = s.pmOwn := rfl
@[simp] theorem respond_sideOwn : (s.respond r).sideOwn = s.sideOwn := rfl
@[simp] theorem respond_bad : (s.respond r).bad = s.bad := rfl
@[simp] theorem respond_err : (s.respond r).err = s.err := rfl
@[simp] theorem respond_errLost : (s.respond r).errLost = s.errLost := rfl
@[simp] theorem respond_tests : (s.respond r).tests = s.tests := rfl
@[simp] theorem respond_passed : (s.respond r).passed = s.passed := rfl
@[simp] theorem respond_fenFront : (s.respond r).fenFront = s.fenFront := rfl
@[simp] theorem respond_fenSide : (s.respond r).fenSide = s.fenSide := rfl
@[simp] theorem respond_rcv : (s.respond r).rcv = s.rcv := rfl
@[simp] theorem respond_boot : (s.respond r).boot = s.boot := rfl
@[simp] theorem respond_slt : (s.respond r).slt = s.slt := rfl
@[simp] theorem respond_flows : (s.respond r).flows = s.flows := rfl
@[simp] theorem respond_apertures : (s.respond r).apertures = s.apertures := rfl
@[simp] theorem respond_links : (s.respond r).links = s.links := rfl
@[simp] theorem respond_pauses : (s.respond r).pauses = s.pauses := rfl
@[simp] theorem respond_ptp : (s.respond r).ptp = s.ptp := rfl
@[simp] theorem respond_subLatch : (s.respond r).subLatch = s.subLatch := rfl

end

/-! ## What an update changes -/

@[simp] theorem pan_modPan_same (s : State) (p : Nat) (f : Pan → Pan) : (s.modPan p f).pan p = f (s.pan p) := by
  simp [State.modPan, State.pan, tgetD]

theorem pan_modPan_other (s : State) {p q : Nat} (f : Pan → Pan) (h : q ≠ p) : (s.modPan p f).pan q = s.pan q := by
  simp [State.modPan, State.pan, tgetD, tget_tput_other _ _ h]

@[simp] theorem part_modPart_same (s : State) (p : Nat) (f : Part → Part) : (s.modPart p f).part p = f (s.part p) := by
  simp [State.modPart, State.part, tgetD]

theorem part_modPart_other (s : State) {p q : Nat} (f : Part → Part) (h : q ≠ p) : (s.modPart p f).part q = s.part q := by
  simp [State.modPart, State.part, tgetD, tget_tput_other _ _ h]

@[simp] theorem stream_modStream_same (s : State) (i : Nat) (f : Stream → Stream) :
    (s.modStream i f).stream i = f (s.stream i) := by
  simp [State.modStream, State.stream, tgetD]

@[simp] theorem bed_modBed_same (s : State) (b : Nat) (f : Bed → Bed) : (s.modBed b f).bed b = f (s.bed b) := by
  simp [State.modBed, State.bed, tgetD]

@[simp] theorem queue_modQueue_same (s : State) (n : Nat) (f : Queue → Queue) : (s.modQueue n f).queue n = f (s.queue n) := by
  simp [State.modQueue, State.queue, tgetD]

theorem queue_modQueue_other (s : State) {n m : Nat} (f : Queue → Queue) (h : m ≠ n) :
    (s.modQueue n f).queue m = s.queue m := by
  simp [State.modQueue, State.queue, tgetD, tget_tput_other _ _ h]

/-! ## Groups and teams in their slots -/

@[simp] theorem group_setGroup_same (s : State) (p k : Nat) (g : Group) : (s.setGroup p k g).group p k = some g := by
  simp [State.setGroup, State.modCore, State.group]

theorem group_setGroup_other (s : State) (p : Nat) {k j : Nat} (g : Group) (h : j ≠ k) :
    (s.setGroup p k g).group p j = s.group p j := by
  simp [State.setGroup, State.modCore, State.group, tget_tput_other _ _ h]

theorem group_setGroup_pan (s : State) {p q : Nat} (k j : Nat) (g : Group) (h : q ≠ p) :
    (s.setGroup p k g).group q j = s.group q j := by
  simp [State.setGroup, State.modCore, State.group, pan_modPan_other _ _ h]

@[simp] theorem team_setGroup (s : State) (p k : Nat) (g : Group) (q j : Nat) : (s.setGroup p k g).team q j = s.team q j := by
  by_cases h : q = p
  · subst h; simp [State.setGroup, State.modCore, State.team]
  · simp [State.setGroup, State.modCore, State.team, pan_modPan_other _ _ h]

end Sys2Proof.Machine
end

