-- ==== Sys2Proof/Laws/Issue.lean ====
section
/-! SUPPORT. What an issue does, once for all instruction forms: the steps of R40 let it pass, its result is written to its
lanes, and its run goes on; nothing else of the machine changes but the energy it meters. -/

namespace Sys2Proof.Machine

/-! ## Registers -/

theorem mod_div_pow (x k : Nat) : x % 2 ^ 32 + 2 ^ 32 * ((x >>> 32) % 2 ^ (32 * k)) = x % 2 ^ (32 * (k + 1)) := by
  rw [Nat.shiftRight_eq_div_pow, show 32 * (k + 1) = 32 + 32 * k by ring, pow_add, Nat.mod_mul]

/-- Registers outside those written hold what they held. -/
theorem regsPut_other (m : Tbl Word) (n k x : Nat) {j : Nat} (h : j < n ∨ n + k ≤ j) :
    tgetD (regsPut m n k x) j 0 = tgetD m j 0 := by
  induction k generalizing m n x with
  | zero => rfl
  | succ k ih =>
    simp only [regsPut]
    rw [ih _ _ _ (by omega), tgetD_tputD_other 0 m _ (by omega)]

/-- Registers written read back as the number they were written with, cut to their width. -/
theorem regsNat_regsPut (m : Tbl Word) (n k x : Nat) :
    regsNat (fun j => tgetD (regsPut m n k x) j 0) n k = x % 2 ^ (32 * k) := by
  induction k generalizing m n x with
  | zero => simp [regsNat, Nat.mod_one]
  | succ k ih =>
    simp only [regsPut, regsNat]
    rw [ih, regsPut_other _ _ _ _ (by omega), tgetD_tputD_same, BitVec.toNat_ofNat, mod_div_pow]

@[simp] theorem setBit_same {w : Nat} (m : BitVec w) (n : Nat) (b : Bool) (h : n < w) : (setBit m n b).getLsbD n = b := by
  have hs : (spanMask w n 1).getLsbD n = true := by
    simp [spanMask, BitVec.getLsbD_ofNat, h]
  unfold setBit
  split <;> simp_all [BitVec.getLsbD_or, BitVec.getLsbD_and]

/-- A destination written in a thread holds the value, cut to its width. -/
theorem dstNat_put (g : Group) (t : Thread) (d : Dst) (k x : Nat) (h : ∀ n, d ≠ .g n) :
    dstNat g (t.put d k x) k d = cut d k x := by
  cases d with
  | none => rfl
  | v n => exact regsNat_regsPut t.v n.toNat k x
  | g n => exact absurd rfl (h n)
  | t n => exact regsNat_regsPut t.t n.toNat k x
  | p n =>
    have hn : n.toNat < 32 := n.isLt
    simp only [Thread.put, dstNat, cut, setBit_same _ _ _ hn]
    have := Nat.mod_two_eq_zero_or_one x
    rcases this with h | h <;> simp [h]

@[simp] theorem put_st (t : Thread) (d : Dst) (k x : Nat) : (t.put d k x).st = t.st := by cases d <;> rfl

/-! ## Lanes -/

theorem lookup_map_mem {β : Type} (ls : List Nat) (f : Nat → Option β) {l : Nat} {v : β} (hm : l ∈ ls) (hv : f l = some v) :
    (ls.filterMap fun l => (f l).map fun v => (l, v)).lookup l = some v := by
  induction ls with
  | nil => cases hm
  | cons a r ih =>
    by_cases ha : a = l
    · subst ha; simp [hv]
    · have hr : l ∈ r := by
        rcases List.mem_cons.1 hm with h | h
        · exact absurd h.symm ha
        · exact h
      cases hf : f a with
      | none => simp [hf, ih hr]
      | some w =>
        have : (l == a) = false := by simpa using fun h : l = a => ha h.symm
        simp [hf, List.lookup, this, ih hr]

theorem lookup_not_mem {β : Type} (ls : List Nat) (f : Nat → Option β) {l : Nat} (hm : l ∉ ls) :
    (ls.filterMap fun l => (f l).map fun v => (l, v)).lookup l = none := by
  induction ls with
  | nil => rfl
  | cons a r ih =>
    simp only [List.mem_cons, not_or] at hm
    have : (l == a) = false := by simpa using hm.1
    cases hf : f a with
    | none => simp [hf, ih hm.2]
    | some w => simp [hf, List.lookup, this, ih hm.2]

/-- The value of an active lane. -/
theorem perLane_lookup (c : Ctx) (f : Nat → Thread → Nat) {l : Nat} {t : Thread} (hl : l ∈ c.lanes) (ht : c.g.thread l = some t) :
    (c.perLane f).lookup l = some (f l t) := by
  have h := lookup_map_mem c.lanes (fun l => (c.g.thread l).map fun t => f l t) (l := l) (v := f l t) hl (by simp [ht])
  simpa [Ctx.perLane, Option.map_map, Function.comp_def] using h

theorem perLane_not_mem (c : Ctx) (f : Nat → Thread → Nat) {l : Nat} (hl : l ∉ c.lanes) : (c.perLane f).lookup l = none := by
  have h := lookup_not_mem c.lanes (fun l => (c.g.thread l).map fun t => f l t) (l := l) hl
  simpa [Ctx.perLane, Option.map_map, Function.comp_def] using h

/-- An active lane of an instruction has a thread, and belongs to the run's set. -/
theorem activeLanes_thread {g : Group} {r : RunIn} {x : Std} {l : Nat} (h : l ∈ activeLanes g r x) :
    l ∈ lanesOf r.set ∧ ∃ t, g.thread l = some t ∧ stdGuard x t = true := by
  simp only [activeLanes, List.mem_filter] at h
  refine ⟨h.1, ?_⟩
  cases ht : g.thread l with
  | none => simp [ht] at h
  | some t => exact ⟨t, rfl, by simpa [ht] using h.2⟩

/-- The last of the values is the highest active lane's. -/
theorem perLane_getLast (c : Ctx) (f : Nat → Thread → Nat) (hall : ∀ l ∈ c.lanes, ∃ t, c.g.thread l = some t) {l : Nat} {t : Thread}
    (hl : c.lanes.getLast? = some l) (ht : c.g.thread l = some t) : (c.perLane f).getLast? = some (l, f l t) := by
  have key : ∀ ls : List Nat, (∀ l ∈ ls, ∃ t, c.g.thread l = some t) → ls.getLast? = some l →
      (ls.filterMap fun l => (c.g.thread l).map fun t => (l, f l t)).getLast? = some (l, f l t) := by
    intro ls
    induction ls with
    | nil => intro _ h; simp at h
    | cons a r ih =>
      intro ha hlast
      obtain ⟨ta, hta⟩ := ha a (List.mem_cons_self ..)
      have har : ∀ l ∈ r, ∃ t, c.g.thread l = some t := fun l hl => ha l (List.mem_cons_of_mem _ hl)
      cases r with
      | nil =>
        simp only [List.getLast?_singleton, Option.some.injEq] at hlast
        subst hlast
        simp [ht]
      | cons b r' =>
        rw [List.getLast?_cons_cons] at hlast
        have := ih har hlast
        obtain ⟨tb, htb⟩ := har b (List.mem_cons_self ..)
        simp only [List.filterMap_cons, hta, htb, Option.map_some] at this ⊢
        rw [List.getLast?_cons_cons]
        exact this
  exact key c.lanes hall hl

/-! ## The steps of R40 -/

/-- Where `Executes` holds, the issue works on this context. -/
def ctxOf (opc : Nat) (x : Std) (s : State) (g : Group) (r : RunIn) (tm : Team) : Ctx :=
  { pan := s.actor.1, slot := s.actor.2, g := g, run := r, tm := tm, lanes := activeLanes g r x, wide := wideBeats opc x,
    single := oneBeat opc }

theorem filter_self {α : Type} (l : List α) (p : α → Bool) (h : l.any p = false) : (l.filter fun e => !p e) = l := by
  induction l with
  | nil => rfl
  | cons a r ih =>
    simp only [List.any_cons, Bool.or_eq_false_iff] at h
    simp [h.1, ih h.2]

theorem retireTouched_self {g : Group} {ts : List (Nat × Nat)} (h : g.overtaken.any ts.contains = false) :
    g.retireTouched ts = g := by
  unfold Group.retireTouched
  rw [filter_self g.overtaken ts.contains h]

/-- An instruction that executes reaches its effect, in the state before it (R40). -/
theorem front_go {opc : Nat} {x : Std} {s : State} {g : Group} {r : RunIn} {tm : Team} (h : Executes opc x s g r tm) :
    front opc x s = .go s (ctxOf opc x s g r tm) := by
  have hf := h.fresh
  have hr := retireTouched_self hf
  have hw := h.whole
  unfold front
  simp only [h.issuer, hf, Bool.false_and, h.pass, hr, h.some_, Bool.false_eq_true, if_false, Ctx.torn, hw]
  rfl

/-! ## The end of an issue -/

theorem samePlace_refl (a : Group) : SamePlace a a := rfl

theorem samePlace_trans {a b c : Group} (h : SamePlace a b) (k : SamePlace b c) : SamePlace a c := by
  unfold SamePlace at *
  rw [h, k]

theorem samePlace_thread {a b : Group} (h : SamePlace a b) (l : Nat) : a.thread l = b.thread l := by rw [h]; rfl

theorem samePlace_g {a b : Group} (h : SamePlace a b) : a.g = b.g := by rw [h]

theorem placeOnly_refl (a : Option Group) : PlaceOnly a a := by cases a <;> simp [PlaceOnly, samePlace_refl]

theorem placeOnly_trans {a b c : Option Group} (h : PlaceOnly a b) (k : PlaceOnly b c) : PlaceOnly a c := by
  cases a <;> cases b <;> cases c <;> simp_all [PlaceOnly]
  exact samePlace_trans h k

theorem placeOnly_map {a : Option Group} {f : Group → Group} (h : ∀ g, SamePlace (f g) g) : PlaceOnly (a.map f) a := by
  cases a <;> simp [PlaceOnly, h]

/-- An exchange of active places changes nothing else of any group (R19, R164). -/
theorem yieldSwap_groups (c : PanCore) (k now j : Nat) : PlaceOnly (tget (c.yieldSwap k now).groups j) (tget c.groups j) := by
  unfold PanCore.yieldSwap
  split
  · rename_i i hi
    have h1 : PlaceOnly (tget (tmod c.groups i fun g => { g with active := true, activeSince := now }) j) (tget c.groups j) := by
      by_cases h : j = i
      · subst h; rw [tget_tmod_same]; exact placeOnly_map fun g => rfl
      · rw [tget_tmod_other _ _ h]; exact placeOnly_refl _
    refine placeOnly_trans ?_ h1
    by_cases h : j = k
    · subst h; rw [tget_tmod_same]; exact placeOnly_map fun g => rfl
    · rw [tget_tmod_other _ _ h]; exact placeOnly_refl _
  · exact placeOnly_refl _

/-- The end of a run leaves every thread's registers, flags and place in the trap routine. -/
theorem advance_thread (g : Group) (r : RunIn) (n : Nat) (leave : List Nat) (l : Nat) :
    (g.advance r n leave).thread l = (g.thread l).map fun t =>
      { t with addr := (((g.advance r n leave).thread l).getD t).addr, entry := (((g.advance r n leave).thread l).getD t).entry } := by
  unfold Group.advance
  dsimp only
  split
  · simp only [Group.endRun, Group.modThreads, Group.thread, tget_tmap]
    cases tget g.th l with
    | none => rfl
    | some t =>
      simp only [Option.map_some, Option.getD_some]
      split <;> rfl
  · simp only [Group.thread]
    cases tget g.th l <;> rfl

@[simp] theorem advance_g (g : Group) (r : RunIn) (n : Nat) (leave : List Nat) : (g.advance r n leave).g = g.g := by
  unfold Group.advance; dsimp only; split <;> rfl

@[simp] theorem advance_ge (g : Group) (r : RunIn) (n : Nat) (leave : List Nat) : (g.advance r n leave).ge = g.ge := by
  unfold Group.advance; dsimp only; split <;> rfl

@[simp] theorem advance_ctr (g : Group) (r : RunIn) (n : Nat) (leave : List Nat) : (g.advance r n leave).ctr = g.ctr := by
  unfold Group.advance; dsimp only; split <;> rfl

@[simp] theorem advance_issues (g : Group) (r : RunIn) (n : Nat) (leave : List Nat) :
    (g.advance r n leave).issues = g.issues := by
  unfold Group.advance; dsimp only; split <;> rfl

/-- A group with a thread that has not ended is not over. -/
theorem not_allExited {g : Group} {l : Nat} {t : Thread} (h : g.thread l = some t) (ht : t.st ≠ .exited) :
    g.allExited = false := by
  have : (l, t) ∈ g.th := by
    unfold Group.thread at h
    revert h
    induction g.th with
    | nil => intro h; cases h
    | cons e r ih =>
      obtain ⟨j, w⟩ := e
      intro h
      simp only [tget_cons] at h
      split at h
      · rename_i hj; subst hj; cases h; exact List.mem_cons_self ..
      · exact List.mem_cons_of_mem _ (ih h)
  unfold Group.allExited
  rw [List.all_eq_false]
  exact ⟨_, this, by simpa using ht⟩

theorem settleGroup_alive {s : State} {p k : Nat} {g : Group} (h : s.group p k = some g) (hg : g.allExited = false) :
    s.settleGroup p k = s := by
  unfold State.settleGroup
  simp [h, hg]

theorem samePlace_allExited {a b : Group} (h : SamePlace a b) : a.allExited = b.allExited := by rw [h]; rfl

/-- The group after an issue stands as `advance` leaves it, but for its active place. -/
theorem finish_group (c : Ctx) (s : State) (g : Group) (n : Nat) (leave : List Nat)
    (h : (g.advance c.run n leave).allExited = false) :
    ∃ g', (c.finish s g n leave).group c.pan c.slot = some g' ∧ SamePlace g' (g.advance c.run n leave) := by
  unfold Ctx.finish
  simp only
  split
  · have hy := yieldSwap_groups ((s.setGroup c.pan c.slot (g.advance c.run n leave)).pan c.pan).core c.slot s.clock.cycles c.slot
    have hs : tget ((s.setGroup c.pan c.slot (g.advance c.run n leave)).pan c.pan).core.groups c.slot =
        some (g.advance c.run n leave) := group_setGroup_same ..
    rw [hs] at hy
    cases hg : tget ((((s.setGroup c.pan c.slot (g.advance c.run n leave)).pan c.pan).core.yieldSwap c.slot
        s.clock.cycles).groups) c.slot with
    | none => rw [hg] at hy; exact absurd hy (by simp [PlaceOnly])
    | some g' =>
      rw [hg] at hy
      have hgrp : ((s.setGroup c.pan c.slot (g.advance c.run n leave)).modPan c.pan fun p =>
          p.yieldPlace c.slot s.clock.cycles).group c.pan c.slot = some g' := by
        simpa [Pan.yieldPlace, State.group] using hg
      refine ⟨g', ?_, hy⟩
      rw [settleGroup_alive hgrp (by rw [samePlace_allExited hy]; exact h)]
      simpa [State.meter, State.group] using hgrp
  · rw [settleGroup_alive (group_setGroup_same ..) h]
    exact ⟨_, by simp [State.meter, State.group, State.setGroup, State.modCore], samePlace_refl _⟩

/-! ## An instruction that writes one value in each active lane -/

@[simp] theorem put_th (g : Group) (d : Dst) (k : Nat) (vals : List (Nat × Nat)) (l : Nat) (h : ∀ n, d ≠ .g n) :
    (g.put d k vals).thread l = (g.thread l).map fun t => match vals.lookup l with
      | some x => t.put d k x
      | none => t := by
  cases d with
  | g n => exact absurd rfl (h n)
  | _ => simp only [Group.put, Group.thread, tget_tmap] <;> rfl

theorem put_g_th (g : Group) (n : BitVec 6) (k : Nat) (vals : List (Nat × Nat)) : (g.put (.g n) k vals).th = g.th := by
  simp only [Group.put]
  split <;> rfl

/-- What a destination holds does not depend on the active place, nor on where a thread stands. -/
theorem dstNat_congr {g g' : Group} {t t' : Thread} (k : Nat) (d : Dst) (hg : g'.g = g.g) (hv : t'.v = t.v) (ht : t'.t = t.t)
    (hp : t'.p = t.p) : dstNat g' t' k d = dstNat g t k d := by
  cases d with
  | none => rfl
  | v n => simp only [dstNat]; unfold Thread.rv; rw [hv]
  | g n => simp only [dstNat]; unfold Group.rg; rw [hg]
  | t n => simp only [dstNat]; unfold Thread.rt; rw [ht]
  | p n => simp only [dstNat, hp]

/-- A value written by an issue stands in its destination afterwards: for a g-register the last of the values, for another
destination the lane's own. -/
theorem write_landed (c : Ctx) (s : State) (x : Std) (k : Nat) (vals : List (Nat × Nat)) {l v : Nat} {th : Thread}
    (ht : c.g.thread l = some th) (ha : th.st ≠ .exited)
    (hv : match x.d with
      | .g _ => ∃ m, vals.getLast? = some (m, v)
      | _ => vals.lookup l = some v) :
    Sys2Proof.State.landed (c.write s x k vals) c.pan c.slot l k x.d = some (cut x.d k v) := by
  obtain ⟨c', hc, hpan, hslot⟩ : ∃ c' : Ctx, c.write s x k vals = c'.finish s (c.g.put x.d k vals) (stdWords x) [] ∧
      c'.pan = c.pan ∧ c'.slot = c.slot := ⟨_, rfl, rfl, rfl⟩
  rw [hc]
  have key : ∃ th1, (c.g.put x.d k vals).thread l = some th1 ∧ th1.st = th.st ∧
      ∀ g', g'.g = (c.g.put x.d k vals).g → dstNat g' th1 k x.d = cut x.d k v := by
    cases hd : x.d with
    | g n =>
      rw [hd] at hv
      obtain ⟨m, hm⟩ := hv
      refine ⟨th, ?_, rfl, ?_⟩
      · unfold Group.thread at ht ⊢; rw [put_g_th]; exact ht
      · intro g' hg
        have hp : g'.g = regsPut c.g.g n.toNat k v := by rw [hg]; simp only [Group.put, hm]
        have hr : g'.rg = fun j => tgetD (regsPut c.g.g n.toNat k v) j 0 := by funext j; unfold Group.rg; rw [hp]
        simp only [dstNat, cut]
        rw [hr]
        exact regsNat_regsPut ..
    | none => exact ⟨th.put .none k v, by rw [put_th _ _ _ _ _ (by simp)]; rw [hd] at hv; simp [ht, hv], by simp,
        fun g' _ => dstNat_put g' th .none k v (by simp)⟩
    | v n => exact ⟨th.put (.v n) k v, by rw [put_th _ _ _ _ _ (by simp)]; rw [hd] at hv; simp [ht, hv], by simp,
        fun g' _ => dstNat_put g' th (.v n) k v (by simp)⟩
    | t n => exact ⟨th.put (.t n) k v, by rw [put_th _ _ _ _ _ (by simp)]; rw [hd] at hv; simp [ht, hv], by simp,
        fun g' _ => dstNat_put g' th (.t n) k v (by simp)⟩
    | p n => exact ⟨th.put (.p n) k v, by rw [put_th _ _ _ _ _ (by simp)]; rw [hd] at hv; simp [ht, hv], by simp,
        fun g' _ => dstNat_put g' th (.p n) k v (by simp)⟩
  obtain ⟨th1, h1, hst, hval⟩ := key
  have hadv := advance_thread (c.g.put x.d k vals) c'.run (stdWords x) [] l
  rw [h1] at hadv
  simp only [Option.map_some] at hadv
  have hne : ((c.g.put x.d k vals).advance c'.run (stdWords x) []).allExited = false :=
    not_allExited hadv (by simp only; rw [hst]; exact ha)
  obtain ⟨g', hg', hp⟩ := finish_group c' s (c.g.put x.d k vals) (stdWords x) [] hne
  rw [hpan, hslot] at hg'
  unfold Sys2Proof.State.landed
  rw [hg']
  simp only [Option.bind_some]
  rw [samePlace_thread hp, hadv]
  simp only [Option.map_some, Option.some.injEq]
  exact (dstNat_congr (g := g') (t := th1) k x.d rfl rfl rfl rfl).trans (hval g' (by rw [samePlace_g hp, advance_g]))

/-- An instruction that computes one value per active thread gives it in every lane that keeps it (R166, R190). -/
theorem execPerLane_gives {opc : Nat} {i : Instr} {x : Std} {k : Nat} {f : Group → Thread → Nat}
    (hi : ∀ s, exec i s = execPerLane opc x k s f) : Gives opc i x k f := by
  intro s g r tm h
  refine ⟨_, by rw [hi]; unfold execPerLane; rw [front_go h], ?_⟩
  intro l th hl hk
  refine write_landed (ctxOf opc x s g r tm) s x k _ (th := th) hl.thread hl.alive ?_
  cases hd : x.d with
  | g n =>
    simp only [keepsLane, hd] at hk
    exact ⟨l, perLane_getLast (ctxOf opc x s g r tm) _ (fun l hl => (activeLanes_thread hl).2.imp fun _ h => h.1) hk hl.thread⟩
  | _ => exact perLane_lookup (ctxOf opc x s g r tm) _ hl.active hl.thread

/-! ## What an issue leaves -/

theorem spanMask_out {w n k j : Nat} (h : j < n ∨ n + k ≤ j) : (spanMask w n k).getLsbD j = false := by
  simp only [spanMask, BitVec.getLsbD_ofNat, Nat.testBit_shiftLeft, Nat.testBit_two_pow_sub_one, Bool.and_eq_false_imp,
    decide_eq_true_eq, decide_eq_false_iff_not, ge_iff_le]
  omega

theorem getLsbD_clear {w : Nat} (m : BitVec w) {n k j : Nat} (h : j < n ∨ n + k ≤ j) :
    (m &&& ~~~ spanMask w n k).getLsbD j = m.getLsbD j := by
  rw [BitVec.getLsbD_and, BitVec.getLsbD_not, spanMask_out h]
  by_cases hj : j < w
  · simp [hj]
  · simp [BitVec.getLsbD_of_ge _ _ (Nat.le_of_not_lt hj)]

theorem getLsbD_setBit_other {w : Nat} (m : BitVec w) {n j : Nat} (b : Bool) (h : j ≠ n) :
    (setBit m n b).getLsbD j = m.getLsbD j := by
  have hs : (spanMask w n 1).getLsbD j = false := spanMask_out (by omega)
  unfold setBit
  split
  · rw [BitVec.getLsbD_or, hs, Bool.or_false]
  · exact getLsbD_clear m (by omega)

theorem onlyDst_refl (a : Thread) (d : Dst) (k : Nat) : OnlyDst a a d k :=
  ⟨rfl, fun _ _ => ⟨rfl, rfl⟩, fun _ _ => rfl, fun _ _ => ⟨rfl, rfl⟩⟩

/-- Writing a destination changes nothing else of a thread. -/
theorem onlyDst_put (a : Thread) (d : Dst) (k x : Nat) : OnlyDst a (a.put d k x) d k := by
  cases d with
  | none => exact onlyDst_refl ..
  | g n => exact onlyDst_refl ..
  | v n =>
    exact ⟨rfl, fun j h => ⟨regsPut_other _ _ _ _ (h n rfl), getLsbD_clear _ (h n rfl)⟩, fun _ _ => rfl, fun _ _ => ⟨rfl, rfl⟩⟩
  | t n => exact ⟨rfl, fun _ _ => ⟨rfl, rfl⟩, fun j h => regsPut_other _ _ _ _ (h n rfl), fun _ _ => ⟨rfl, rfl⟩⟩
  | p n =>
    exact ⟨rfl, fun _ _ => ⟨rfl, rfl⟩, fun _ _ => rfl, fun j h =>
      ⟨getLsbD_setBit_other _ _ (h n rfl), getLsbD_clear _ (by have := h n rfl; omega)⟩⟩

/-- The end of an issue moves a thread only in the program. -/
theorem onlyDst_moved {a b : Thread} {d : Dst} {k : Nat} (h : OnlyDst a b d k) (addr : Nat) (e : Option Nat) :
    OnlyDst a { b with addr := addr, entry := e } d k := by
  refine ⟨?_, h.v, h.t, h.p⟩
  have hr := h.rest
  rw [hr]

theorem onlyDst_flags {a b : Thread} {d : Dst} {k : Nat} (fl : BitVec 5) (h : OnlyDst { a with flags := fl } b d k) :
    OnlyDst a b d k := by
  refine ⟨?_, h.v, h.t, h.p⟩
  have hr := h.rest
  rw [hr]

/-- An issue's end changes only the group in its slot. -/
theorem finish_onlyGroup (c : Ctx) (s : State) (g : Group) (n : Nat) (leave : List Nat)
    (h : (g.advance c.run n leave).allExited = false) : OnlyGroup s (c.finish s g n leave) c.pan c.slot := by
  obtain ⟨g', hg', hp⟩ := finish_group c s g n leave h
  unfold Ctx.finish at hg' ⊢
  simp only at hg' ⊢
  split at hg' <;> rename_i hy
  · rw [if_pos hy]
    have hy2 := yieldSwap_groups ((s.setGroup c.pan c.slot (g.advance c.run n leave)).pan c.pan).core c.slot s.clock.cycles
    generalize hm : ((s.setGroup c.pan c.slot (g.advance c.run n leave)).modPan c.pan fun p =>
      p.yieldPlace c.slot s.clock.cycles) = s2 at hg' ⊢
    have hsame : s2.settleGroup c.pan c.slot = s2 := by
      have hgr : PlaceOnly (s2.group c.pan c.slot) (some (g.advance c.run n leave)) := by
        have := hy2 c.slot
        have hs : tget ((s.setGroup c.pan c.slot (g.advance c.run n leave)).pan c.pan).core.groups c.slot =
          some (g.advance c.run n leave) := group_setGroup_same ..
        rw [hs] at this
        rw [← hm]
        simpa [Pan.yieldPlace, State.group] using this
      cases hq : s2.group c.pan c.slot with
      | none => rw [hq] at hgr; exact absurd hgr (by simp [PlaceOnly])
      | some g2 =>
        rw [hq] at hgr
        exact settleGroup_alive hq (by rw [samePlace_allExited hgr]; exact h)
    rw [hsame]
    have hsw : ∀ (c' : PanCore) k now, c'.yieldSwap k now = { c' with groups := (c'.yieldSwap k now).groups } := by
      intro c' k now
      unfold PanCore.yieldSwap
      split <;> rfl
    refine ⟨?_, ?_, ?_, ?_⟩
    · rw [← hm]; rfl
    · intro q hq
      rw [← hm]
      simp [State.meter, State.setGroup, State.modCore, pan_modPan_other _ _ hq]
    · rw [← hm]
      simp only [State.meter, State.setGroup, State.modCore, pan_modPan_same, Pan.yieldPlace]
      rw [hsw]
    · intro j hj
      have := hy2 j
      rw [show tget ((s.setGroup c.pan c.slot (g.advance c.run n leave)).pan c.pan).core.groups j = s.group c.pan j from
        group_setGroup_other _ _ _ hj] at this
      rw [← hm]
      simpa [State.meter, Pan.yieldPlace, State.group] using this
  · rw [if_neg hy, settleGroup_alive (group_setGroup_same ..) h]
    refine ⟨rfl, ?_, ?_, ?_⟩
    · intro q hq
      simp [State.meter, State.setGroup, State.modCore, pan_modPan_other _ _ hq]
    · simp [State.meter, State.setGroup, State.modCore]
    · intro j hj
      have : (State.meter (s.setGroup c.pan c.slot (g.advance c.run n leave)) c.pan 17 c.beats).group c.pan j =
          (s.setGroup c.pan c.slot (g.advance c.run n leave)).group c.pan j := by
        simp [State.meter, State.group]
      rw [this, group_setGroup_other _ _ _ hj]
      exact placeOnly_refl _

/-- A written destination changes nothing else of the group. -/
theorem put_onlyLanes (g : Group) (d : Dst) (k : Nat) (vals : List (Nat × Nat)) (ls : List Nat)
    (hv : ∀ l, l ∉ ls → vals.lookup l = none) : OnlyLanes g (g.put d k vals) d k ls := by
  cases hd : d with
  | g n =>
    simp only [Group.put]
    cases hl : vals.getLast? with
    | none => exact ⟨rfl, fun _ _ => ⟨rfl, rfl⟩, fun l a ha => ⟨a, ha, onlyDst_refl ..⟩⟩
    | some e =>
      exact ⟨rfl, fun j h => ⟨regsPut_other _ _ _ _ (h n rfl), getLsbD_clear _ (h n rfl)⟩,
        fun l a ha => ⟨a, ha, onlyDst_refl ..⟩⟩
  | none | v n | t n | p n =>
    rw [← hd]
    have hg : ∀ n, d ≠ .g n := by rw [hd]; simp
    refine ⟨by rw [hd]; rfl, fun j _ => by rw [hd]; exact ⟨rfl, rfl⟩, ?_⟩
    intro l a ha
    refine ⟨_, by rw [put_th _ _ _ _ _ hg, ha]; rfl, ?_⟩
    by_cases hm : l ∈ ls
    · rw [if_pos hm]
      cases vals.lookup l with
      | none => exact onlyDst_refl ..
      | some v => exact onlyDst_put a d k v
    · rw [if_neg hm, hv l hm]
      exact onlyDst_refl ..

@[simp] theorem put_flags (t : Thread) (d : Dst) (k x : Nat) : (t.put d k x).flags = t.flags := by cases d <;> rfl

theorem put_thread_flags (g : Group) (d : Dst) (k : Nat) (vals : List (Nat × Nat)) {l : Nat} {a : Thread}
    (ha : g.thread l = some a) : ∃ b, (g.put d k vals).thread l = some b ∧ b.flags = a.flags ∧ b.st = a.st := by
  cases hd : d with
  | g n => exact ⟨a, by unfold Group.thread at ha ⊢; rw [put_g_th]; exact ha, rfl, rfl⟩
  | none | v n | t n | p n =>
    rw [← hd]
    have hg : ∀ n, d ≠ .g n := by rw [hd]; simp
    refine ⟨_, by rw [put_th _ _ _ _ _ hg, ha]; rfl, ?_⟩
    cases vals.lookup l <;> simp

/-- The end of an issue keeps what the issue wrote. -/
theorem advance_onlyLanes {g h : Group} {d : Dst} {k : Nat} {ls : List Nat} (H : OnlyLanes g h d k ls) (r : RunIn) (n : Nat)
    (leave : List Nat) : OnlyLanes g (h.advance r n leave) d k ls := by
  refine ⟨?_, ?_, ?_⟩
  · have hr := H.rest
    unfold Group.advance
    dsimp only
    split
    · rw [hr]; rfl
    · rw [hr]
  · intro j hj
    have := H.regs j hj
    unfold Group.rg at this ⊢
    rw [advance_g, advance_ge]
    exact this
  · intro l a ha
    obtain ⟨b, hb, ho⟩ := H.same l a ha
    refine ⟨_, by rw [advance_thread, hb]; rfl, onlyDst_moved ho _ _⟩

theorem place_onlyLanes {g h h' : Group} {d : Dst} {k : Nat} {ls : List Nat} (H : OnlyLanes g h d k ls) (p : SamePlace h' h) :
    OnlyLanes g h' d k ls := by
  refine ⟨?_, ?_, ?_⟩
  · have hr := H.rest
    rw [p, hr]
  · intro j hj
    have := H.regs j hj
    unfold Group.rg at this ⊢
    rw [p]
    exact this
  · intro l a ha
    obtain ⟨b, hb, ho⟩ := H.same l a ha
    exact ⟨b, by rw [samePlace_thread p]; exact hb, ho⟩

/-- An issue that writes a destination changes nothing but its group, and of that nothing but the destination. -/
theorem write_frames (c : Ctx) (s : State) (x : Std) (k : Nat) (vals : List (Nat × Nat)) {l : Nat} {th : Thread}
    (ht : c.g.thread l = some th) (ha : th.st ≠ .exited) (hv : ∀ l, l ∉ c.lanes → vals.lookup l = none) :
    OnlyGroup s (c.write s x k vals) c.pan c.slot ∧ ∃ h, (c.write s x k vals).group c.pan c.slot = some h ∧
      OnlyLanes c.g h x.d k c.lanes ∧ ∀ l a b, c.g.thread l = some a → h.thread l = some b → b.flags = a.flags := by
  obtain ⟨c', hc, hpan, hslot⟩ : ∃ c' : Ctx, c.write s x k vals = c'.finish s (c.g.put x.d k vals) (stdWords x) [] ∧
      c'.pan = c.pan ∧ c'.slot = c.slot := ⟨_, rfl, rfl, rfl⟩
  rw [hc]
  obtain ⟨th1, h1, _, hst⟩ := put_thread_flags c.g x.d k vals ht
  have hadv := advance_thread (c.g.put x.d k vals) c'.run (stdWords x) [] l
  rw [h1] at hadv
  simp only [Option.map_some] at hadv
  have hne : ((c.g.put x.d k vals).advance c'.run (stdWords x) []).allExited = false :=
    not_allExited hadv (by simp only; rw [hst]; exact ha)
  obtain ⟨g', hg', hp⟩ := finish_group c' s (c.g.put x.d k vals) (stdWords x) [] hne
  have hO := finish_onlyGroup c' s (c.g.put x.d k vals) (stdWords x) [] hne
  rw [hpan, hslot] at hg' hO
  refine ⟨hO, g', hg', ?_, ?_⟩
  · exact place_onlyLanes (advance_onlyLanes (put_onlyLanes c.g x.d k vals c.lanes hv) _ _ _) hp
  · intro l a b hla hlb
    obtain ⟨b1, hb1, hf, _⟩ := put_thread_flags c.g x.d k vals hla
    rw [samePlace_thread hp, advance_thread, hb1] at hlb
    cases hlb
    exact hf

/-- An instruction that computes one value per active thread writes its destination and nothing else (R190). -/
theorem execPerLane_frames {opc : Nat} {i : Instr} {x : Std} {k : Nat} {f : Group → Thread → Nat}
    (hi : ∀ s, exec i s = execPerLane opc x k s f) : Frames opc i x k (fun a b => b = a) := by
  intro s g r tm h ⟨l, th, hl⟩
  have hw := write_frames (ctxOf opc x s g r tm) s x k ((ctxOf opc x s g r tm).perLane fun _ t => f g t) hl.thread hl.alive
    (fun l hl => perLane_not_mem _ _ hl)
  obtain ⟨h1, g', h2, h3, h4⟩ := hw
  exact ⟨_, g', by rw [hi]; unfold execPerLane; rw [front_go h]; rfl, h1, h2, h3, h4⟩

/-! ## Floating-point results -/

theorem lookup_map {α β : Type} (ls : List (Nat × α)) (f : α → β) (l : Nat) :
    (ls.map fun e => (e.1, f e.2)).lookup l = (ls.lookup l).map f := by
  induction ls with
  | nil => rfl
  | cons e r ih =>
    obtain ⟨j, a⟩ := e
    simp only [List.map_cons, List.lookup_cons]
    cases l == j <;> simp [ih]

theorem perLaneF_lookup (c : Ctx) (f : Nat → Thread → FRes) {l : Nat} {t : Thread} (hl : l ∈ c.lanes) (ht : c.g.thread l = some t) :
    (c.perLaneF f).lookup l = some (f l t) := by
  have h := lookup_map_mem c.lanes (fun l => (c.g.thread l).map fun t => f l t) (l := l) (v := f l t) hl (by simp [ht])
  simpa [Ctx.perLaneF, Option.map_map, Function.comp_def] using h

theorem perLaneF_not_mem (c : Ctx) (f : Nat → Thread → FRes) {l : Nat} (hl : l ∉ c.lanes) : (c.perLaneF f).lookup l = none := by
  have h := lookup_not_mem c.lanes (fun l => (c.g.thread l).map fun t => f l t) (l := l) hl
  simpa [Ctx.perLaneF, Option.map_map, Function.comp_def] using h

theorem perLaneF_codes (c : Ctx) (f : Nat → Thread → FRes) :
    ((c.perLaneF f).map fun e => (e.1, e.2.code)) = c.perLane fun l t => (f l t).code := by
  simp only [Ctx.perLaneF, Ctx.perLane, List.map_filterMap, Option.map_map, Function.comp_def]

@[simp] theorem raise_thread (g : Group) (fl : List (Nat × Nat)) (l : Nat) :
    (g.raise fl).thread l = (g.thread l).map fun t => match fl.lookup l with
      | some f => t.raise f
      | none => t := by
  simp only [Group.raise, Group.thread, tget_tmap] <;> rfl

/-- Flags raised change nothing else of a group. -/
theorem raise_onlyLanes (g : Group) (fl : List (Nat × Nat)) (d : Dst) (k : Nat) (ls : List Nat) :
    OnlyLanes g (g.raise fl) d k ls := by
  refine ⟨rfl, fun _ _ => ⟨rfl, rfl⟩, ?_⟩
  intro l a ha
  refine ⟨_, by rw [raise_thread, ha]; rfl, ?_⟩
  cases fl.lookup l with
  | none => exact onlyDst_refl ..
  | some f => exact ⟨rfl, fun _ _ => ⟨rfl, rfl⟩, fun _ _ => rfl, fun _ _ => ⟨rfl, rfl⟩⟩

theorem onlyDst_trans {a b c : Thread} {d e : Dst} {k : Nat} (h : OnlyDst a b e k) (he : e = .none ∨ e = d) (h2 : OnlyDst b c d k) :
    OnlyDst a c d k := by
  rcases he with rfl | rfl
  · refine ⟨?_, ?_, ?_, ?_⟩
    · have h1 := h.rest
      have h3 := h2.rest
      rw [h3, h1]
    · intro n hn
      have := h.v n (by simp)
      have := h2.v n hn
      simp_all
    · intro n hn
      have := h.t n (by simp)
      have := h2.t n hn
      simp_all
    · intro n hn
      have := h.p n (by simp)
      have := h2.p n hn
      simp_all
  · refine ⟨?_, ?_, ?_, ?_⟩
    · have h1 := h.rest
      have h3 := h2.rest
      rw [h3, h1]
    · intro n hn
      have := h.v n hn
      have := h2.v n hn
      simp_all
    · intro n hn
      have := h.t n hn
      have := h2.t n hn
      simp_all
    · intro n hn
      have := h.p n hn
      have := h2.p n hn
      simp_all

theorem onlyLanes_trans {a b c : Group} {d : Dst} {k : Nat} {ls : List Nat} (h : OnlyLanes a b .none k ls)
    (h2 : OnlyLanes b c d k ls) : OnlyLanes a c d k ls := by
  refine ⟨?_, ?_, ?_⟩
  · have h1 := h.rest
    have h3 := h2.rest
    rw [h3, h1]
  · intro n hn
    have := h.regs n (by simp)
    have := h2.regs n hn
    simp_all
  · intro l t ht
    obtain ⟨t2, ht2, ho⟩ := h.same l t ht
    obtain ⟨t3, ht3, ho3⟩ := h2.same l t2 ht2
    exact ⟨t3, ht3, onlyDst_trans (by simpa using ho) (Or.inl rfl) ho3⟩

/-- The thread of a lane after a floating-point write has its flags and the raised ones. -/
theorem writeF_flags (c : Ctx) (s : State) (x : Std) (k : Nat) (vals : List (Nat × FRes)) {l : Nat} {th : Thread}
    (ht : c.g.thread l = some th) (ha : th.st ≠ .exited) (hv : ∀ l, l ∉ c.lanes → vals.lookup l = none) :
    OnlyGroup s (c.writeF s x k vals) c.pan c.slot ∧ ∃ h, (c.writeF s x k vals).group c.pan c.slot = some h ∧
      OnlyLanes c.g h x.d k c.lanes ∧ ∀ l a b, c.g.thread l = some a → h.thread l = some b → b.flags = match vals.lookup l with
        | some v => a.flags ||| BitVec.ofNat 5 v.flags
        | none => a.flags := by
  have hr : (c.g.raise (vals.map fun e => (e.1, e.2.flags))).thread l = some (match (vals.map fun e => (e.1, e.2.flags)).lookup l with
      | some f => th.raise f
      | none => th) := by rw [raise_thread, ht]; rfl
  have hw := write_frames { c with g := c.g.raise (vals.map fun e => (e.1, e.2.flags)) } s x k
    (vals.map fun e => (e.1, e.2.code)) hr (by cases (vals.map fun e => (e.1, e.2.flags)).lookup l <;> exact ha)
    (fun l hl => by rw [lookup_map, hv l hl]; rfl)
  obtain ⟨h1, h, h2, h3, h4⟩ := hw
  refine ⟨h1, h, h2, onlyLanes_trans (raise_onlyLanes ..) h3, ?_⟩
  intro l a b hla hlb
  have hra : (c.g.raise (vals.map fun e => (e.1, e.2.flags))).thread l = some (match (vals.map fun e => (e.1, e.2.flags)).lookup l with
      | some f => a.raise f
      | none => a) := by rw [raise_thread, hla]; rfl
  have := h4 l _ b hra hlb
  rw [this, lookup_map]
  cases vals.lookup l <;> rfl

/-- An instruction that writes one floating-point result in each active lane. -/
theorem execF_gives {opc : Nat} {i : Instr} {x : Std} {k : Nat} {f : Group → Nat → Thread → FRes}
    (hi : ∀ (s : State) (c : Ctx), front opc x s = .go s c → exec i s = .next (c.writeF s x k (c.perLaneF (f c.g)))) :
    GivesF opc i x k f := by
  intro s g r tm h
  have hgo := front_go h
  refine ⟨_, hi s _ hgo, ?_, ?_⟩
  · intro l th hl hk
    unfold Ctx.writeF
    have ht : ((ctxOf opc x s g r tm).g.raise (((ctxOf opc x s g r tm).perLaneF (f g)).map fun e => (e.1, e.2.flags))).thread l =
        some (match (((ctxOf opc x s g r tm).perLaneF (f g)).map fun e => (e.1, e.2.flags)).lookup l with
          | some f => th.raise f
          | none => th) := by rw [raise_thread, show (ctxOf opc x s g r tm).g.thread l = some th from hl.thread]; rfl
    refine write_landed _ s x k _ ht (by cases (((ctxOf opc x s g r tm).perLaneF (f g)).map fun e => (e.1, e.2.flags)).lookup l <;> exact hl.alive) ?_
    have hcodes := perLaneF_codes (ctxOf opc x s g r tm) (f g)
    cases hd : x.d with
    | g n =>
      simp only [keepsLane, hd] at hk
      refine ⟨l, ?_⟩
      rw [show ((ctxOf opc x s g r tm).perLaneF (f (ctxOf opc x s g r tm).g)) = (ctxOf opc x s g r tm).perLaneF (f g) from rfl, hcodes]
      exact perLane_getLast (ctxOf opc x s g r tm) _ (fun l hl => (activeLanes_thread hl).2.imp fun _ h => h.1) hk hl.thread
    | _ =>
      show List.lookup l (((ctxOf opc x s g r tm).perLaneF (f g)).map fun e => (e.1, e.2.code)) = _
      rw [hcodes]
      exact perLane_lookup (ctxOf opc x s g r tm) _ hl.active hl.thread
  · intro l th hl
    obtain ⟨_, h', hg', ho, hf⟩ := writeF_flags (ctxOf opc x s g r tm) s x k ((ctxOf opc x s g r tm).perLaneF (f g)) hl.thread hl.alive
      (fun l hl => perLaneF_not_mem _ _ hl)
    obtain ⟨b, hb, _⟩ := ho.same l th hl.thread
    have := hf l th b hl.thread hb
    rw [perLaneF_lookup _ _ hl.active hl.thread] at this
    have hg2 : ((ctxOf opc x s g r tm).writeF s x k ((ctxOf opc x s g r tm).perLaneF (f (ctxOf opc x s g r tm).g))).group
        s.actor.1 s.actor.2 = some h' := hg'
    unfold Sys2Proof.State.flagsAt
    rw [hg2]
    simp only [Option.bind_some]
    rw [hb, Option.map_some, this]

/-- A floating-point instruction writes its destination and raises flags, and changes nothing else (R190, R210). -/
theorem execF_frames {opc : Nat} {i : Instr} {x : Std} {k : Nat} {f : Group → Nat → Thread → FRes}
    (hi : ∀ (s : State) (c : Ctx), front opc x s = .go s c → exec i s = .next (c.writeF s x k (c.perLaneF (f c.g)))) :
    Frames opc i x k FlagsStick := by
  intro s g r tm h ⟨l, th, hl⟩
  obtain ⟨h1, h', h2, h3, h4⟩ := writeF_flags (ctxOf opc x s g r tm) s x k ((ctxOf opc x s g r tm).perLaneF (f g)) hl.thread hl.alive
      (fun l hl => perLaneF_not_mem _ _ hl)
  refine ⟨_, h', hi s _ (front_go h), h1, h2, h3, ?_⟩
  intro l a b ha hb
  have := h4 l a b ha hb
  unfold FlagsStick
  rw [this]
  cases ((ctxOf opc x s g r tm).perLaneF (f g)).lookup l with
  | none => simp
  | some v => ext j; simp; tauto

end Sys2Proof.Machine
end

