-- ==== Sys2Proof/Laws/Elements.lean ====
section
/-! SUPPORT. Elements of a register value: how the model's cutting and building agrees with bit vectors (R189, R193). -/

namespace Sys2Proof.Machine

theorem build_succ (w n : Nat) (f : Nat → Nat) : build w (n + 1) f = build w n f + (f n % 2 ^ w) * 2 ^ (w * n) := by
  unfold build
  rw [List.range_succ, List.foldl_append]
  rfl

/-- A built value fits its elements. -/
theorem build_lt (w n : Nat) (f : Nat → Nat) : build w n f < 2 ^ (w * n) := by
  induction n with
  | zero => simp [build]
  | succ n ih =>
    rw [build_succ, Nat.mul_succ, pow_add]
    have h1 : f n % 2 ^ w ≤ 2 ^ w - 1 := Nat.le_sub_one_of_lt (Nat.mod_lt _ (Nat.two_pow_pos w))
    have h2 : (f n % 2 ^ w) * 2 ^ (w * n) ≤ (2 ^ w - 1) * 2 ^ (w * n) := Nat.mul_le_mul_right _ h1
    have h3 : (2 ^ w - 1) * 2 ^ (w * n) + 2 ^ (w * n) = 2 ^ (w * n) * 2 ^ w := by
      rw [Nat.sub_mul, one_mul, Nat.mul_comm (2 ^ w)]
      have : 2 ^ (w * n) ≤ 2 ^ (w * n) * 2 ^ w := Nat.le_mul_of_pos_right _ (Nat.two_pow_pos w)
      omega
    omega

/-- Each element of a built value is the one it was built of. -/
theorem elem_build {w n e : Nat} (f : Nat → Nat) (h : e < n) : (build w n f >>> (w * e)) % 2 ^ w = f e % 2 ^ w := by
  induction n with
  | zero => exact absurd h (Nat.not_lt_zero _)
  | succ n ih =>
    rw [build_succ, Nat.shiftRight_eq_div_pow]
    rcases Nat.lt_succ_iff_lt_or_eq.1 h with h | h
    · have hw : w * n = w * e + (w + w * (n - e - 1)) := by
        have : n = e + (1 + (n - e - 1)) := by omega
        conv => lhs; rw [this]
        ring
      rw [hw, pow_add, pow_add, ← Nat.mul_assoc, ← Nat.mul_assoc, Nat.mul_right_comm _ (2 ^ (w * e)),
        Nat.mul_right_comm _ (2 ^ (w * e)), Nat.add_mul_div_right _ _ (Nat.two_pow_pos _)]
      rw [Nat.mul_right_comm _ (2 ^ w), Nat.add_mul_mod_self_right]
      have := ih h
      rwa [Nat.shiftRight_eq_div_pow] at this
    · subst h
      rw [Nat.add_mul_div_right _ _ (Nat.two_pow_pos _), Nat.div_eq_of_lt (build_lt w e f), Nat.zero_add, Nat.mod_mod]

theorem element_mod {w e m v : Nat} (h : w * e + w ≤ m) : element w e (v % 2 ^ m) = element w e v := by
  apply BitVec.eq_of_toNat_eq
  simp only [element, BitVec.toNat_ofNat]
  apply Nat.eq_of_testBit_eq
  intro j
  simp only [Nat.testBit_mod_two_pow, Nat.testBit_shiftRight]
  by_cases hj : j < w
  · simp [hj, show w * e + j < m by omega]
  · simp [hj]

theorem element_build {w n e : Nat} (f : Nat → Nat) (h : e < n) : element w e (build w n f) = BitVec.ofNat w (f e) := by
  apply BitVec.eq_of_toNat_eq
  simp only [element, BitVec.toNat_ofNat]
  exact elem_build f h

@[simp] theorem element_toNat (w e v : Nat) : (element w e v).toNat = elem v w e := by
  simp only [element, BitVec.toNat_ofNat, elem]

@[simp] theorem ofNat_elem (w e v : Nat) : BitVec.ofNat w (elem v w e) = element w e v := by
  apply BitVec.eq_of_toNat_eq
  simp only [element, BitVec.toNat_ofNat, elem, Nat.mod_mod]

theorem elem_lt (v w e : Nat) : elem v w e < 2 ^ w := Nat.mod_lt _ (Nat.two_pow_pos w)

/-- `Val` on a number that fits is the integer that its pattern stands for. -/
theorem sval_eq {w : Nat} (x : Nat) : sval x w = (BitVec.ofNat w x).toInt := by
  unfold sval
  rw [BitVec.toInt_eq_toNat_cond]
  simp only [BitVec.toNat_ofNat]
  cases w with
  | zero => simp [Nat.mod_one]
  | succ w =>
    have : 2 ^ (w + 1) = 2 * 2 ^ w := by ring
    simp only [Nat.add_sub_cancel]
    by_cases h : x % 2 ^ (w + 1) < 2 ^ w
    · rw [if_pos h, if_pos (by omega)]
    · rw [if_neg h, if_neg (by omega)]
      push_cast
      ring_nf

theorem val_eq (x w s : Nat) : val x w s = ival s (BitVec.ofNat w x) := by
  unfold val ival
  split
  · exact sval_eq x
  · simp

@[simp] theorem val_elem (v w e s : Nat) : val (elem v w e) w s = ival s (element w e v) := by
  rw [val_eq, ofNat_elem]

/-- `Wrap` is the pattern of the integer. -/
@[simp] theorem ofNat_wrap (x : Int) (w : Nat) : BitVec.ofNat w (wrap x w) = BitVec.ofInt w x := by
  apply BitVec.eq_of_toNat_eq
  rw [BitVec.toNat_ofInt, BitVec.toNat_ofNat]
  unfold wrap
  have h : (0 : Int) ≤ x % (2 ^ w : Int) := Int.emod_nonneg _ (by positivity)
  have h2 : x % (2 ^ w : Int) < 2 ^ w := Int.emod_lt_of_pos _ (by positivity)
  have h3 : (x % (2 ^ w : Int)).toNat < 2 ^ w := by
    zify
    rw [Int.toNat_of_nonneg h]
    exact h2
  rw [Nat.mod_eq_of_lt h3]
  norm_cast

theorem wrap_lt (x : Int) (w : Nat) : wrap x w < 2 ^ w := by
  unfold wrap
  have h : (0 : Int) ≤ x % (2 ^ w : Int) := Int.emod_nonneg _ (by positivity)
  have h2 : x % (2 ^ w : Int) < 2 ^ w := Int.emod_lt_of_pos _ (by positivity)
  zify
  rw [Int.toNat_of_nonneg h]
  exact h2

/-- `Sat` is the pattern of the bounded integer. -/
@[simp] theorem ofNat_satw (x : Int) (w s : Nat) : BitVec.ofNat w (satw x w s) = BitVec.ofInt w (bounded w s x) := by
  unfold satw
  simp only
  rw [ofNat_wrap]
  congr 1
  unfold bounded
  have hp : (0 : Int) < 2 ^ (w - 1) := by positivity
  have hq : (0 : Int) < 2 ^ w := by positivity
  by_cases hs : s = 1
  · simp only [hs, if_true]
    split
    · omega
    · split <;> omega
  · simp only [hs, if_false]
    split
    · omega
    · split <;> omega

@[simp] theorem ofNat_res (x : Int) (w s sat : Nat) : BitVec.ofNat w (res x w s sat) = resBits w s sat x := by
  unfold res resBits
  split <;> simp

/-- An instruction that executes has an encoding that its opcode allows (R39). -/
theorem executes_ok {opc : Nat} {x : Std} {s : State} {g : Group} {r : RunIn} {tm : Team} (h : Executes opc x s g r tm) :
    x.ok opc = true ∧ ∃ sg, x.sig opc = some sg := by
  have hp := h.pass
  unfold gate at hp
  cases hs : x.sig opc with
  | none => simp [hs] at hp
  | some sg =>
    simp only [hs] at hp
    refine ⟨?_, sg, rfl⟩
    by_contra hk
    rw [Bool.not_eq_true] at hk
    simp [hk] at hp

theorem widOf_lt (x : Std) : widOf x < 4 := by
  have := x.fn.isLt
  unfold widOf
  omega

theorem elemW_mul_elemN {wid : Nat} (h : wid < 4) : elemW wid * elemN wid = 32 * widRegs wid := by
  unfold elemW elemN widRegs
  split
  · rename_i h; subst h; rfl
  · split
    · rename_i h; subst h; rfl
    · split
      · rename_i h; subst h; rfl
      · have : wid = 3 := by omega
        subst this; rfl

end Sys2Proof.Machine
end

