-- ==== Sys2Proof/Laws/Gate.lean ====
section
/-! SUPPORT. Every instruction of the standard form meets the steps of R40 before its effect: where they end the issue, that is
all it does. -/

namespace Sys2Proof.Machine

variable {x : Std} {s s' : State}

theorem execAdd_over (h : front 0x00 x s = .over_ s') : execAdd x s = .next s' := by
  simp only [execAdd, execElem, execPerLane, h]
theorem execSub_over (h : front 0x01 x s = .over_ s') : execSub x s = .next s' := by
  simp only [execSub, execElem, execPerLane, h]
theorem execAddc_over (h : front 0x02 x s = .over_ s') : execAddc x s = .next s' := by
  simp only [execAddc, execPerLane, h]
theorem execSubb_over (h : front 0x03 x s = .over_ s') : execSubb x s = .next s' := by
  simp only [execSubb, execPerLane, h]
theorem execMullo_over (h : front 0x04 x s = .over_ s') : execMullo x s = .next s' := by
  simp only [execMullo, execElem, execPerLane, h]
theorem execMulhi_over (h : front 0x05 x s = .over_ s') : execMulhi x s = .next s' := by
  simp only [execMulhi, execElem, execPerLane, h]
theorem execMad_over (h : front 0x06 x s = .over_ s') : execMad x s = .next s' := by
  simp only [execMad, execElem, execPerLane, h]
theorem execMadw_over (h : front 0x07 x s = .over_ s') : execMadw x s = .next s' := by
  simp only [execMadw, execPerLane, h]
theorem execDiv_over (h : front 0x08 x s = .over_ s') : execDiv x s = .next s' := by
  simp only [execDiv, execElem, execPerLane, h]
theorem execRem_over (h : front 0x09 x s = .over_ s') : execRem x s = .next s' := by
  simp only [execRem, execElem, execPerLane, h]
theorem execMin_over (h : front 0x0A x s = .over_ s') : execMin x s = .next s' := by
  simp only [execMin, execElem, execPerLane, h]
theorem execMax_over (h : front 0x0B x s = .over_ s') : execMax x s = .next s' := by
  simp only [execMax, execElem, execPerLane, h]
theorem execAbs_over (h : front 0x0C x s = .over_ s') : execAbs x s = .next s' := by
  simp only [execAbs, execElem, execPerLane, h]
theorem execNeg_over (h : front 0x0D x s = .over_ s') : execNeg x s = .next s' := by
  simp only [execNeg, execElem, execPerLane, h]
theorem execAddsat_over (h : front 0x0E x s = .over_ s') : execAddsat x s = .next s' := by
  simp only [execAddsat, execElem, execPerLane, h]
theorem execSubsat_over (h : front 0x0F x s = .over_ s') : execSubsat x s = .next s' := by
  simp only [execSubsat, execElem, execPerLane, h]
theorem execLea_over (h : front 0x10 x s = .over_ s') : execLea x s = .next s' := by
  simp only [execLea, execPerLane, h]
theorem execIcmp_over (h : front 0x11 x s = .over_ s') : execIcmp x s = .next s' := by
  simp only [execIcmp, execPerLane, h]
theorem execSel_over (h : front 0x12 x s = .over_ s') : execSel x s = .next s' := by
  simp only [execSel, execPerLane, h]
theorem execMov_over (h : front 0x13 x s = .over_ s') : execMov x s = .next s' := by
  simp only [execMov, execPerLane, h]
theorem execClamp_over (h : front 0x14 x s = .over_ s') : execClamp x s = .next s' := by
  simp only [execClamp, execElem, execPerLane, h]
theorem execSad_over (h : front 0x15 x s = .over_ s') : execSad x s = .next s' := by
  simp only [execSad, execPerLane, h]
theorem execDot4_over (h : front 0x16 x s = .over_ s') : execDot4 x s = .next s' := by
  simp only [execDot4, execPerLane, h]
theorem execDot2_over (h : front 0x17 x s = .over_ s') : execDot2 x s = .next s' := by
  simp only [execDot2, execPerLane, h]
theorem execCvti_over (h : front 0x18 x s = .over_ s') : execCvti x s = .next s' := by
  simp only [execCvti, execPerLane, h]
theorem execBysel_over (h : front 0x19 x s = .over_ s') : execBysel x s = .next s' := by
  simp only [execBysel, execPerLane, h]
theorem execPack_over (h : front 0x1A x s = .over_ s') : execPack x s = .next s' := by
  simp only [execPack, execPerLane, h]
theorem execUnpk_over (h : front 0x1B x s = .over_ s') : execUnpk x s = .next s' := by
  simp only [execUnpk, execPerLane, h]
theorem execAvg_over (h : front 0x1C x s = .over_ s') : execAvg x s = .next s' := by
  simp only [execAvg, execElem, execPerLane, h]
theorem execAnd_over (h : front 0x20 x s = .over_ s') : execAnd x s = .next s' := by
  simp only [execAnd, execElem, execPerLane, h]
theorem execOr_over (h : front 0x21 x s = .over_ s') : execOr x s = .next s' := by
  simp only [execOr, execElem, execPerLane, h]
theorem execXor_over (h : front 0x22 x s = .over_ s') : execXor x s = .next s' := by
  simp only [execXor, execElem, execPerLane, h]
theorem execAndn_over (h : front 0x23 x s = .over_ s') : execAndn x s = .next s' := by
  simp only [execAndn, execElem, execPerLane, h]
theorem execOrn_over (h : front 0x24 x s = .over_ s') : execOrn x s = .next s' := by
  simp only [execOrn, execElem, execPerLane, h]
theorem execNot_over (h : front 0x25 x s = .over_ s') : execNot x s = .next s' := by
  simp only [execNot, execElem, execPerLane, h]
theorem execLogt_over (h : front 0x26 x s = .over_ s') : execLogt x s = .next s' := by
  simp only [execLogt, execPerLane, h]
theorem execShl_over (h : front 0x27 x s = .over_ s') : execShl x s = .next s' := by
  simp only [execShl, execShift, execPerLane, h]
theorem execShr_over (h : front 0x28 x s = .over_ s') : execShr x s = .next s' := by
  simp only [execShr, execShift, execPerLane, h]
theorem execSar_over (h : front 0x29 x s = .over_ s') : execSar x s = .next s' := by
  simp only [execSar, execShift, execPerLane, h]
theorem execRol_over (h : front 0x2A x s = .over_ s') : execRol x s = .next s' := by
  simp only [execRol, execShift, execPerLane, h]
theorem execRor_over (h : front 0x2B x s = .over_ s') : execRor x s = .next s' := by
  simp only [execRor, execShift, execPerLane, h]
theorem execFshl_over (h : front 0x2C x s = .over_ s') : execFshl x s = .next s' := by
  simp only [execFshl, execPerLane, h]
theorem execFshr_over (h : front 0x2D x s = .over_ s') : execFshr x s = .next s' := by
  simp only [execFshr, execPerLane, h]
theorem execBfe_over (h : front 0x2E x s = .over_ s') : execBfe x s = .next s' := by
  simp only [execBfe, execPerLane, h]
theorem execBfi_over (h : front 0x2F x s = .over_ s') : execBfi x s = .next s' := by
  simp only [execBfi, execPerLane, h]
theorem execPopc_over (h : front 0x30 x s = .over_ s') : execPopc x s = .next s' := by
  simp only [execPopc, execPerLane, h]
theorem execClz_over (h : front 0x31 x s = .over_ s') : execClz x s = .next s' := by
  simp only [execClz, execPerLane, h]
theorem execCtz_over (h : front 0x32 x s = .over_ s') : execCtz x s = .next s' := by
  simp only [execCtz, execPerLane, h]
theorem execBrev_over (h : front 0x33 x s = .over_ s') : execBrev x s = .next s' := by
  simp only [execBrev, execPerLane, h]
theorem execBmsk_over (h : front 0x34 x s = .over_ s') : execBmsk x s = .next s' := by
  simp only [execBmsk, execPerLane, h]
theorem execPlogt_over (h : front 0x35 x s = .over_ s') : execPlogt x s = .next s' := by
  simp only [execPlogt, execPerLane, h]
theorem execP2v_over (h : front 0x36 x s = .over_ s') : execP2v x s = .next s' := by
  simp only [execP2v, h]
theorem execV2p_over (h : front 0x37 x s = .over_ s') : execV2p x s = .next s' := by
  simp only [execV2p, h]
theorem execFadd_over (h : front 0x40 x s = .over_ s') : execFadd x s = .next s' := by
  simp only [execFadd, execFloat, h]
theorem execFsub_over (h : front 0x41 x s = .over_ s') : execFsub x s = .next s' := by
  simp only [execFsub, execFloat, h]
theorem execFmul_over (h : front 0x42 x s = .over_ s') : execFmul x s = .next s' := by
  simp only [execFmul, execFloat, h]
theorem execFfma_over (h : front 0x43 x s = .over_ s') : execFfma x s = .next s' := by
  simp only [execFfma, execFloat, h]
theorem execFmin_over (h : front 0x44 x s = .over_ s') : execFmin x s = .next s' := by
  simp only [execFmin, execMinMax, execFloat, h]
theorem execFmax_over (h : front 0x45 x s = .over_ s') : execFmax x s = .next s' := by
  simp only [execFmax, execMinMax, execFloat, h]
theorem execFminm_over (h : front 0x46 x s = .over_ s') : execFminm x s = .next s' := by
  simp only [execFminm, execMinMax, execFloat, h]
theorem execFmaxm_over (h : front 0x47 x s = .over_ s') : execFmaxm x s = .next s' := by
  simp only [execFmaxm, execMinMax, execFloat, h]
theorem execFcmp_over (h : front 0x48 x s = .over_ s') : execFcmp x s = .next s' := by
  simp only [execFcmp, h]
theorem execFclass_over (h : front 0x49 x s = .over_ s') : execFclass x s = .next s' := by
  simp only [execFclass, execPerLane, h]
theorem execFclassPredicate_over (h : front 0x49 x s = .over_ s') : execFclassPredicate x s = .next s' := by
  simp only [execFclassPredicate, execPerLane, h]
theorem execFrnd_over (h : front 0x4A x s = .over_ s') : execFrnd x s = .next s' := by
  simp only [execFrnd, execFloat, h]
theorem execFfrc_over (h : front 0x4B x s = .over_ s') : execFfrc x s = .next s' := by
  simp only [execFfrc, execFloat, h]
theorem execFscl_over (h : front 0x4C x s = .over_ s') : execFscl x s = .next s' := by
  simp only [execFscl, h]
theorem execFexpt_over (h : front 0x4D x s = .over_ s') : execFexpt x s = .next s' := by
  simp only [execFexpt, execFloat, h]
theorem execFcps_over (h : front 0x4E x s = .over_ s') : execFcps x s = .next s' := by
  simp only [execFcps, execFloat, h]
theorem execFdiv_over (h : front 0x50 x s = .over_ s') : execFdiv x s = .next s' := by
  simp only [execFdiv, execFloat, h]
theorem execFsqrt_over (h : front 0x51 x s = .over_ s') : execFsqrt x s = .next s' := by
  simp only [execFsqrt, execFloat, h]
theorem execFrcp_over (h : front 0x52 x s = .over_ s') : execFrcp x s = .next s' := by
  simp only [execFrcp, execFloat, h]
theorem execFrsq_over (h : front 0x53 x s = .over_ s') : execFrsq x s = .next s' := by
  simp only [execFrsq, execFloat, h]
theorem execFex2_over (h : front 0x54 x s = .over_ s') : execFex2 x s = .next s' := by
  simp only [execFex2, execFloat, h]
theorem execFlg2_over (h : front 0x55 x s = .over_ s') : execFlg2 x s = .next s' := by
  simp only [execFlg2, execFloat, h]
theorem execFsin_over (h : front 0x56 x s = .over_ s') : execFsin x s = .next s' := by
  simp only [execFsin, execFloat, h]
theorem execFcos_over (h : front 0x57 x s = .over_ s') : execFcos x s = .next s' := by
  simp only [execFcos, execFloat, h]
theorem execFtanh_over (h : front 0x58 x s = .over_ s') : execFtanh x s = .next s' := by
  simp only [execFtanh, execFloat, h]
theorem execFdotp2_over (h : front 0x59 x s = .over_ s') : execFdotp2 x s = .next s' := by
  simp only [execFdotp2, h]
theorem execHfma2_over (h : front 0x5A x s = .over_ s') : execHfma2 x s = .next s' := by
  simp only [execHfma2, h]
theorem execCvtf_over (h : front 0x5B x s = .over_ s') : execCvtf x s = .next s' := by
  simp only [execCvtf, h]
theorem execCvtfi_over (h : front 0x5C x s = .over_ s') : execCvtfi x s = .next s' := by
  simp only [execCvtfi, h]
theorem execCvtif_over (h : front 0x5D x s = .over_ s') : execCvtif x s = .next s' := by
  simp only [execCvtif, h]
theorem execFlgrd_over (h : front 0x5E x s = .over_ s') : execFlgrd x s = .next s' := by
  simp only [execFlgrd, execPerLane, h]
theorem execFlgclr_over (h : front 0x5F x s = .over_ s') : execFlgclr x s = .next s' := by
  simp only [execFlgclr, h]
theorem execVote_over (h : front 0x60 x s = .over_ s') : execVote x s = .next s' := by
  simp only [execVote, execCross, h]
theorem execBallot_over (h : front 0x61 x s = .over_ s') : execBallot x s = .next s' := by
  simp only [execBallot, execCross, h]
theorem execShfl_over (h : front 0x62 x s = .over_ s') : execShfl x s = .next s' := by
  simp only [execShfl, execCross, h]
theorem execShflup_over (h : front 0x63 x s = .over_ s') : execShflup x s = .next s' := by
  simp only [execShflup, execCross, h]
theorem execShfldn_over (h : front 0x64 x s = .over_ s') : execShfldn x s = .next s' := by
  simp only [execShfldn, execCross, h]
theorem execShflx_over (h : front 0x65 x s = .over_ s') : execShflx x s = .next s' := by
  simp only [execShflx, execCross, h]
theorem execRedx_over (h : front 0x66 x s = .over_ s') : execRedx x s = .next s' := by
  simp only [execRedx, execCross, h]
theorem execScanx_over (h : front 0x67 x s = .over_ s') : execScanx x s = .next s' := by
  simp only [execScanx, execCross, h]
theorem execMatchLanes_over (h : front 0x68 x s = .over_ s') : execMatchLanes x s = .next s' := by
  simp only [execMatchLanes, execCross, h]
theorem execElect_over (h : front 0x69 x s = .over_ s') : execElect x s = .next s' := by
  simp only [execElect, execCross, h]
theorem execGbcast_over (h : front 0x6A x s = .over_ s') : execGbcast x s = .next s' := by
  simp only [execGbcast, execCross, h]
theorem execConv_over (h : front 0x6B x s = .over_ s') : execConv x s = .next s' := by
  simp only [execConv, execCross, h]
theorem execLd_over (h : front 0x70 x s = .over_ s') : execLd x s = .next s' := by
  simp only [execLd, execFront, h]
theorem execSt_over (h : front 0x71 x s = .over_ s') : execSt x s = .next s' := by
  simp only [execSt, execFront, h]
theorem execLds_over (h : front 0x72 x s = .over_ s') : execLds x s = .next s' := by
  simp only [execLds, execFront, h]
theorem execSts_over (h : front 0x73 x s = .over_ s') : execSts x s = .next s' := by
  simp only [execSts, execFront, h]
theorem execLdk_over (h : front 0x74 x s = .over_ s') : execLdk x s = .next s' := by
  simp only [execLdk, execFront, h]
theorem execPref_over (h : front 0x75 x s = .over_ s') : execPref x s = .next s' := by
  simp only [execPref, execFront, h]
theorem execCctlL1line_over (h : front 0x76 x s = .over_ s') : execCctlL1line x s = .next s' := by
  simp only [execCctlL1line, execFront, h]
theorem execCctlL1all_over (h : front 0x76 x s = .over_ s') : execCctlL1all x s = .next s' := by
  simp only [execCctlL1all, execFront, h]
theorem execCctlDemote_over (h : front 0x76 x s = .over_ s') : execCctlDemote x s = .next s' := by
  simp only [execCctlDemote, execFront, h]
theorem execFence_over (h : front 0x77 x s = .over_ s') : execFence x s = .next s' := by
  simp only [execFence, execFront, h]
theorem execPfencePp_over (h : front 0x78 x s = .over_ s') : execPfencePp x s = .next s' := by
  simp only [execPfencePp, execFront, h]
theorem execPfenceDp_over (h : front 0x78 x s = .over_ s') : execPfenceDp x s = .next s' := by
  simp only [execPfenceDp, execFront, h]
theorem execAtom_over (h : front 0x79 x s = .over_ s') : execAtom x s = .next s' := by
  simp only [execAtom, execFront, h]
theorem execAtoms_over (h : front 0x7A x s = .over_ s') : execAtoms x s = .next s' := by
  simp only [execAtoms, execFront, h]
theorem execRed_over (h : front 0x7B x s = .over_ s') : execRed x s = .next s' := by
  simp only [execRed, execFront, h]
theorem execReds_over (h : front 0x7C x s = .over_ s') : execReds x s = .next s' := by
  simp only [execReds, execFront, h]
theorem execAtomx_over (h : front 0x7D x s = .over_ s') : execAtomx x s = .next s' := by
  simp only [execAtomx, execFront, h]
theorem execDflush_over (h : front 0x7E x s = .over_ s') : execDflush x s = .next s' := by
  simp only [execDflush, execFront, h]
theorem execCas_over (h : front 0x80 x s = .over_ s') : execCas x s = .next s' := by
  simp only [execCas, execFront, h]
theorem execCass_over (h : front 0x81 x s = .over_ s') : execCass x s = .next s' := by
  simp only [execCass, execFront, h]
theorem execEcrd_over (h : front 0x82 x s = .over_ s') : execEcrd x s = .next s' := by
  simp only [execEcrd, execFront, h]
theorem execEcclr_over (h : front 0x83 x s = .over_ s') : execEcclr x s = .next s' := by
  simp only [execEcclr, execFront, h]
theorem execCpy_over (h : front 0x90 x s = .over_ s') : execCpy x s = .next s' := by
  simp only [execCpy, execSluiceOp, execFront, h]
theorem execCpyt_over (h : front 0x91 x s = .over_ s') : execCpyt x s = .next s' := by
  simp only [execCpyt, execSluiceOp, execFront, h]
theorem execCpyg_over (h : front 0x92 x s = .over_ s') : execCpyg x s = .next s' := by
  simp only [execCpyg, execSluiceOp, execFront, h]
theorem execSeminit_over (h : front 0x93 x s = .over_ s') : execSeminit x s = .next s' := by
  simp only [execSeminit, execFront, h]
theorem execSemacq_over (h : front 0x94 x s = .over_ s') : execSemacq x s = .next s' := by
  simp only [execSemacq, execFront, h]
theorem execSemrel_over (h : front 0x95 x s = .over_ s') : execSemrel x s = .next s' := by
  simp only [execSemrel, execFront, h]
theorem execTbinit_over (h : front 0x96 x s = .over_ s') : execTbinit x s = .next s' := by
  simp only [execTbinit, execTbPost, execFront, h]
theorem execTbexp_over (h : front 0x97 x s = .over_ s') : execTbexp x s = .next s' := by
  simp only [execTbexp, execTbPost, execFront, h]
theorem execTbarr_over (h : front 0x98 x s = .over_ s') : execTbarr x s = .next s' := by
  simp only [execTbarr, execTbPost, execFront, h]
theorem execTbtst_over (h : front 0x99 x s = .over_ s') : execTbtst x s = .next s' := by
  simp only [execTbtst, execTbTest, execFront, h]
theorem execTbwait_over (h : front 0x9A x s = .over_ s') : execTbwait x s = .next s' := by
  simp only [execTbwait, execTbTest, execFront, h]
theorem execBar_over (h : front 0x9B x s = .over_ s') : execBar x s = .next s' := by
  simp only [execBar, execFront, h]
theorem execSgput_over (h : front 0x9C x s = .over_ s') : execSgput x s = .next s' := by
  simp only [execSgput, execFront, h]
theorem execSgputWait_over (h : front 0x9C x s = .over_ s') : execSgputWait x s = .next s' := by
  simp only [execSgputWait, execFront, h]
theorem execSgget_over (h : front 0x9D x s = .over_ s') : execSgget x s = .next s' := by
  simp only [execSgget, execFront, h]
theorem execSggetErr_over (h : front 0x9D x s = .over_ s') : execSggetErr x s = .next s' := by
  simp only [execSggetErr, execFront, h]
theorem execSgrel_over (h : front 0x9E x s = .over_ s') : execSgrel x s = .next s' := by
  simp only [execSgrel, execFront, h]
theorem execMma_over (h : front 0xA0 x s = .over_ s') : execMma x s = .next s' := by
  simp only [execMma, execMatrixBlock, execFront, h]
theorem execMmas_over (h : front 0xA1 x s = .over_ s') : execMmas x s = .next s' := by
  simp only [execMmas, execMatrixBlock, execFront, h]
theorem execMtrn_over (h : front 0xA2 x s = .over_ s') : execMtrn x s = .next s' := by
  simp only [execMtrn, execMatrixBlock, execFront, h]
theorem execMprm_over (h : front 0xA3 x s = .over_ s') : execMprm x s = .next s' := by
  simp only [execMprm, execMatrixBlock, execFront, h]
theorem execMred_over (h : front 0xA4 x s = .over_ s') : execMred x s = .next s' := by
  simp only [execMred, execMatrixBlock, execFront, h]
theorem execMldb_over (h : front 0xA5 x s = .over_ s') : execMldb x s = .next s' := by
  simp only [execMldb, execFront, h]
theorem execMstc_over (h : front 0xA6 x s = .over_ s') : execMstc x s = .next s' := by
  simp only [execMstc, execMatrixBlock, execFront, h]
theorem execMzero_over (h : front 0xA7 x s = .over_ s') : execMzero x s = .next s' := by
  simp only [execMzero, execFront, h]
theorem execMqry_over (h : front 0xA8 x s = .over_ s') : execMqry x s = .next s' := by
  simp only [execMqry, execFront, h]
theorem execRkbind_over (h : front 0xB0 x s = .over_ s') : execRkbind x s = .next s' := by
  simp only [execRkbind, execFront, h]
theorem execRkray_over (h : front 0xB1 x s = .over_ s') : execRkray x s = .next s' := by
  simp only [execRkray, execFront, h]
theorem execRkqry_over (h : front 0xB2 x s = .over_ s') : execRkqry x s = .next s' := by
  simp only [execRkqry, execFront, h]
theorem execRksav_over (h : front 0xB3 x s = .over_ s') : execRksav x s = .next s' := by
  simp only [execRksav, execFront, h]
theorem execRkres_over (h : front 0xB4 x s = .over_ s') : execRkres x s = .next s' := by
  simp only [execRkres, execFront, h]
theorem execRkref_over (h : front 0xB5 x s = .over_ s') : execRkref x s = .next s' := by
  simp only [execRkref, execFront, h]
theorem execRkflsh_over (h : front 0xB6 x s = .over_ s') : execRkflsh x s = .next s' := by
  simp only [execRkflsh, execFront, h]
theorem execRkcan_over (h : front 0xB7 x s = .over_ s') : execRkcan x s = .next s' := by
  simp only [execRkcan, execFront, h]
theorem execBinpop_over (h : front 0xC0 x s = .over_ s') : execBinpop x s = .next s' := by
  simp only [execBinpop, execFront, h]
theorem execRstq_over (h : front 0xC1 x s = .over_ s') : execRstq x s = .next s' := by
  simp only [execRstq, execFront, h]
theorem execRstqBin_over (h : front 0xC1 x s = .over_ s') : execRstqBin x s = .next s' := by
  simp only [execRstqBin, execFront, h]
theorem execFrgld_over (h : front 0xC2 x s = .over_ s') : execFrgld x s = .next s' := by
  simp only [execFrgld, execFront, h]
theorem execRate_over (h : front 0xC3 x s = .over_ s') : execRate x s = .next s' := by
  simp only [execRate, execFront, h]
theorem execRgst_over (h : front 0xC4 x s = .over_ s') : execRgst x s = .next s' := by
  simp only [execRgst, execFront, h]
theorem execRgld_over (h : front 0xC5 x s = .over_ s') : execRgld x s = .next s' := by
  simp only [execRgld, execFront, h]
theorem execRgdone_over (h : front 0xC6 x s = .over_ s') : execRgdone x s = .next s' := by
  simp only [execRgdone, execFront, h]
theorem execPstat_over (h : front 0xC7 x s = .over_ s') : execPstat x s = .next s' := by
  simp only [execPstat, execFront, h]
theorem execBra_over (h : front 0xD0 x s = .over_ s') : execBra x s = .next s' := by
  simp only [execBra, execFront, h]
theorem execBrx_over (h : front 0xD1 x s = .over_ s') : execBrx x s = .next s' := by
  simp only [execBrx, execFront, h]
theorem execCall_over (h : front 0xD2 x s = .over_ s') : execCall x s = .next s' := by
  simp only [execCall, execFront, h]
theorem execCallx_over (h : front 0xD3 x s = .over_ s') : execCallx x s = .next s' := by
  simp only [execCallx, execFront, h]
theorem execRet_over (h : front 0xD4 x s = .over_ s') : execRet x s = .next s' := by
  simp only [execRet, execFront, h]
theorem execLaunch_over (h : front 0xD5 x s = .over_ s') : execLaunch x s = .next s' := by
  simp only [execLaunch, execFront, h]
theorem execJoin_over (h : front 0xD6 x s = .over_ s') : execJoin x s = .next s' := by
  simp only [execJoin, execFront, h]
theorem execPost_over (h : front 0xD7 x s = .over_ s') : execPost x s = .next s' := by
  simp only [execPost, execFront, h]
theorem execRegroup_over (h : front 0xD8 x s = .over_ s') : execRegroup x s = .next s' := by
  simp only [execRegroup, execFront, h]
theorem execTrap_over (h : front 0xD9 x s = .over_ s') : execTrap x s = .next s' := by
  simp only [execTrap, execFront, h]
theorem execSrd_over (h : front 0xDA x s = .over_ s') : execSrd x s = .next s' := by
  simp only [execSrd, execFront, h]
theorem execSwr_over (h : front 0xDB x s = .over_ s') : execSwr x s = .next s' := by
  simp only [execSwr, execFront, h]
theorem execTwait_over (h : front 0xDC x s = .over_ s') : execTwait x s = .next s' := by
  simp only [execTwait, execFront, h]
theorem execRecx_over (h : front 0xDD x s = .over_ s') : execRecx x s = .next s' := by
  simp only [execRecx, execFront, h]
theorem execEret_over (h : front 0xDE x s = .over_ s') : execEret x s = .next s' := by
  simp only [execEret, execFront, h]
theorem execHalt_over (h : front 0xDF x s = .over_ s') : execHalt x s = .next s' := by
  simp only [execHalt, execFront, h]

/-- An instruction whose issue ends before its effect leaves what those steps leave (R40). -/
theorem exec_of_front_over {i : Instr} {opc : Nat} (hf : i.stdForm = some (opc, x)) (h : front opc x s = .over_ s') :
    exec i s = .next s' := by
  cases i <;> cases hf
  · exact execAdd_over h
  · exact execSub_over h
  · exact execAddc_over h
  · exact execSubb_over h
  · exact execMullo_over h
  · exact execMulhi_over h
  · exact execMad_over h
  · exact execMadw_over h
  · exact execDiv_over h
  · exact execRem_over h
  · exact execMin_over h
  · exact execMax_over h
  · exact execAbs_over h
  · exact execNeg_over h
  · exact execAddsat_over h
  · exact execSubsat_over h
  · exact execLea_over h
  · exact execIcmp_over h
  · exact execSel_over h
  · exact execMov_over h
  · exact execClamp_over h
  · exact execSad_over h
  · exact execDot4_over h
  · exact execDot2_over h
  · exact execCvti_over h
  · exact execBysel_over h
  · exact execPack_over h
  · exact execUnpk_over h
  · exact execAvg_over h
  · exact execAnd_over h
  · exact execOr_over h
  · exact execXor_over h
  · exact execAndn_over h
  · exact execOrn_over h
  · exact execNot_over h
  · exact execLogt_over h
  · exact execShl_over h
  · exact execShr_over h
  · exact execSar_over h
  · exact execRol_over h
  · exact execRor_over h
  · exact execFshl_over h
  · exact execFshr_over h
  · exact execBfe_over h
  · exact execBfi_over h
  · exact execPopc_over h
  · exact execClz_over h
  · exact execCtz_over h
  · exact execBrev_over h
  · exact execBmsk_over h
  · exact execPlogt_over h
  · exact execP2v_over h
  · exact execV2p_over h
  · exact execFadd_over h
  · exact execFsub_over h
  · exact execFmul_over h
  · exact execFfma_over h
  · exact execFmin_over h
  · exact execFmax_over h
  · exact execFminm_over h
  · exact execFmaxm_over h
  · exact execFcmp_over h
  · exact execFclass_over h
  · exact execFclassPredicate_over h
  · exact execFrnd_over h
  · exact execFfrc_over h
  · exact execFscl_over h
  · exact execFexpt_over h
  · exact execFcps_over h
  · exact execFdiv_over h
  · exact execFsqrt_over h
  · exact execFrcp_over h
  · exact execFrsq_over h
  · exact execFex2_over h
  · exact execFlg2_over h
  · exact execFsin_over h
  · exact execFcos_over h
  · exact execFtanh_over h
  · exact execFdotp2_over h
  · exact execHfma2_over h
  · exact execCvtf_over h
  · exact execCvtfi_over h
  · exact execCvtif_over h
  · exact execFlgrd_over h
  · exact execFlgclr_over h
  · exact execVote_over h
  · exact execBallot_over h
  · exact execShfl_over h
  · exact execShflup_over h
  · exact execShfldn_over h
  · exact execShflx_over h
  · exact execRedx_over h
  · exact execScanx_over h
  · exact execMatchLanes_over h
  · exact execElect_over h
  · exact execGbcast_over h
  · exact execConv_over h
  · exact execLd_over h
  · exact execSt_over h
  · exact execLds_over h
  · exact execSts_over h
  · exact execLdk_over h
  · exact execPref_over h
  · exact execCctlL1line_over h
  · exact execCctlL1all_over h
  · exact execCctlDemote_over h
  · exact execFence_over h
  · exact execPfencePp_over h
  · exact execPfenceDp_over h
  · exact execAtom_over h
  · exact execAtoms_over h
  · exact execRed_over h
  · exact execReds_over h
  · exact execAtomx_over h
  · exact execDflush_over h
  · exact execCas_over h
  · exact execCass_over h
  · exact execEcrd_over h
  · exact execEcclr_over h
  · exact execCpy_over h
  · exact execCpyt_over h
  · exact execCpyg_over h
  · exact execSeminit_over h
  · exact execSemacq_over h
  · exact execSemrel_over h
  · exact execTbinit_over h
  · exact execTbexp_over h
  · exact execTbarr_over h
  · exact execTbtst_over h
  · exact execTbwait_over h
  · exact execBar_over h
  · exact execSgput_over h
  · exact execSgputWait_over h
  · exact execSgget_over h
  · exact execSggetErr_over h
  · exact execSgrel_over h
  · exact execMma_over h
  · exact execMmas_over h
  · exact execMtrn_over h
  · exact execMprm_over h
  · exact execMred_over h
  · exact execMldb_over h
  · exact execMstc_over h
  · exact execMzero_over h
  · exact execMqry_over h
  · exact execRkbind_over h
  · exact execRkray_over h
  · exact execRkqry_over h
  · exact execRksav_over h
  · exact execRkres_over h
  · exact execRkref_over h
  · exact execRkflsh_over h
  · exact execRkcan_over h
  · exact execBinpop_over h
  · exact execRstq_over h
  · exact execRstqBin_over h
  · exact execFrgld_over h
  · exact execRate_over h
  · exact execRgst_over h
  · exact execRgld_over h
  · exact execRgdone_over h
  · exact execPstat_over h
  · exact execBra_over h
  · exact execBrx_over h
  · exact execCall_over h
  · exact execCallx_over h
  · exact execRet_over h
  · exact execLaunch_over h
  · exact execJoin_over h
  · exact execPost_over h
  · exact execRegroup_over h
  · exact execTrap_over h
  · exact execSrd_over h
  · exact execSwr_over h
  · exact execTwait_over h
  · exact execRecx_over h
  · exact execEret_over h
  · exact execHalt_over h

end Sys2Proof.Machine
end

