-- ==== Sys2Proof/Tests/Slice0.lean ====
section
/-! SUPPORT. Tests: the decoding of words written out from the encoding tables, the refusal of ill-formed terms, and for each
statement a concrete state that meets its hypotheses. Expected values come from the spec's tables and examples, or by hand from
them. -/

/-- The address of a queue's word, by the name that this file can use. -/
def queueWordAt (x : Sys2Proof.Machine.Queue) (k o : Nat) : Nat := queueWord x k o

/-- Another of them: the word of a bytecode. -/
def bytecodeWord (i : Sys2Proof.Instr) : Option Nat := Sys2Proof.queueWord i

namespace Sys2Proof.Tests

open Sys2Proof Sys2Proof.Machine

/-! ## Decoding -/

/-- The word of a standard form's fields: opcode, D, A, B (R22). -/
def low (opc d a b : Nat) : Word := BitVec.ofNat 32 (opc + d * 256 + a * 65536 + b * 2 ^ 24)

/-- Its second word: FN, EMP, DCL, SCL, the negation and the guard, C (R22). -/
def high (fn emp dcl scl neg grd c : Nat) : Word :=
  BitVec.ofNat 32 (fn * 2 ^ 26 + emp * 2 ^ 23 + dcl * 2 ^ 21 + scl * 2 ^ 15 + neg * 2 ^ 14 + grd * 256 + c)

/-- One standard form of each family from its fields. -/
theorem test_decode_standard :
    decodeRunWord [low 0x01 5 6 7, high 0 0 0 0 1 3 0] =
      (some (.sub { plain 0 (.v 5) (.v 6) (.v 7) .none with gneg := true, grd := 3 }), 2) ∧
    decodeRunWord [low 0x40 1 2 3, high 0 1 0 0b000100 0 37 0] =
      (some (.fadd { plain 0 (.v 1) (.v 2) (.g 3) .none with emp := 1 }), 2) ∧
    decodeRunWord [low 0x61 4 37 0, high 0 0 0 0b110000 0 37 9] =
      (some (.ballot (plain 0 (.v 4) (.pred false 37) .none (.imm 9))), 2) ∧
    decodeRunWord [low 0x70 8 4 0, high 32 0 0 0b001100 0 37 0] =
      (some (.ld (plain 32 (.v 8) (.v 4) (.imm 0) .none)), 2) ∧
    decodeRunWord [low 0x90 0 3 0, high 0 0 0 0b000001 0 37 0] = (some (.cpy (plain 0 .none (.g 3) .none .none)), 2) ∧
    decodeRunWord [low 0xA7 0 0 0, high 32 0 0 0 0 37 0] = (some (.mzero (plain 32 .none .none .none .none)), 2) ∧
    decodeRunWord [low 0xD9 0 9 0, high 0 0 0 0b000011 0 37 0] = (some (.trap (plain 0 .none (.imm 9) .none .none)), 2) := by
  decide +kernel

/-- The short forms (R320). -/
theorem test_decode_short :
    decodeRunWord [0x000000E0] = (some .nop, 1) ∧ decodeRunWord [0x000C05E1] = (some (.wait 12 5), 1) ∧
    decodeRunWord [0x000000E2] = (some .yield, 1) ∧ decodeRunWord [0x000000E3] = (some .exit, 1) ∧
    decodeRunWord [0xFFFFFFE4] = (some (.brs 0xFFFFFF), 1) ∧ decodeRunWord [0x960000E5] = (some (.brp 37 true 0), 1) ∧
    decodeRunWord [0x123407E6] = (some (.movi 0x1234 7), 1) ∧ decodeRunWord [0x000009E7] = (some (.bkpt 9), 1) := by
  decide +kernel

/-- Micro-words of the rake by OP [31:28], D, A, B, F, E, X and IMM (R275, R276). -/
theorem test_decode_micro :
    decodeMicro 0x01C00000 = some (.rkNld 7) ∧ decodeMicro 0x12010800 = some (.rkFex 1 2 1) ∧
    decodeMicro 0x62900200 = none ∧ decodeMicro 0x60900200 = some (.rkCmpf 2 2 2) ∧
    decodeMicro 0x70000005 = some (.rkJmp 5) ∧ decodeMicro 0xD0000000 = some .rkYld ∧ decodeMicro 0xE0000100 = some (.rkDone true) := by
  decide +kernel

/-- Queue bytecodes by OP [31:27], D, A, X and IMM (R341, R342). -/
theorem test_decode_queue :
    decodeQueue 0x10850007 = none ∧ decodeQueue 0x10810007 = some (.qMoviHi 1 7) ∧ decodeQueue 0x19140001 = some (.qAdd 2 2 true 1) ∧
    decodeQueue 0xB0000000 = some .qHalt ∧ decodeQueue 0xC0000000 = none := by
  decide +kernel

/-- Reserved encodings are refused: an opcode of the map that has rsv, and a reserved bit of a short form (R39, R43, R320). -/
theorem test_decode_reserved :
    (decodeRunWord [low 0x1D 0 0 0, high 0 0 0 0 0 37 0]).1 = none ∧ (decodeRunWord [0x000001E0]).1 = none ∧
    (decodeRunWord [low 0x00 4 1 2, high 1 0 0 0 0 37 0]).1 = none := by
  decide +kernel

/-! ## Ill-formed terms -/

/-- Each check of a standard form refuses a term: FN, D, A, B, C, the guard, EMP, a second literal, C 0xFF, the control byte. -/
theorem test_ill_formed :
    let x := plain 8 (.v 4) (.v 1) (.v 2) .none
    Instr.wf (.add x) = true ∧ Instr.wf (.add { x with fn := 1 }) = false ∧ Instr.wf (.add { x with d := .p 1 }) = false ∧
    Instr.wf (.add { x with a := .none }) = false ∧ Instr.wf (.add { x with b := .pred false 1 }) = false ∧
    Instr.wf (.add { x with c := .v 3 }) = false ∧ Instr.wf (.add { x with grd := 39 }) = false ∧
    Instr.wf (.add { x with emp := 4 }) = false ∧ Instr.wf (.add { x with a := .lit 1, b := .lit 2 }) = false ∧
    Instr.wf (.addc { x with fn := 0, c := .imm 0xFF }) = false ∧ Instr.wf (.add { x with ctl := 1 }) = false ∧
    Instr.wf (.addc { x with fn := 0, d := .v 5, c := .imm 0 }) = false := by
  decide +kernel

/-- The checks of the other forms: BRP's code, a bytecode's B and condition and LOOP's count, and an FN of a sibling row. -/
theorem test_ill_formed_others :
    Instr.wf (.brp 39 false 0) = false ∧ Instr.wf (.brp 38 false 0) = true ∧ Instr.wf (.qAdd 0 0 false 16) = false ∧
    Instr.wf (.qAdd 0 0 true 16) = true ∧ Instr.wf (.qBr 0 3 0) = false ∧ Instr.wf (.qLoop 1 2048) = false ∧
    Instr.wf (.sgput (plain 1 (.v 1) (.v 1) .none .none)) = false := by
  decide +kernel

/-! ## Instructions that execute -/

/-- An operand of a kind. -/
def someSrc : SKind → Src
  | .none => .none
  | .pred => .pred false 37
  | .lut => .imm 0
  | .ctlw => .imm 0x60
  | _ => .v 8

/-- A destination of a kind. -/
def someDst : DKind → Dst
  | .none => .none
  | .pred | .predL => .p 1
  | _ => .v 16

/-- A standard form of an opcode with an FN, plain operands in v8, v16 and p1. -/
def sample (opc fn : Nat) (pd : Bool) : Std :=
  match sigOf opc fn 0 pd (if opc = 0x5B then some 0x60 else none) with
  | some g => plain fn (someDst g.d) (someSrc g.a) (someSrc g.b) (someSrc g.c)
  | none => plain fn .none .none .none .none

/-- The state in which the group of pan 0 that stands before an instruction issues. -/
def before (i : Instr) : State :=
  let w := ((encode i).zipIdx.map fun e => e.1.toNat * 2 ^ (32 * e.2)).sum
  { State.reset.placeIsa w with agenda := [], actor := (0, if placeRole (w % 256) = .control then 128 else 0) }

/-- Every condition of `Executes`, and an active lane whose thread goes on. -/
def executes (opc : Nat) (x : Std) (s : State) : Bool :=
  match s.issuer with
  | some (g, r, tm) =>
    gate opc x g r tm false == .pass && g.overtaken.any (touches opc x (activeLanes g r x)).contains == false &&
    !(activeLanes g r x).isEmpty && !(tornExits opc x.fn.toNat && (s.asSlot tm.part tm.slot).torn) &&
    (activeLanes g r x).all fun l => match g.thread l with
      | some t => t.st != .exited
      | none => false
  | none => false

theorem executes_ok {opc : Nat} {x : Std} {s : State} (h : executes opc x s = true) :
    ∃ g r tm, s.issuer = some (g, r, tm) ∧ Executes opc x s g r tm ∧ ∃ l t, InLane x g r l t := by
  unfold executes at h
  split at h
  · next g r tm hi =>
    simp only [Bool.and_eq_true, beq_iff_eq, Bool.not_eq_true', List.all_eq_true] at h
    obtain ⟨⟨⟨⟨h1, h2⟩, h3⟩, h4⟩, h5⟩ := h
    refine ⟨g, r, tm, hi, ⟨hi, h1, h2, h3, h4⟩, ?_⟩
    cases hl : activeLanes g r x with
    | nil => simp [hl] at h3
    | cons l ls =>
      have hm : l ∈ activeLanes g r x := by simp [hl]
      have := h5 l hm
      split at this
      · next t ht => exact ⟨l, t, ⟨hm, ht, by simpa using this⟩⟩
      · cases this
  · cases h

/-- Some FN of an opcode, with a predicate destination or without, gives a form that executes. -/
def tries (opc : Nat) : Bool :=
  (List.range 64).any fun fn => [false, true].any fun pd =>
    let x := sample opc fn pd
    match formAt opc with
    | some mk => (mk x).wf && executes opc x (before (mk x))
    | none => false

/-- The opcodes of the standard and literal forms (R43). -/
def stdOpcodes : List Nat := (List.range 224).filter fun o => (formAt o).isSome

/-- A witness of `Executes` and `InLane` for every opcode of a standard form: all statements that ask only these. -/
theorem test_every_form_executes : stdOpcodes.all tries = true := by decide +kernel

theorem test_witness_executes : ∀ opc ∈ stdOpcodes, ∃ x s g r tm, Executes opc x s g r tm ∧ ∃ l t, InLane x g r l t := by
  intro opc h
  have := List.all_eq_true.mp test_every_form_executes opc h
  simp only [tries, List.any_eq_true] at this
  obtain ⟨fn, -, pd, -, h2⟩ := this
  split at h2
  · simp only [Bool.and_eq_true] at h2
    obtain ⟨g, r, tm, -, h3⟩ := executes_ok h2.2
    exact ⟨_, _, g, r, tm, h3⟩
  · cases h2

/-! ## Witnesses: cross-lane, memory and fence instructions -/

/-- What holds of the group, run and team that issue. -/
def issuing (s : State) (f : Group → RunIn → Team → Bool) : Bool :=
  match s.issuer with
  | some (g, r, tm) => f g r tm
  | none => false

/-- The state before an instruction, its team and group changed. -/
def edited (i : Instr) (fg : Group → Group) (ft : Team → Team := id) (fs : State → State := id) : State :=
  let s := before i
  fs (s.modCore 0 fun c => { c with groups := tmap c.groups fun _ g => fg g, teams := tmap c.teams fun _ t => ft t })

/-- The leaf of a readable and writable 4 KiB page of asset memory at 0x200000. -/
def leaf : Nat := 0x200000 + 512 + 128 + 64 + 3

/-- Virtual page 0 of slot 0 mapped to it, and held by the TLBs of pan 0. -/
def mapped (s : State) : State :=
  let t := [tlbOf 0 0 leaf]
  (s.modPart 0 fun x => { x with slots := [(0, { en := true, root := 0x10000 })] }).modPan 0 fun n =>
    { n with l1tlb := [(0, t), (4, t)], l2tlb := t }

/-- Address 0, at which v8 points, passes the checks of `Reaches` in the whole access. -/
def reaches (s : State) (need : Need) (n align : Nat) : Bool :=
  issuing s fun _ _ tm => addressOk s tm.part tm.slot 0 && (pieces 0 0 n).all fun pc =>
    tlbFind (tgetD (s.pan 0).l1tlb 0 []) (asid tm.part tm.slot) pc.va == some leaf && need.granted leaf && 0 % align == 0 &&
    !isEndpoint (leafPa leaf pc.va) && !cxOf leaf

/-- `MemoryInstructionsSend`: every form, and widths at their ends. -/
theorem test_witness_memory :
    ([(0x70, 0, 1), (0x70, 48, 16), (0x71, 0, 1), (0x71, 40, 8), (0x74, 32, 4), (0x79, 0, 4), (0x79, 33, 8), (0x7B, 0, 4), (0x7B, 0x1C, 128),
      (0x7D, 0, 4), (0x80, 0, 4), (0x80, 1, 8), (0x82, 0, 128), (0x83, 0, 128)].all fun (opc, fn, n) =>
      let x := sample opc fn false
      match formAt opc with
      | some mk =>
        let s := mapped (before (mk x))
        executes opc x s && issuing s (fun g _ _ => g.ctr == {}) && reaches s .rw n (if 0x79 ≤ opc then n else 1)
      | none => false) = true := by
  decide +kernel

/-- `ScratchpadAccesses`: v8 points at offset 0; there where a byte is uncorrectable; or, for the last clause, beyond the allocation. -/
theorem test_witness_scratch :
    ([(0x72, 0), (0x73, 32), (0x7A, 0), (0x7A, 33), (0x7C, 0), (0x81, 1)].all fun (opc, fn) =>
      let x := sample opc fn false
      let ready (s : State) (spoilt : Bool) : Bool := executes opc x s && issuing s fun g r tm =>
        g.ctr == {} && decide (0 + 16 ≤ tm.size) && (g.fenceScope [0]).isNone && !s.busy (gkeyOf tm g.num) [] && activeLanes g r x == [0] &&
          laneVal g (fun th => srcNat g th 1 x.a) 0 == 0 && ((s.pan 0).spoiltIn tm.base 1).isSome == spoilt && (s.pan 0).spoilt.isEmpty != spoilt
      match formAt opc with
      | some mk => ready (before (mk x)) false && ready ((before (mk x)).modPan 0 fun n => { n with spoilt := [0] }) true
      | none => false) = true ∧
    (let x := sample 0x73 32 false
     let s := edited (.sts x) (fun g => { g with th := [(0, { v := [(8, 4096)] })] })
     executes 0x73 x s && issuing s fun g _ tm => !(s.asSlot tm.part tm.slot).torn &&
       decide (tm.size < laneVal g (fun th => srcNat g th 1 x.a) 0 + 4)) = true := by
  decide +kernel

/-- `CrossLaneCompletes`: lane 0 alone, its mask 1. -/
theorem test_witness_cross_lane :
    ((List.range 12).all fun k =>
      let opc := 0x60 + k
      let y := sample opc 0 (opc == 0x60 || opc == 0x69)
      let x := { y with c := .imm 1 }
      match formAt opc with
      | some mk =>
        let s := before (mk x)
        (if executes opc x s then issuing s fun g _ _ => activeLanes g ((g.run).getD { addr := 0, cls := 0, words := [], set := 0 }) x == [0] &&
          g.ctr == {} && lanesOf (BitVec.ofNat 32 (laneVal g (fun th => srcNat g th 1 x.c) 0)) == [0] && g.th.all fun e => e.2.park.isNone
         else false)
      | none => false) = true := by
  decide +kernel

/-- `MembersParkUntilAllArrive`: lane 1 is yet to come; it is parked; lane 0's mask omits it. -/
theorem test_witness_members :
    let x := { sample 0x62 0 false with c := .imm 3 }
    let parked : Thread := { st := .parked, park := some (.lanes 0 0 3 0 0 2) }
    let s1 := edited (.shfl x) fun g => { g with th := [(0, {}), (1, {})] }
    let s2 := edited (.shfl x) (fun g => { g with th := [(0, {}), (1, parked)] }) id fun s => { s with nextId := 5 }
    let y := { x with c := .imm 2 }
    let s3 := edited (.shfl y) (fun g => { g with th := [(0, {}), (1, {})] }) fun t => { t with trapva := 0x1000 }
    (executes 0x62 x s1 && issuing s1 fun g r _ => activeLanes g r x == [0] && lanesOf r.set == [0] && !g.absent 0 && !g.absent 1) = true ∧
    (executes 0x62 x s2 && issuing s2 fun g r _ => activeLanes g r x == [0] && r.addr == 0 && r.pos == 0 && !g.absent 1) = true ∧
    (executes 0x62 y s3 && issuing s3 fun g r tm => lanesOf r.set == [0] && (g.retire == g) && tm.trapva != 0 &&
      !(s3.asSlot tm.part tm.slot).torn) = true := by
  decide +kernel

/-- A request of the group in slot 0: 4 bytes of line 0x200000. -/
def request (op : ReqOp) (len : Nat := 4) (val : Nat := 0) : Req :=
  let gk : GKey := { part := 0, grid := 1, team := 0, num := 0 }
  let accs : List LaneAcc := [{ lane := 0, off := 0, len := len, val := val }]
  { id := 0, issue := 7, gk := gk, pan := 0, slot := 0, team := 0, asSlot := 0, line := 0x200000, va := 0, op := op, accs := accs }

/-- `CacheAndFences`: nothing of the group is under way, no release is noted; then a store of it is. -/
theorem test_witness_fences :
    ([(0x75, 0), (0x76, 0), (0x76, 1), (0x77, 0), (0x78, 0), (0x78, 1), (0x7E, 0)].all fun (opc, fn) =>
      let x := sample opc fn false
      match formAt opc with
      | some mk =>
        let s := before (mk x)
        executes opc x s && s.fabric.isEmpty && s.beds.isEmpty && s.closes.isEmpty && s.persists.isEmpty && issuing s fun g _ _ =>
          g.issues.isEmpty && !g.flush && g.th.all fun e => e.2.seen.isEmpty
      | none => false) = true ∧
    (let x := sample 0x77 0 false
     let s := edited (.fence x) id id fun s => { s with fabric := [request .store] }
     executes 0x77 x s && issuing s fun g r tm => s.fabric.any fun q => q.gk == gkeyOf tm g.num && q.accs.any fun a =>
       (activeLanes g r x).contains a.lane) = true ∧
    ([(0x78, 1), (0x7E, 0)].all fun (opc, fn) =>
      let x := sample opc fn false
      match formAt opc with
      | some mk =>
        let s := edited (mk x) fun g => { g with flush := true }
        executes opc x s && s.persists.isEmpty && s.closes.isEmpty && issuing s fun g _ _ => g.flush
      | none => false) = true := by
  decide +kernel

/-! ## Witnesses: home beds -/

/-- A device with one request on its way, and a group in slot 0 that made it. -/
def sent (q : Req) : State :=
  let i : Issue := { id := 7, ctr := some (if q.op = .load then .ld else .st), dst := .v 16, lanes := [(0, {})] }
  edited .nop (fun g => { g with issues := [i], ctr := { ld := 1, st := 1 } }) id fun s => { s with fabric := [q] }

/-- `AtBed`: it stands at its bed, which takes it whole; no prefetch has its number. -/
def stands (s : State) (q : Req) : Bool :=
  s.wants.isEmpty && s.request 0 == some q && s.accepts q && !s.shut q.line q.issue && s.prefs.isEmpty &&
  q.accs.all fun a => (q.accs.filter fun b => b.lane == a.lane).length == 1

/-- `AtBed`, `Readable` and `room`: no way of the line's set is the partition's, and the merge buffer is empty. -/
def atBed (s : State) (q : Req) : Bool :=
  stands s q && !s.badLine q.line && s.beds.isEmpty && !q.cx && s.bypass q.gk.part q.line q.hint && s.mergeRoom q.line q.cx &&
  (wayFind (tgetD (s.bed (homeBed q.line)).sets (setOf q.line) []) q.gk.part q.line q.cx).isNone

/-- `BedsPerformAccesses`: each operation; no note, so that an acquire passes. -/
theorem test_witness_beds :
    ([ReqOp.load, .ecrd true 0, .store, .ecclr, .atom 0 true, .atom 3 false, .atom 0x1B true, .cas, .eadd true, .eadd false].all fun op =>
      let q := request op
      let s := sent q
      atBed s q && !q.multi && (s.noteOf 0 q.line q.cx).isNone && !isEndpoint q.line && q.accs.all fun a => decide (a.val < 2 ^ 32 ∧ a.cmp < 2 ^ 64)) = true := by
  decide +kernel

/-- Its last part: two pieces of one lane's access. -/
theorem test_witness_pieces :
    ([ReqOp.load, .store].all fun op =>
      let q := { request op with accs := [{ lane := 0, off := 1, len := 1, val := 3 }, { lane := 0, off := 2, len := 1, val := 4 }] }
      let s := sent q
      s.wants.isEmpty && s.request 0 == some q && s.accepts q && !s.shut q.line q.issue && s.prefs.isEmpty && !s.badLine q.line && s.beds.isEmpty &&
        s.bypass 0 q.line q.hint && s.mergeRoom q.line q.cx && (s.noteOf 0 q.line q.cx).isNone && decide q.accs.Nodup) = true := by
  decide +kernel

/-- The third clause: an acquire that a note of a narrower scope fails, at a line that a way holds. -/
theorem test_witness_scope :
    let q := { request .load with ord := 1, scope := 1, team := 1 }
    let n : Note := { scope := 0, pan := 3, team := 0, slot := 2 }
    let w : Way := { line := q.line, note := some n, st := .clean }
    let s := { sent q with beds := [(homeBed q.line, { sets := [(setOf q.line, [(0, w)])] })] }
    stands s q = true ∧ s.badLine q.line = false ∧ q.op.reads = true ∧ acquires q.ord = true ∧ s.noteOf 0 q.line q.cx = some n ∧
      (wayFind (tgetD (s.bed (homeBed q.line)).sets (setOf q.line) []) 0 q.line q.cx = some (0, w) ∧ w.st ≠ .filling) ∧
      noteOk (promote n (q.rem && decide (2 ≤ q.scope)) q.pan) q.scope q.pan q.team q.slot = false := by
  decide +kernel

/-- A held update of partition `part`. -/
def heldUpdate (part : Nat) : OrderedEntry :=
  { addr := 0x200000, op := 0, val := 1, key := 0, pan := 0, lane := 0, part := part, gk := { part := part, grid := 1, team := 0, num := 0 },
    issue := 3, slot := 0 }

/-- A device whose bed of line 0x200000 holds updates of a partition since the start. -/
def window (s : State) (part n : Nat) : State :=
  { s with beds := [(homeBed 0x200000, { held := List.replicate n (heldUpdate part), winPart := part })], clock := { ns := 4000 } }

/-- `OrderedWindows`: the empty window, the 16th place, a full window, a foreign one; the timer at 4 µs, a close, a conflict. -/
theorem test_witness_windows :
    let q := request (.ordered 0)
    let b := homeBed q.line
    let at_ (s : State) : Bool := stands s q
    let fit (s : State) : Bool := (s.bed b).held.all fun e => !s.badLine e.addr && decide (e.op < 0x1C) && decide (e.val < 2 ^ 32) &&
      (wayFind (tgetD (s.bed b).sets (setOf (lineOf e.addr)) []) e.part (lineOf e.addr) e.cx).isNone && s.bypass e.part (lineOf e.addr) e.hint &&
      !s.shut (lineOf e.addr) e.issue && homeBed (lineOf e.addr) == b && (s.bed b).merge.isEmpty && s.wants.isEmpty
    (at_ (sent q) = true ∧ ((sent q).bed b).held = []) ∧
    (at_ (window (sent q) 0 15) = true ∧ ((window (sent q) 0 15).bed b).held.length + q.accs.length = 16) ∧
    (at_ (window (sent q) 0 16) = true ∧ 16 ≤ ((window (sent q) 0 16).bed b).held.length ∧ fit (window (sent q) 0 16) = true) ∧
    (at_ (window (sent q) 1 1) = true ∧ ((window (sent q) 1 1).bed b).winPart ≠ q.gk.part ∧ fit (window (sent q) 1 1) = true) ∧
    (let s := window (sent q) 0 2
     (s.bed b).winOpen + 4000 ≤ s.clock.nanos ∧ (s.bed b).held ≠ [] ∧ fit s = true) ∧
    (let s := { window (sent q) 0 2 with closes := [{ bed := b, part := 0, gk := q.gk }] }
     ∃ r, s.closes[0]? = some r ∧ (s.bed r.bed).held ≠ [] ∧ (s.bed r.bed).winPart = r.part ∧ fit s = true) ∧
    (let y := request .store
     let s := window (sent y) 0 2
     stands s y = true ∧ fit s = true ∧ (∃ e ∈ (s.bed (homeBed y.line)).held, lineOf e.addr = y.line) ∧
       s.wayMask (homeBed y.line) 0 = 0) := by
  refine ⟨?_, ?_, ?_, ?_, ?_, ⟨_, rfl, ?_⟩, ?_⟩ <;> decide +kernel

/-- `BarriersAtTheirBed`: every operation on a valid barrier and on one that is not; a due watch and its waiter; a re-test. -/
theorem test_witness_barriers :
    ([TbOp.init 0, .init 2, .expect (-1), .arrive 1, .deliver 16, .test].all fun op => [0, 2 ^ 119 + 2].all fun n =>
      let q := request (.tb op) 16
      let s := { sent q with mem := mwrite [] q.line (bytesOf n 16) }
      atBed s q && decide (q.accs.length = 1) && q.line % 128 == 0 && (mnat s.mem q.line 16 == n)) = true ∧
    (let w : Watch := { addr := 0x200000, phase := 0, pan := 0, slot := 0, gk := (request .store).gk, due := true }
     let s := edited .nop (fun g => { g with watching := true }) id fun s => { s with beds := [(5, { watch := [w] })] }
     s.dueWatches[0]? = some (5, w) ∧ (s.findGroup w.gk).isSome = true) ∧
    (let s := edited .nop fun g => { g with watching := true }
     (s.group 0 0).isSome = true ∧ (s.team 0 0).isSome = true ∧ (s.pan 0).off = false ∧ s.beds = []) := by
  decide +kernel

/-- `BedLinesAndMasks`: a filling way; a merge entry that is full, one that is old, in asset memory and in the brine window; a write
that is done; a persist request answered and one held; a budget due; masks apart and overlapping; a reduction that ends. -/
theorem test_witness_bed_lines :
    (let s : State := { fills := [(3, 1, 2)], beds := [(3, { sets := [(1, [(2, { line := 0x200000, st := .filling })])] })] }
     (tget (tgetD (s.bed 3).sets 1 []) 2).map (·.st) = some .filling) ∧
    ([0x200000, 2 ^ 40].all fun line => [(BitVec.allOnes 128, 0), (0, 512)].all fun e =>
      let s : State := { beds := [(homeBed line, { merge := [{ line := line, mask := e.1 }] })], clock := { cycles := e.2 } }
      match (s.bed (homeBed line)).merge[0]? with
      | some m => !m.cx && s.bypass m.part m.line m.hint && (wayFind (tgetD (s.bed (homeBed line)).sets (setOf line) []) m.part line false).isNone && (m.mask == BitVec.allOnes 128 || decide (m.since + 512 ≤ s.clock.cycles))
      | none => false) = true ∧
    (let w : BrineWrite := { line := 2 ^ 40, bytes := [1] }
     let s : State := { brineWrites := [w] }
     s.brineWrites[0]? = some w ∧ s.brineWrites.take 0 = []) ∧
    (let r : PersistReq := { bed := 3, gk := (request .store).gk, upto := 9 }
     let s : State := { persists := [r] }
     let t : State := { persists := [r], beds := [(3, { merge := [{ id := 8, line := 2 ^ 40 }] })] }
     s.brineWrites = [] ∧ s.blockOuts = [] ∧ s.overflow = [] ∧ (s.bed 3).merge = [] ∧
       ∃ e ∈ (t.bed 3).merge, isBrine e.line = true ∧ e.id < r.upto) ∧
    (let s : State := { clock := { ns := 1000 } }
     (s.pan 4).ptick < s.clock.nanos / 1000) ∧
    (let s : State := { parts := [(0, { salMask := 3, salBusy := true }), (1, { salMask := 4 })] }
     (∀ e ∈ s.parts, e.1 ≠ 0 → e.2.salMask &&& 1 = 0) ∧ (s.part 0).salMask.testBit 1 = true ∧ (1#16).getLsbD 1 = false ∧
       (∃ e ∈ s.parts, e.1 ≠ 0 ∧ e.2.salMask &&& 4 ≠ 0) ∧ (s.part 0).salBusy = true) := by
  decide +kernel

/-- `ResponsesFillAndCount`: a load's and a write's response to the one issue of a group. -/
theorem test_witness_responses :
    ([ReqOp.load, .store].all fun op =>
      let y : Resp := { gk := (request op).gk, pan := 0, issue := 7, load := op == .load, vals := [{ lane := 0, val := 5 }] }
      let s := { sent (request op) with resps := [y] }
      match s.findGroup y.gk with
      | some (_, _, g, _) => match g.issues with
        | [i] => i.id == y.issue && (match i.ctr with
            | some c => decide (1 ≤ g.ctr.get c)
            | none => false) && i.lanes == [(0, {})] && i.wait.isNone && i.failed.isNone && i.bad.isNone && y.child == 0 && !y.keep && (g.th.all fun e => e.2.park.isNone) && g.th.any fun e => e.2.st != .exited
        | _ => false
      | none => false) = true := by
  decide +kernel

/-! ## Witnesses: copies, synchronisation and matrix instructions -/

/-- A slice of a CPY of the group in slot 0, with its descriptor. -/
def slice (op desc : Nat) : Slice :=
  { gk := (request .store).gk, slot := 0, team := 0, part := 0, asSlot := 0, issue := 7, lanes := [0], addr := 0, pos := 0, op := op, desc := desc,
    base := 0, size := 1024 }

/-- A state before a form of an opcode whose group is changed, with the form. -/
def formed (opc fn : Nat) (f : Std → Std := id) (fg : Group → Group := id) (ft : Team → Team := id) (fs : State → State := id) : Std × State :=
  let x := f (sample opc fn false)
  (x, match formAt opc with
    | some mk => edited (mk x) fg ft fs
    | none => State.reset)

/-- `CopyInstructionsQueue`: room in every queue; a count of 1, of 2 with no entry, with the first of two and of three slices; an
offset that is misaligned, and a block that ends beyond the allocation. -/
theorem test_witness_copies :
    ([0x90, 0x91, 0x92].all fun opc =>
      let (x, s) := formed opc 0
      executes opc x s && (s.pan 0).core.squeue.isEmpty) = true ∧
    (let two : State → State := fun s => s.modCore 0 fun c => { c with scratch := mwrite [] 21 [1] }
     let some_ (n : Nat) : State → State := fun s => (two s).modCore 0 fun c => { c with asm := [{ team := 0, slot := 0, count := n, slices := [slice 0 0] }] }
     [two, some_ 2, some_ 3].all fun fs =>
       let (x, s) := formed 0x90 0 id id id fs
       executes 0x90 x s && bitsOf (mnat (s.pan 0).core.scratch 0 32) 168 4 == 1 && bitsOf (mnat (s.pan 0).core.scratch 0 32) 176 4 == 0) = true ∧
    ([8, 1008].all fun off => [0x90, 0x91, 0x92].all fun opc =>
      let (x, s) := formed opc 0 id fun g => { g with th := [(0, { v := [(8, BitVec.ofNat 32 off)] })] }
      executes opc x s && issuing s fun g r tm => lowest g r x 1 x.a == off && (decide (off % 16 ≠ 0) || decide (tm.size < off + 32))) = true := by
  decide +kernel

/-- A copy of one byte from scratchpad to page 0, a tile of one element and a gather of one. -/
def copies : List (Nat × Nat) :=
  [(0, 2 ^ 128 + 2 ^ 166), (1, 2 ^ 64 + 2 ^ 96 + 2 ^ 256 + 2 ^ 272 + 16 * 2 ^ 320), (2, 2 ^ 128 + 2 ^ 224 + 2 ^ 288 + 512 * 2 ^ 256)]

/-- `MoveReads` and `MoveWrites` of a move between the pages of its slice and its team's scratchpad. -/
def moves (s : State) (q : SliceRun) (m : Move) : Bool :=
  let line (va : Nat) (f : Nat → Nat → Bool) : Bool := match leafAt q.leaves va with
    | some (pa, e) => !isEndpoint pa && !cxOf e && !s.badLine pa && !s.shut (lineOf pa) 0 && s.beds.isEmpty && f pa e
    | none => false
  (match m.src with
    | .bytes _ => true
    | .scratch off => ((s.pan 0).spoiltIn (q.slice.base + off) m.len).isNone
    | .glob va => line va fun pa e => s.bypass q.slice.part (lineOf pa) (if q.slice.ret = 0 then pteRet e else q.slice.ret)) &&
  (!m.toGlobal || line m.dst fun pa _ => s.mergeRoom (lineOf pa) false)

/-- `SluicesCopy`: a slice that may start; one of each sort that makes its first move; one that has failed and one whose moves are made,
with room in the event queue and without; a tail. -/
theorem test_witness_sluices :
    (copies.all fun (op, d) =>
      let s := mapped (edited .nop id id fun s => s.modCore 0 fun c => { c with sready := [slice op d] })
      s.wants.isEmpty && s.sluiceWorks 0 0 && s.engineMayStart 0 7 0 (slice op d).gk [0] && !(s.asSlot 0 0).torn && (tget (s.pan 0).core.sluices 0).isNone &&
      (slicePages ((slice op d).moves (s.pan 0).core.scratch).1 (slice op d).comp).all fun g => addressOk s 0 0 (g.1 * 4096) &&
        tlbFind (s.pan 0).l2tlb (asid 0 0) (g.1 * 4096) == some leaf && g.2.granted leaf && !isEndpoint (leafPa leaf (g.1 * 4096)) &&
        !isEndpoint (leafPa leaf (g.1 * 4096) + 4095) && !cxOf leaf && pageBytes (pteSize leaf) % 4096 == 0 && pteFrame leaf % 4096 == 0) = true ∧
    (copies.all fun (op, d) =>
      let ms := ((slice op d).moves []).1
      let q : SliceRun := { slice := slice op d, st := .ready, moves := ms, leaves := [(0, leaf)] }
      let s := edited .nop id id fun s => s.modCore 0 fun c => { c with sluices := [(0, q)] }
      s.wants.isEmpty && !(s.pan 0).off && (s.pan 0).caughtUp && (s.pan 0).paid == 0 && s.budget 0 2 && match ms with
        | m :: _ => moves s q m
        | [] => false) = true ∧
    ([(0, SliceSt.ended 1 0 0), (256, .ended 1 0 0), (0, .ready)].all fun (n, st) =>
      let i : Issue := { id := 7, ctr := some .cp, lanes := [(0, {})] }
      let s := edited .nop (fun g => { g with issues := [i], ctr := { cp := 1 } }) id fun s => s.modCore 0 fun c =>
        { c with sluices := [(0, { slice := slice 0 0, st := st })], evq := { head := n } }
      s.wants.isEmpty && !(s.pan 0).off && (s.pan 0).caughtUp && ((s.pan 0).core.evqFull == decide (n = 256)) && compOk (slice 0 0).comp &&
        bitsOf (slice 0 0).comp 62 2 != 2 && match s.findGroup (slice 0 0).gk with
        | some (p, k, g, _) => p == 0 && k == 0 && g.issues == [i] && g.th.any fun e => e.2.st != .exited
        | none => false) = true ∧
    (let s : State := (State.reset).modCore 0 fun c => { c with evq := { head := 1, recs := [[]] } }
     s.wants = [] ∧ (s.pan 0).off = false ∧ (s.pan 0).core.held = [] ∧ (s.pan 0).core.evq.tail ≤ (1#32).toNat ∧ (1#32).toNat ≤ (s.pan 0).core.evq.head ∧
       (s.pan 0).core.evq.head < 2 ^ 32 ∧ (s.pan 0).core.evq.recs.length = (s.pan 0).core.evq.head - (s.pan 0).core.evq.tail) := by
  refine ⟨?_, ?_, ?_, ?_⟩ <;> decide +kernel

/-- `SemaphoresAndStageRings`: count 0 and a count that suffices, a queue whose head the group is, a ring whose slot is empty and
full, none, and a routine; a release whose threads have a store under way. -/
theorem test_witness_rings :
    ([0x93, 0x94, 0x95, 0x9D, 0x9E].all fun opc =>
      let (x, s) := formed opc 0 fun x => { x with b := if x.b = .none then .none else .imm 1 }
      executes opc x s && issuing s fun g r tm => !s.busy (gkeyOf tm g.num) (activeLanes g r x)) = true ∧
    ([0x95, 0x9C, 0x9E].all fun opc =>
      let (x, s) := formed opc 0 id id id fun s =>
        ({ s with fabric := [request .store] } : State).modCore 0 fun c => { c with rings := [(0, { base := 0, slotb := 16, slots := [(.empty, 0)] })] }
      executes opc x s && issuing s fun g r tm => s.busy (gkeyOf tm g.num) (activeLanes g r x) && !(s.asSlot tm.part tm.slot).torn &&
        lowest g r x 1 x.a % 8 == 0) = true ∧
    (let (x, s) := formed 0x94 0 (fun x => { x with b := .imm 1 }) id id fun s => s.modCore 0 fun c => { c with sems := [(0, 1)], semq := [(0, [0])] }
     executes 0x94 x s && tgetD (s.pan 0).core.semq 0 [] == [0] && issuing s fun g r _ => lowest g r x 1 x.b % 256 == 1) = true ∧
    ([(0x9C, 0, RingSt.empty), (0x9C, 1, .empty), (0x9D, 0, .full), (0x9E, 0, .held)].all fun (opc, fn, st) => [true, false].all fun ok =>
      let ring : Ring := { base := 0, slotb := 16, slots := [(if ok then st else .held, 0)] }
      let (x, s) := formed opc fn id id (fun t => { t with trapva := 16 }) fun s => s.modCore 0 fun c => { c with rings := if ok then [(0, ring)] else [] }
      executes opc x s && tSorted (s.pan 0).core.rings && issuing s fun g r tm => lowest g r x 1 x.a % 8 == 0 && tm.trapva != 0 &&
        !s.busy (gkeyOf tm g.num) (activeLanes g r x) && !(s.asSlot tm.part tm.slot).torn &&
        (lanesOf r.set).all fun l => match g.thread l with
          | some th => !th.mode && th.st != .exited
          | none => false) = true := by
  decide +kernel

/-- `BarrierInstructions`: page 0 mapped, no fence; BAR alone in its team, beside a group that has not arrived,
and while a store of its thread is under way. -/
theorem test_witness_barrier_forms :
    ([0x96, 0x97, 0x98, 0x99, 0x9A].all fun opc =>
      let (x, s) := formed opc 0 id id id mapped
      executes opc x s && reaches s .rw 16 16 && issuing s fun g r _ => lowest g r x 2 x.a == 0) = true ∧
    ([true, false].all fun alone =>
      let (x, s) := formed 0x9B 0 id id id fun s => if alone then s else s.setGroup 0 1 { team := 0, num := 1, role := .vector, th := [(0, {})] }
      executes 0x9B x s && tSorted (s.pan 0).core.groups && s.joined.isEmpty && issuing s fun g r tm => activeLanes g r x == lanesOf r.set &&
        !s.busy (gkeyOf tm g.num) (activeLanes g r x) &&
        (s.pan 0).core.groups.all fun e => e.2.th.all fun u => u.2.park.isNone) = true ∧
    (let (x, s) := formed 0x9B 0 id id id fun s => { s with fabric := [request .store] }
     executes 0x9B x s && issuing s fun g r tm => s.busy (gkeyOf tm g.num) (activeLanes g r x) && !(s.asSlot tm.part tm.slot).torn) = true := by
  decide +kernel

/-- `MatrixInstructionsQueue`: a block at 0, misaligned, beyond the allocation; a queue with room and a full one; MLDB with no
arrival and with two. -/
theorem test_witness_matrix_forms :
    ([0xA0, 0xA1, 0xA2, 0xA3, 0xA4, 0xA6, 0xA7, 0xA8].all fun opc => [0, 32, 1024].all fun off =>
      let (x, s) := formed opc 0 id fun g => { g with th := [(0, { v := [(8, BitVec.ofNat 32 off)] })] }
      executes opc x s && issuing s fun g _ tm => g.ctr == {} && decide (tm.size = 1024)) = true ∧
    (let c : MxCmd := { gk := (request .store).gk, slot := 0, team := 0, part := 0, issue := 1, lanes := [0], addr := 0, pos := 0, opc := 0xA7, base := 0, size := 1024 }
     let (x, s) := formed 0xA0 0 id id id fun s => s.modCore 0 fun p => { p with arrays := [(0, List.replicate 8 c)] }
     executes 0xA0 x s && decide (8 ≤ (tgetD (s.pan 0).core.arrays 0 []).length) && issuing s fun _ _ tm => !(s.asSlot tm.part tm.slot).torn) = true ∧
    ([0, 2].all fun n =>
      let a : BArrival := { bbuf := 0, b := {}, issue := 1, lanes := [0] }
      let (x, s) := formed 0xA5 0 (fun x => { x with a := .v 8, b := .none }) fun g => { g with barr := List.replicate n a }
      executes 0xA5 x s && issuing s fun g _ tm => !(s.asSlot tm.part tm.slot).torn && (g.barr.length == n) && g.th.all fun e => e.2.ve == 0) = true := by
  decide +kernel

/-- A command at the head of array 0: bytes 0 to 47 of its block say formats .bf16, M, N and K 1. -/
def mxCmd (opc desc : Nat) : MxCmd :=
  { gk := (request .store).gk, slot := 0, team := 0, part := 0, issue := 7, lanes := [0], addr := 0, pos := 0, opc := opc, desc := desc, base := 0,
    size := 1024, admitted := true }

/-- APITCH 16, M 1, K 1, N 1, ZI 1. -/
def block : Nat := 16 * 2 ^ 32 + 2 ^ 63 + 2 ^ 64 + 2 ^ 80 + 2 ^ 128

/-- A matrix group of slot 0 with a command. -/
def arrayState (c : MxCmd) : State :=
  let i : Issue := { id := 7, ctr := some .mx, dst := if c.opc = 0xA8 then .v 9 else .none, lanes := [(0, {})] }
  edited .nop (fun g => { g with role := .matrix, issues := [i], ctr := { mx := 1 } }) id fun s => s.modCore 0 fun p => { p with arrays := [(0, [c])] }

/-- A full balance affords every command (R365). -/
theorem test_full_affords {s : State} {p part cls ec units : Nat} (h : (s.pan p).pw.bal = 65536) :
    (s.affords p part false cls ec units).isSome = true := by
  simp [State.affords, Power.affords, h]

/-- `MatrixCommandsCompute`: every command that its checks pass, its operands good and, where it reads scratchpad, not; one that they
refuse; and a set whose one group holds an arrival, on a pan whose balance is full. -/
theorem test_witness_matrix_commands :
    ([0xA0, 0xA2, 0xA3, 0xA4, 0xA6, 0xA7, 0xA8].all fun opc => [false, true].all fun spoilt =>
      let c := mxCmd opc (if opc = 0xA2 ∨ opc = 0xA6 then block - 2 ^ 80 else if opc < 0xA7 then block else 0)
      let s := (arrayState c).modPan 0 fun n => { n with spoilt := if spoilt then [0] else [] }
      match s.group 0 0, s.findGroup c.gk with
      | some g, some (0, 0, h, _) => g == h && !c.awaits g && s.engineMayStart 0 7 0 c.gk [0] && !s.testing .matrix 0 (· == 0) && c.blockOk && c.headOk g.mx &&
          !(s.pan 0).core.evqFull && decide (g.mx.seq < 2 ^ 32) && c.admitted && ([0, 1, 2, 3].all fun q => !(tgetD g.mx.bufs q {}).bad) &&
          ((c.reads.any fun r => ((s.pan 0).spoiltIn (c.base + r.1) r.2).isSome) == (spoilt && decide (opc < 0xA6)))
      | _, _ => false) = true ∧
    (mxCmd 0xA0 0).blockOk = false ∧
    ([0xA0, 0xA8].all fun opc => match (arrayState (mxCmd opc 0)).findGroup (mxCmd opc 0).gk with
      | some (0, 0, g, _) => g.issues == [{ id := 7, ctr := some .mx, dst := if opc = 0xA8 then .v 9 else .none, lanes := [(0, {})] }]
      | _ => false) = true ∧
    (let i : Issue := { id := 7, ctr := some .mx, lanes := [(0, {})] }
     let a : BArrival := { bbuf := 0, b := {}, issue := 7, lanes := [0] }
     let s := edited .nop fun g => { g with role := .matrix, issues := [i], ctr := { mx := 1 }, barr := [a] }
     tSorted (s.pan 0).core.groups && s.joined.isEmpty && !(s.pan 0).off && (s.pan 0).caughtUp && decide (a.rc ≤ (s.pan 0).drc) &&
       (tgetD (s.pan 0).core.arrays (quarterOf 0) []).isEmpty && (match tget (s.pan 0).core.teams 0 with
         | some tm => (s.pan 0).pw.bal == 65536 && !s.holdsChain (gkeyOf tm 0)
         | none => false) && match (s.pan 0).core.setGroups 0 0 with
           | [(0, g)] => g.barr.find? (·.bbuf == 0) == some a && g.issues == [i] && g.th.any fun u => u.2.st != .exited
           | _ => false) = true := by
  refine ⟨?_, ?_, ?_, ?_⟩ <;> decide +kernel

/-! ## Witnesses: control, traps and special registers -/

/-- The group's threads can take a trap that is not fatal: `Trappable` but for its plain conditions on threads. -/
def trappable (s : State) : Bool :=
  issuing s fun g r tm => tm.trapva != 0 && !(s.asSlot tm.part tm.slot).torn && (g.retire == g) && (lanesOf r.set).all fun l => match g.thread l with
    | some th => !th.mode && th.park.isNone
    | none => false

/-- A team with a trap routine. -/
def routine (t : Team) : Team := { t with trapva := 0x1000 }

/-- `StandardFormsMeetTheGate`: an encoding refused, a role not entitled, an empty guard, an overtaken write, an empty source with
the trap policy and without, an empty destination, no active thread, a torn slot. -/
theorem test_witness_gate :
    (let (x, s) := formed 0x00 0 (fun x => { x with ctl := 1 }) id routine
     !x.ok 0x00 && trappable s) = true ∧
    (let (x, s) := formed 0x90 0 id (fun g => { g with role := .vector }) routine
     x.ok 0x90 && trappable s && issuing s fun g _ _ => g.role == .vector) = true ∧
    (let (x, s) := formed 0x00 0 (fun x => { x with grd := 1 }) fun g => { g with th := [(0, { pe := 2 })] }
     x.ok 0x00 && issuing s fun g r _ => guardEmpty g r x) = true ∧
    (let (x, s) := formed 0x00 0 id (fun g => { g with overtaken := [(0, 8)] }) routine
     x.ok 0x00 && trappable s && issuing s fun g r _ => (touches 0x00 x (activeLanes g r x)).contains (0, 8)) = true ∧
    ([0, 1].all fun emp =>
      let (x, s) := formed 0x00 0 (fun x => { x with emp := BitVec.ofNat 3 emp }) (fun g => { g with th := [(0, { ve := 1#256 <<< 8 })] }) routine
      match x.sig 0x00 with
      | some sg => x.ok 0x00 && trappable s && (stdTrapPolicy x 0x00 0 == (emp == 1)) && issuing s fun g r _ => slotEmpty g (activeLanes g r x) x sg 0
      | none => false) = true ∧
    (let (x, s) := formed 0x00 0 id fun g => { g with th := [(0, { ve := 1#256 <<< 16 })] }
     x.ok 0x00 && issuing s fun g _ _ => match g.thread 0 with
       | some t => dstEmpty g t 1 x.d
       | none => false) = true ∧
    (let (x, s) := formed 0x00 0 fun x => { x with gneg := true }
     x.ok 0x00 && issuing s fun g r _ => (activeLanes g r x).isEmpty && g.th.any fun e => e.2.st != .exited) = true ∧
    (let torn : State → State := fun s => s.modPart 0 fun p => { p with slots := [(0, { en := true, torn := true })] }
     let (x, s) := formed 0x70 32 id (fun g => { g with th := [(0, {}), (1, {})] }) id torn
     x.ok 0x70 && tornExits 0x70 32 && issuing s fun g r tm => (s.asSlot tm.part tm.slot).torn && (activeLanes g r x == [0]) && (g.retire == g)) = true := by
  decide +kernel

/-- `BranchesAndCalls`: stacks of depth 0, 1, 15 and 16. -/
theorem test_witness_calls :
    ([(0xD2, 0), (0xD3, 15), (0xD2, 16), (0xD4, 1), (0xD4, 0), (0xD0, 0), (0xD1, 0)].all fun (opc, n) =>
      let (x, s) := formed opc 0 id (fun g => { g with th := [(0, { stack := List.replicate n 64 })] }) routine
      executes opc x s && trappable s && issuing s fun g _ _ => g.th.all fun e => e.2.stack.length == n) = true ∧
    (let s := before (.brp 37 false 4)
     issuing s fun g r _ => (lanesOf r.set).all fun l => match g.thread l with
       | some th => !th.predEmpty 37 && th.pred 37
       | none => false) = true := by
  decide +kernel

/-- `WaitsAndEnds`: a WAIT that holds and one that does not, MOVI's register in the budget and the first beyond it, empty and full,
a pending group beside, TWAIT past and ahead. -/
theorem test_witness_waits :
    ([0, 1].all fun n => issuing (edited (.wait 0 1) fun g => { g with ctr := { ld := n } }) fun g _ tm =>
      !((edited (.wait 0 1) fun g => { g with ctr := { ld := n } }).asSlot tm.part tm.slot).torn && g.ctr.ld == n && g.th.any fun e => e.2.st != .exited) = true ∧
    (([(63, 0), (64, 0), (63, 1#256 <<< 63)] : List (Nat × BitVec 256)).all fun (d, ve) =>
      let s := edited (.movi 1 (BitVec.ofNat 8 d)) (fun g => { g with th := [(0, { ve := ve })] }) routine
      trappable s && issuing s fun g _ tm => g.overtaken.isEmpty && (decide (d < tm.budget g.role) == (d != 64))) = true ∧
    (let s := edited .yield id id fun s => s.setGroup 0 1 { team := 0, num := 1, role := .vector, active := false, th := [(0, {})] }
     tSorted (s.pan 0).core.groups && issuing s fun g _ _ => g.active && ((s.pan 0).core.groups.filter fun e => !e.2.active && e.2.ready).length == 1) = true ∧
    ([0, 1].all fun other =>
      let s := edited .exit (fun g => { g with th := (0, {}) :: if other = 1 then [(1, {})] else [] })
      s.joined.isEmpty && tSorted (s.pan 0).core.groups && issuing s fun g r _ => g.issues.isEmpty && g.ctr == {} && (g.th.all fun u => u.2.park.isNone) &&
        ((g.th.all fun e => (lanesOf r.set).contains e.1) == (other == 0))) = true ∧
    ([0, 5].all fun ahead =>
      let (x, s) := formed 0xDC 0 id fun g => { g with th := [(0, { v := [(8, BitVec.ofNat 32 ahead)] })] }
      executes 0xDC x s && decide (s.clock.ns < 10 ^ 9) && s.mayIssue 0 0 (((s.group 0 0)).getD { team := 9, num := 0, role := .feed }) &&
        issuing s fun g r _ => laneVal g (fun th => srcNat g th 2 x.a) 0 == ahead && (decodeRunWord (r.words.drop r.pos)).1 == some (.twait x)) = true := by
  decide +kernel

/-- `LaunchesAndJoins`: a record inside the allocation and one that is not, EV below 63 and at it, JOIN before its answers, without
children and with, and a group that has parked. -/
theorem test_witness_launches :
    ([(0, 0), (992, 0), (1008, 0), (0, 63)].all fun (off, ev) => [0xD5, 0xD7, 0xDD].all fun opc =>
      let (x, s) := formed opc 0 id fun g => { g with th := [(0, { v := [(8, BitVec.ofNat 32 off)] })], ctr := { ev := ev } }
      executes opc x s && issuing s fun g r tm => lowest g r x 1 x.a == off && decide (tm.size = 1024) && g.ctr.ev == ev) = true ∧
    ([(0, 0), (0, 1), (1, 0)].all fun (ev, n) =>
      let (x, s) := formed 0xD6 0 id fun g => { g with ctr := { ev := ev }, children := n }
      executes 0xD6 x s && issuing s fun g _ _ => g.ctr.ev == ev && g.children == n) = true ∧
    (let s := edited .nop fun g => { g with st := .bound, run := none, children := 1, th := [(0, { st := .parked, park := some .join })] }
     (s.team 0 0).isSome && (s.pan 0).undo.isEmpty && !s.heldByTest 0 0 && match s.group 0 0 with
       | some g => g.run.isNone && g.hold.isNone && g.choice.isNone && decide (g.pwait ≤ (s.pan 0).drc) && g.st == .bound && !(s.pan 0).off &&
         !(s.pan 0).isSealing g.team && !(s.asSlot 0 0).torn && !(s.hadTurn 0 0).isBehind 0 0 && (s.pan 0).core.arrays.isEmpty
       | none => false) = true := by
  decide +kernel

/-- A run of one NOP whose header says class 0 and count 1, decoded by quarter 0 at address 0. -/
def nopRun : DecodedRun := { asid := 0, addr := 0, words := [0xB0000001, 0x000000E0] }

/-- `TrapsAndReturns`: traps with a routine, without one and in it; ERET out of it, to an instruction, to the position past the
last, and to none; and outside it. -/
theorem test_witness_traps :
    ([0, 0x1000].all fun va => [false, true].all fun mode =>
      let (x, s) := formed 0xD9 0 id (fun g => { g with th := [(0, { mode := mode })] }) fun t => { t with trapva := va }
      executes 0xD9 x s && (trappable s == (va != 0 && !mode)) && issuing s fun _ _ tm => decide (tm.part < 8)) = true ∧
    ([0, 1, 9].all fun pos =>
      let (x, s) := formed 0xDE 0 id (fun g => { g with th := [(0, { mode := true, xpos := BitVec.ofNat 32 pos })] }) id fun s =>
        s.modPan 0 fun n => { n with decoded := [(0, [nopRun])] }
      executes 0xDE x s && runOk nopRun.words 64 && ((s.pan 0).decodedRun 0 (asid 0 0) 0 == some nopRun) &&
        decide ((tgetD (s.pan 0).decoded 0 []).length ≤ 16)) = true ∧
    BeginsAt ((nopRun.words.drop 1).take 1) 0 ∧
    (let (x, s) := formed 0xDE 0 id id routine
     executes 0xDE x s && trappable s) = true := by
  refine ⟨by decide +kernel, by decide +kernel, BeginsAt.first _ _, by decide +kernel⟩

/-- `SpecialRegisters`: every register read; those of a thread, of the event queue and SAL_DSTAT written; a read-only one. -/
theorem test_witness_special :
    (([0, 1, 2, 3, 4, 5, 6, 8, 9, 10, 11, 12, 13, 14, 15, 16, 17, 18, 19, 20, 21, 40] : List Nat).all fun fn =>
      let (x, s) := formed 0xDA fn
      executes 0xDA x s) = true ∧
    (([0x18, 0x19, 0x1A, 0x20, 0x27] : List Nat).all fun fn =>
      let x := sample 0xDA fn false
      let s := edited (.srd x) fun g => { g with role := .control }
      executes 0xDA x s) = true ∧
    (([0x0C, 0x0D, 0x0E, 0x28] : List Nat).all fun fn =>
      let (x, s) := formed 0xDB fn
      executes 0xDB x s) = true ∧
    (([0x18, 0x1A] : List Nat).all fun fn =>
      let x := sample 0xDB fn false
      let s := edited (.swr x) fun g => { g with role := .control }
      executes 0xDB x s && (s.pan 0).core.held.isEmpty) = true ∧
    ([false, true].all fun mode =>
      let (x, s) := formed 0xDB 0x10 id (fun g => { g with th := [(0, { mode := mode })] }) routine
      issuing s (fun _ _ _ => true) && (executes 0xDB x s == mode) && (trappable s == !mode)) = true := by
  decide +kernel

/-- `PlacesRegroupsAndHalts`: one pending group, so that it is `NextIn`; a free place; eight places taken, by a group that is not ready, and by ready ones when the pending one has
waited 2,048 cycles; an arrived regroup; HALT. -/
theorem test_witness_places :
    (let wait : Group := { team := 0, num := 1, role := .vector, active := false }
     let tm : Team := { grid := 1, num := 0, part := 0, slot := 0 }
     let base (gs : Tbl Group) (cycles : Nat) : State := { ((State.reset).setTeam 0 0 tm).modCore 0 (fun c => { c with groups := gs }) with clock := { cycles := cycles } }
     let busy (st : GState) : Tbl Group := (List.range 8).map fun k => (k, { team := 0, num := 0, role := .vector, st := st })
     let s1 := base [(9, wait)] 0
     let s2 := base (busy .faultw ++ [(9, wait)]) 0
     let s3 := base (busy .bound ++ [(9, wait)]) 2048
     let next (s : State) : Tbl Group := (s.pan 0).core.groups.filter fun e => quarterOf e.1 == 0 && !e.2.active && e.2.ready
     (next s1 = [(9, wait)] ∧ next s2 = [(9, wait)] ∧ next s3 = [(9, wait)] ∧ tSorted (s3.pan 0).core.groups = true) ∧
     (((s2.pan 0).core.groups.filter fun e => quarterOf e.1 == 0 && e.2.active).length = 8 ∧ (busy .faultw).all (fun e => !e.2.ready) = true ∧
       wait.readySince + 2048 ≤ s3.clock.cycles)) ∧
    (let th : Thread := { st := .parked, park := some (.regroup 5) }
     let s := edited .nop fun g => { g with run := none, th := [(0, th)] }
     (s.team 0 0).isSome = true ∧ s.joined = [] ∧ ((s.pan 0).core.groups.all fun e => e.2.ctr == {} && e.2.run.isNone) = true) ∧
    (let (x, s) := formed 0xDF 0
     executes 0xDF x s && tSorted (s.pan 0).core.groups && decide (s.actor = (0, 128)) && (s.pan 0).core.groups.all fun e => e.2.th.all fun u => decide (u.1 < 32)) = true := by
  decide +kernel

/-! ## Witnesses: the rake -/

/-- Page 0 is known and good at an address (`BookAt`). -/
def book (s : State) (b : RkBind) (va : Nat) : Bool :=
  addressOk s b.part b.asSlot va && tlbFind (s.pan 0).l2tlb (asid b.part b.asSlot) va == some leaf && !isEndpoint (leafPa leaf va) &&
    !s.badLine (leafPa leaf va)

theorem book_at {s : State} {b : RkBind} {va : Nat} (h : book s b va = true) : BookAt s 0 b va (leafPa leaf va) := by
  simp only [book, Bool.and_eq_true, beq_iff_eq, Bool.not_eq_true'] at h
  exact ⟨h.1.1.1, ⟨leaf, h.1.1.2, by decide, by decide, by decide, rfl⟩, h.1.2, h.2⟩

/-- Its line can be read at once: no way holds it, and the partition has none (`BookLine`). -/
def bookLine (s : State) (b : RkBind) (va : Nat) : Bool :=
  book s b va && (wayFind (tgetD (s.bed (homeBed (lineOf (leafPa leaf va)))).sets (setOf (lineOf (leafPa leaf va))) []) b.part
    (lineOf (leafPa leaf va)) false).isNone && s.bypass b.part (lineOf (leafPa leaf va)) (pteRet leaf)

theorem book_line {s : State} {b : RkBind} {va : Nat} (h : bookLine s b va = true) : BookLine s 0 b va (leafPa leaf va) := by
  simp only [bookLine, Bool.and_eq_true] at h
  refine ⟨book_at h.1.1, fun e he => ?_⟩
  have hb := h.1.1
  simp only [book, Bool.and_eq_true, beq_iff_eq] at hb
  rw [hb.1.1.2] at he
  cases he
  exact .inr ⟨Option.isNone_iff_eq_none.mp h.1.2, .inr ⟨rfl, h.2⟩⟩

/-- Nothing makes an access of a unit of pan 0 wait: no bed has anything, no engine is at work on a test (`Unhindered`). -/
def free (s : State) (n : Nat) : Bool :=
  s.wants.isEmpty && ((s.pan 0).pbud == 0xFFFF || decide (n ≤ (s.pan 0).pbal)) && decide (s.outstanding 0 < 256) && s.beds.isEmpty && s.tests.isEmpty

theorem free_unhindered {s : State} {n w : Nat} (h : free s n = true) : Unhindered s 0 n w := by
  simp only [free, Bool.and_eq_true, List.isEmpty_iff, Bool.or_eq_true, beq_iff_eq, decide_eq_true_eq] at h
  obtain ⟨⟨⟨⟨hw, hb⟩, ho⟩, hs⟩, ht⟩ := h
  exact ⟨hw, hb, ho, by simp [hs], fun line => by simp [State.shut, State.testing, State.bed, hs, ht, tgetD, tget]⟩

/-- A binding of one tree and one query: ray table at 0, tree table at 64, its queue at 128, output at 256, save ring at 512. -/
def bound : RkBind :=
  { part := 0, asSlot := 0, prog := [0xA0000000], stepcap := 8, ntree := 1, nq := 1, cap := 1, trees := 64, raytab := 0, out := 256, save := 512,
    lay := 0x01000000 :: List.replicate 16 0 }

/-- A visit of its query. -/
def visit (st : VisitSt) : Visit :=
  { bslot := 0, qid := 0, q := [0, 0, 0, 0x3F800000, 0, 0], box := false, tmin := 0, tmax := 0x7F800000, tree := 0, hs := 0x7F800000, st := st,
    m := [0, 1, 2, 0xFF800000, 0, 0, 0, 0] }

/-- Memory of page 0: the ray-table entry's PEND, COUNT, GEN and STATUS; the tree's node count, QLOG, queue, HEAD and TAIL; the
queue's first entry; HEAD, TAIL and reservation of the save ring. -/
def fields (pend count status nodes head tail qid hd rsv : Nat) : Memory :=
  [(40, 4, pend), (44, 4, count), (52, 1, status), (72, 4, nodes), (80, 8, 128), (88, 4, head), (92, 4, tail), (128, 4, qid), (512, 4, hd),
    (520, 4, rsv)].foldl (fun m e => poke m (0x200000 + e.1) e.2.1 e.2.2) []

/-- A pan 0 with the binding, its visits and claims, and that memory. -/
def raking (m : Memory) (vs : Tbl Visit) (cl : List Claim := []) : State :=
  let s := mapped (edited .nop id id fun s => s.modPan 0 fun n => { n with rake := { binds := [(0, bound)], visits := vs, claims := cl } })
  { s with mem := m, queries := [{ gk := (request .store).gk, issue := 8, lane := 0, addr := 0, pos := 0, team := 0, slot := 0, asid := 0, entry := 0 }], actor := (0, 0) }

/-- `RakeInstructionsQueue`: a block inside the allocation, one misaligned, one beyond it; room, and a full queue. -/
theorem test_witness_rake_forms :
    ((List.range 8).all fun k => [0, 8, 1024].all fun off => [0, 16].all fun n =>
      let c : RkCmd := { gk := (request .store).gk, slot := 0, team := 0, part := 0, asSlot := 0, issue := 1, lanes := [0], addr := 0, pos := 0, opc := 0xB6 }
      let (x, s) := formed (0xB0 + k) 0 id (fun g => { g with th := [(0, { v := [(8, BitVec.ofNat 32 off)] })] }) id fun s =>
        s.modCore 0 fun p => { p with rqueue := List.replicate n c }
      executes (0xB0 + k) x s && issuing s fun g r tm => decide (g.ctr.gt < 63) && decide (tm.size = 1024) &&
        (k ∈ [3, 4, 6, 7] || lowest g r x 1 x.a == off || (x.a == .v 8))) = true := by
  decide +kernel

/-- `RakeMicroSteps`: a visit that can step; two nodes, so that node 0, register 1 and the next child are nodes, and register 2 is
not; tree 0 exists and tree 1 does not; the queue has room, and is full; a hit inside and outside; output with room and full. -/
theorem test_witness_micro :
    ([(0, 0, 1), (1, 0, 2), (0, 1, 2)].all fun (head, count, nodes) =>
      let s := raking (fields 1 count 1 nodes head 0 0 0 0) [(0, visit .ready)]
      free s 8 && [52, 72, 64, 40, 76, 88, 128, 32, 44, 256, 53].all (bookLine s bound) && !(s.pan 0).off &&
      (s.query bound 0).isSome && (mget s.mem (leafPa leaf 52)).toNat != 4) = true ∧
    (let s := { raking (fields 1 0 1 2 0 0 0 0 0) [(0, visit .ready)] with bad := [0x200000] }
     [32, 44, 88].all fun va => addressOk s 0 0 va && tlbFind (s.pan 0).l2tlb (asid 0 0) va == some leaf && s.badLine (leafPa leaf va)) = true ∧
    (∃ s, s = raking (fields 1 0 1 2 0 0 0 0 0) [(0, visit .ready)] ∧ MicroReady s (visit .ready) bound ∧ NoWindows s) := by
  refine ⟨by decide +kernel, by decide +kernel, _, rfl, ⟨by decide +kernel, by decide +kernel, rfl, by decide +kernel, ⟨_, book_at ?_, ?_⟩, by decide, free_unhindered (by decide +kernel)⟩, ?_⟩
  · decide +kernel
  · decide +kernel
  · intro b hb
    have : (raking (fields 1 0 1 2 0 0 0 0 0) [(0, visit .ready)]).beds = [] := by decide +kernel
    rw [this] at hb
    cases hb

/-- A command at the head of the rake's queue. -/
def rkCmd (opc desc : Nat) (args : Tbl (List Nat) := []) : RkCmd :=
  { gk := (request .store).gk, slot := 0, team := 0, part := 0, asSlot := 0, issue := 7, lanes := [0], addr := 0, pos := 0, opc := opc, desc := desc,
    args := args, charged := true }

/-- That command queued, its group waiting with one issue, or with the two of a query. -/
def commanded (m : Memory) (c : RkCmd) (vs : Tbl Visit := []) : State :=
  let i : Issue := { id := 7, ctr := some .gt, lanes := [(0, {})] }
  let two : List Issue := [{ i with ctr := none, dst := .p 1 }, { i with id := 8 }]
  let s := (raking m vs).modCore 0 fun p =>
    { p with rqueue := [c], groups := tmap p.groups fun _ g => { g with issues := if c.opc = 0xB1 ∨ c.opc = 0xB2 then two else [i], ctr := { gt := 1 } } }
  { s with queries := [] }

/-- A descriptor of RKBIND: program at 0x400, layout at 0x480, trees at 64, rays at 0, output at 256, save ring at 512, one tree, one
query, a step cap of 8. -/
def bindDesc : Nat := 0x400 + 0x480 * 2 ^ 64 + 64 * 2 ^ 128 + 256 * 2 ^ 256 + 512 * 2 ^ 320 + 2 ^ 384 + 2 ^ 416 + 8 * 2 ^ 464

/-- Memory with a program of RKYLD and RKDONE, or one that does not end so, and a legal layout or none. -/
def program (words : Nat) (ok : Bool) : Memory :=
  poke (poke (fields 0 0 0 1 0 0 0 0 0) (0x200000 + 0x400) 4 words) (0x200000 + 0x480) 8 (if ok then 0x01000000 + 0xA0000000 * 2 ^ 32 else 0)

/-- The checks of a layout of one field of kind 10, as conditions that compute. -/
def lay1 : List Nat := 0x01000000 :: 0xA0000000 :: List.replicate 15 0

theorem test_lay1_legal : LayoutLegal lay1 := by
  refine ⟨by decide, by decide, by decide, ?_, by decide +kernel, ?_⟩
  · intro i hi
    have : i = 0 := by simpa [lay1, bitsOf] using hi
    subst this
    decide +kernel
  · intro i j hij hj
    have : j = 0 := by simpa [lay1, bitsOf] using hj
    omega

theorem test_program_legal : ProgramLegal [0xA0000000] lay1 ∧ ¬ ProgramLegal [0xB0000000] lay1 := by
  refine ⟨⟨?_, ?_, ⟨_, rfl, by decide⟩⟩, ?_⟩
  · intro w hw
    simp only [List.mem_singleton] at hw
    subst hw
    exact ⟨_, rfl⟩
  · intro w hw
    simp only [List.mem_singleton] at hw
    subst hw
    decide +kernel
  · rintro ⟨-, -, w, hw, h⟩
    cases hw
    revert h
    decide

/-- `RakeTakesCommands`: each command may be taken; the program and layout of a bind are read; a query fits; a saved record's
bytes are reached. -/
theorem test_witness_rake_commands :
    ([0xB0, 0xB1, 0xB2, 0xB3, 0xB4, 0xB6, 0xB7].all fun opc =>
      let args := if opc = 0xB1 then [(0, [0, 0, 0, 0, 0x3F800000, 0, 0, 0, 0x3F800000])] else if opc = 0xB2 then [(0, 0 :: List.replicate 6 0)]
        else if opc = 0xB4 then [(0, [640])] else [(0, [0])]
      let c := rkCmd opc 0 args
      let s := commanded (fields 1 0 0 1 0 0 0 0 0) c
      s.engineMayStart 0 7 0 (rkCmd opc 0 args).gk [0] && free s 18 && c.wait == 0 && c.charged && [0, 52, 640, 727].all (bookLine s bound) && leafPa leaf 0 % 64 == 0 &&
      tget (s.pan 0).rake.binds 0 == some bound && (s.findGroup (rkCmd opc 0).gk).isSome) = true ∧
    ([true, false].all fun ok =>
      let s := (commanded (program 0xA0000000 ok) (rkCmd 0xB0 bindDesc)).modPan 0 fun n => { n with rake := if ok then {} else n.rake }
      (List.range 68).all (fun j => [0x400 + j % 4, 0x480 + j].all (bookLine s bound)) && !cxOf leaf && free s 16 &&
      (List.range 17).map (fun i => ofBytes (((spanBytes s 0x480 68 leaf).drop (4 * i)).take 4)) == (if ok then lay1 else List.replicate 17 0) &&
      bitsOf bindDesc 384 32 == 1) = true ∧
    QueryFits false [0, 0, 0, 0x3F800000, 0, 0, 0, 0x3F800000] ∧ QueryFits true (List.replicate 6 0) ∧ ¬ LayoutLegal (List.replicate 17 0) := by
  refine ⟨by decide +kernel, by decide +kernel, ⟨by decide +kernel, by decide +kernel, by decide +kernel, 3, by decide, by decide, by decide +kernel⟩,
    ⟨by decide +kernel, by simp only [if_true]; decide +kernel⟩, fun h => absurd h.2.1 (by decide)⟩

/-- `RakeEvents`: a visit that enters, one whose node is cached, to be read, or not mapped, one that is saved with room and
without; a queue with one free entry and one filled; a claim that waits and one due; a finish notice. -/
theorem test_witness_rake_events :
    ([(VisitSt.entering, 0, 0), (.reading 0 0 false, 0, 0), (.saving 0 0 0, 0, 0), (.saving 0 0 0, 1, 0), (.saving 0 0 0, 16, 16)].all fun (st, hd, rsv) =>
      let s := raking (fields 1 0 1 1 1 0 0 hd rsv) [(0, visit st)]
      free s 8 && !(s.pan 0).off && [40, 52, 64, 512, 520, 640].all (bookLine s bound) && (s.queries.all fun q => !s.holdsChain q.gk) &&
      tSorted (s.pan 0).rake.visits && (s.pan 0).caughtUp && !(s.pan 0).core.evqFull && (s.query bound 0).isSome) = true ∧
    (let s := raking (fields 1 0 1 1 1 0 0 0 0) [(0, visit (.reading 256 0 false))]
     free s 8 && bookLine s bound 64 && (mnat s.mem (leafPa leaf 64) 8 == 0) && addressOk s 0 0 4096 &&
       (tlbFind (s.pan 0).l2tlb (asid 0 0) 4096).isNone && (s.pan 0).walked.isEmpty && ((s.pan 0).addMiss (asid 0 0) 1 256).isSome) = true ∧
    (((raking (fields 1 0 1 1 1 0 0 0 0) [(0, visit .entering)]).modPan 0 fun n =>
      { n with pw := { n.pw with bal := 65536 } }).affords 0 0 false 1 9 8).isSome = true ∧
    ([0, 0xFFFFFFFF].all fun qid => [0, 256].all fun now =>
      let c : Claim := { bslot := 0, tree := 0, va := 128, since := 0 }
      let s := raking (fields 1 0 1 1 1 0 qid 0 0) [] [c]
      let s := { s with clock := { s.clock with cycles := now } }
      (s.pan 0).core.rqueue.isEmpty && free s 101 && [64, 92, 128, 0].all (bookLine s bound) && mnat s.mem (leafPa leaf 88) 4 != mnat s.mem (leafPa leaf 92) 4 &&
      mnat s.mem (leafPa leaf 128) 4 == qid && leafPa leaf 64 % 32 == 0) = true ∧
    (∃ t, exec (.finishNotice 0) { State.reset with finishes := [{ gk := (request .store).gk, issue := 8, lane := 0, addr := 0, pos := 0, team := 0, slot := 0, asid := 0, entry := 0 }] } = .next t) := by
  refine ⟨by decide +kernel, by decide +kernel, test_full_affords (by decide +kernel), by decide +kernel, _, rfl⟩

/-! ## Witnesses: graphics -/

/-- `GraphicsInstructionsSend`: v8 at 0, misaligned, and beyond the allocation; a full counter. -/
theorem test_witness_graphics_forms :
    ([(0xC0, 0), (0xC1, 0), (0xC1, 1), (0xC2, 0), (0xC3, 0), (0xC4, 0), (0xC5, 0), (0xC6, 0), (0xC7, 0)].all fun (opc, fn) => [0, 8, 1024].all fun off =>
      [0, 63].all fun n =>
        let (x, s) := formed opc fn id fun g => { g with th := [(0, { v := [(8, BitVec.ofNat 32 off)] })], ctr := { gr := n } }
        executes opc x s && issuing s fun g r tm => (g.ctr.gr == n) && (x.a == .none || lowest g r x 1 x.a == off) && decide (tm.size = 1024)) = true := by
  decide +kernel

/-- An enabled stream of partition 0: 32 columns, 64 rows, one strip; its bin area at 0, lists of 64. -/
def strm (chains : Tbl Chain) : Stream :=
  { cfg := 0x8003400400400020, fp := 1000000, lead := 0x0001000000000000, chains := chains, frame0 := 0,
    bins := [(0, { frame := 0, primva := 1024, counts := [1] })] }

/-- A primitive: (0, 0), (32, 0), (0, 64), its attributes at 2048. -/
def prim : List Byte := bytesOf (0x42000000 * 2 ^ 96 + 0x42800000 * 2 ^ 224 + 2048 * 2 ^ 352) 64

/-- A command admitted at pan 0 with a stream 0 of chains; the primitive in its buffer, and a block in scratchpad at 0. -/
def drawing (opc fn a b cls block : Nat) (chains : Tbl Chain) (now : Nat := 0) : State :=
  let i : Issue := { id := 7, ctr := some .gr, dst := .v 16, regs := if opc = 0xC7 then 2 else 1, lanes := [(0, {})], top := 0 }
  let c : GfxCmd := { gk := (request .store).gk, slot := 0, team := 0, part := 0, asSlot := 0, cls := cls, issue := 7, lanes := [0], addr := 0, pos := 0,
                      opc := opc, fn := fn, a := a, b := b, base := 0, size := 1024, admitted := true }
  let s := mapped (edited .nop (fun g => { g with issues := [i], ctr := { gr := 1 } }) id fun s => s.modCore 0 fun p =>
    { p with gfx := [c], scratch := poke [] 0 64 block })
  { s with streams := [(0, strm chains)], mem := mwrite [] (0x200000 + 1024) prim, clock := { s.clock with ns := now } }

/-- A chain of the group's team. -/
def claimed (quads : Option (List Quad) := none) : Chain := { st := .claimed, team := { part := 0, grid := 1, team := 0, num := 0 }, quads := quads }

theorem test_drawing_ready (opc fn a b cls block : Nat) (chains : Tbl Chain) (h : tSorted chains = true)
    (h1 : (drawing opc fn a b cls block chains).engineMayStart 0 7 0 (request .store).gk [0] = true)
    (h2 : ((drawing opc fn a b cls block chains).pan 0).core.evqFull = false) :
    ∃ c g tm, c.opc = opc ∧ GfxReady (drawing opc fn a b cls block chains) 0 0 c g tm (.v 16) := by
  refine ⟨_, _, _, rfl, rfl, ⟨rfl, rfl, rfl⟩, rfl, ?_, h1, h2, ⟨rfl, rfl⟩, ⟨List.nodup_singleton 0, List.cons_ne_nil _ _, .inr (.inl ⟨16, rfl, ?_⟩), _, rfl, rfl, rfl, rfl, rfl, rfl, rfl, rfl, rfl, rfl, rfl, rfl⟩,
    ⟨_, List.mem_singleton.mpr rfl, nofun⟩, rfl, ?_⟩
  · intro y hy _
    have : y ∈ [_] := hy
    rw [List.mem_singleton.mp this]
  · dsimp only
    split <;> decide
  · intro j
    rcases j with _ | j
    · exact h
    · rfl

theorem test_team_chain (opc fn a b cls block n : Nat) (ch : Chain) (hn : ch.st = .claimed ∧ ch.team = (request .store).gk.team_) :
    TeamChain (drawing opc fn a b cls block [(n, ch)]) (request .store).gk 0 n ch := by
  refine ⟨?_, hn, ?_⟩
  · show tget [(n, ch)] n = _
    simp [tget]
  · rintro (_ | j) m z hz
    · have : tget [(n, ch)] m = some z := hz
      simp only [tget] at this
      split at this
      · next hm => exact fun _ _ => ⟨rfl, hm.symm⟩
      · cases this
    · cases hz

theorem test_no_chain (opc fn a b cls block : Nat) : NoTeamChain (drawing opc fn a b cls block []) (request .store).gk := by
  rintro (_ | j) m z hz <;> cases hz

/-- Every graphics command is ready in such states. -/
theorem test_witness_graphics_ready : ∀ opc ∈ [0xC0, 0xC1, 0xC2, 0xC3, 0xC4, 0xC5, 0xC6, 0xC7], ∀ chains ∈ [[], [(0, claimed)], [(1, claimed)]],
    ∃ c g tm, c.opc = opc ∧ GfxReady (drawing opc 0 0 0 3 0 chains) 0 0 c g tm (.v 16) := by
  intro opc ho chains hc
  have h : [0xC0, 0xC1, 0xC2, 0xC3, 0xC4, 0xC5, 0xC6, 0xC7].all (fun opc => [[], [(0, claimed)], [(1, claimed)]].all fun chains =>
      let s := drawing opc 0 0 0 3 0 chains
      tSorted chains && s.engineMayStart 0 7 0 (request .store).gk [0] && !(s.pan 0).core.evqFull) = true := by decide +kernel
  simp only [List.all_eq_true, Bool.and_eq_true, Bool.not_eq_true'] at h
  obtain ⟨⟨h1, h2⟩, h3⟩ := h opc ho chains hc
  exact test_drawing_ready _ _ _ _ _ _ _ h1 h2 h3

/-- One leaf spans a range of page 0. -/
def spans (s : State) (va n : Nat) : Bool :=
  (List.range n).all (fun j => addressOk s 0 0 (va + j) && tlbFind (s.pan 0).l2tlb (asid 0 0) (va + j) == some leaf &&
    !isEndpoint (leafPa leaf (va + j)) && !s.badLine (leafPa leaf (va + j))) && !cxOf leaf &&
    (wayFind (tgetD (s.bed (homeBed (lineOf (leafPa leaf va)))).sets (setOf (lineOf (leafPa leaf va))) []) 0 (lineOf (leafPa leaf va)) false).isNone &&
    s.bypass 0 (lineOf (leafPa leaf va)) (pteRet leaf)

/-- The other conditions of `GraphicsCommandsComplete`: the stream's strips; a claimable chain; a batch of quads and none; a
primitive that is not culled, and meets the strip; a block for RSTQ.bin, with its frame 0 and 2; a block of one quad, no sample
and one; RATE; rows stored and loaded, legal and not; a chain ended. -/
theorem test_witness_graphics :
    (let x := strm []
     x.en && x.part == 0 && x.n == 1 && x.chainIn 1 == x.n && x.bincap == 64 && x.rw == 32 && x.rh == 64 && x.frameOf 0 == 0) = true ∧
    (let s := drawing 0xC0 0 0 0 3 0 [(0, { st := .claimable })]
     !(s.asSlot 0 0).torn && (s.stream 0).chains.all fun e => e.2.st == .claimable) = true ∧
    (let s := drawing 0xC1 0 0 32 3 0 [(0, claimed)]
     free s 3 && spans s ((s.stream 0).binAt 0 0 0) 4 && spans s 1024 64 && spanBytes s 1024 64 leaf == prim && ofBytes (spanBytes s 0 4 leaf) == 0 &&
     !earlyCulled prim 32 64 && primMeets prim 32 0 64) = true ∧
    (let one : Quad := { tile := 0, qx := 0, qy := 0, cov := 1, primid := 0, bidx := 0 }
     let qs : List Quad := [one]
     (qs.all fun e => decide (e.cov < 256)) = true ∧ qs.Pairwise fun a b => a.tile ≤ b.tile ∧ (a.tile = b.tile → a.qy ≤ b.qy)) ∧
    ([0, 2].all fun fr =>
      let s := drawing 0xC1 1 0 0 3 (fr + 1024 * 2 ^ 64 + 2 ^ 128) []
      mnat (s.pan 0).core.scratch 0 4 == fr && mnat (s.pan 0).core.scratch 4 1 == 0 && mnat (s.pan 0).core.scratch 16 4 == 1 &&
      !(s.stream 0).ended 0 && free s 3 && s.bypass 0 0x200000 (pteRet leaf) && (List.range 4).all fun j => !isEndpoint (leafPa leaf j) && !s.badLine (leafPa leaf j)) = true ∧
    ([0, 1].all fun cov =>
      let s := drawing 0xC2 0 0 0 3 (32 + 2 ^ 32 + 2 ^ 48 + 64 * 2 ^ 64 + 16 * 2 ^ 96 + 128 * 2 ^ 128 + cov * 2 ^ 288) [(0, claimed)]
      mnat (s.pan 0).core.scratch 36 1 == cov && free s 5 && spans s 1024 64 && spans s 2048 12 && primField prim 44 8 == 2048) = true ∧
    ([0, 8].all fun pitch =>
      let s := drawing 0xC4 0 0 0 3 (512 + pitch * 2 ^ 32 + 2 ^ 128 + 2 ^ 144) [(0, claimed)]
      mnat (s.pan 0).core.scratch 4 2 == pitch && mnat (s.pan 0).core.scratch 16 2 == 1 && (s.stream 0).slotFree 0 0 0 && claimed.shadow.length == 5) = true ∧
    ([0, 31].all fun o =>
      let s := (drawing 0xC4 0 0 0 3 0 [(0, claimed)]).modPan 0 fun n => { n with spoilt := [o] }
      s.wants.isEmpty && !(s.pan 0).core.evqFull && (s.pan 0).spoilt == [0 + 0 + o]) = true ∧
    (∀ j n z, tget ((drawing 0xC6 0 0 0 3 0 []).stream j).chains n = some z → z.st = .ended → z.team ≠ (request .store).gk.team_) := by
  refine ⟨by decide +kernel, by decide +kernel, by decide +kernel, ⟨by decide, by simp⟩, by decide +kernel, by decide +kernel, by decide +kernel, by decide +kernel, ?_⟩
  rintro (_ | j) m z hz <;> cases hz

/-- `ServesFor`: the render area is written for a chain of the team, and for one killed since the RGST was issued. -/
theorem test_witness_serves :
    (∀ c : GfxCmd, c.gk = (request .store).gk → ServesFor (drawing 0xC4 0 0 0 3 0 [(0, claimed)]) c 0 0 0) ∧
    (let z : Chain := { st := .ended, team := (request .store).gk.team_, killed := some 9 }
     ∀ c : GfxCmd, c.gk = (request .store).gk → c.issue = 7 → ServesFor (drawing 0xC4 0 0 0 3 0 [(0, z)]) c 0 0 0) := by
  refine ⟨fun c hc => .inl ⟨claimed, hc ▸ test_team_chain _ _ _ _ _ _ _ _ ⟨rfl, rfl⟩⟩, fun c hc hi => .inr ⟨rfl, ?_, ⟨_, rfl, rfl, hc ▸ rfl, 9, rfl, by omega⟩, ?_⟩⟩
  · rintro (_ | _ | j) (_ | m) z hz hs <;> cases hz
    cases hs
  · rintro (_ | _ | j) (_ | m) z hz hs <;> cases hz
    exact ⟨rfl, rfl⟩

/-! ## Witnesses: queues, packets, grids and graphs -/

/-- The extent of page 0 belongs to partition 0, and tables in memory map virtual page 0 to it. -/
def tabled (s : State) : State :=
  let s := mapped s
  let m := [(0x210000, 0x211003), (0x211000, 0x212003), (0x212000, 0x213003), (0x213000, 0x214003), (0x214000, leaf)].foldl (fun m e => poke m e.1 8 e.2) s.mem
  ({ s with mem := m, pmOwn := [(extentOf 0x200000, 0)] }).modPart 0 fun x =>
    { x with slots := [(0, { en := true, root := 0x210000 })], poolShare := 1, pans := 2 ^ 192 - 1 }

/-- Queue 0 of partition 0, its ring at 0x200000, changed. -/
def queueing (f : Queue → Queue) : State :=
  { (tabled State.reset).modQueue 0 fun x => f { x with en := true, ring := 0x200000, size := 16 } with actor := (0, 0) }

/-- `QueueBytecodes`: a queue that runs; a word owned and good, one stored before; both truths of each condition. -/
theorem test_witness_bytecodes :
    (let s := queueing fun x => { x with phase := .running, interp := true, staged := [.store 0x200004 9], fresh := 1 }
     let x := s.queue 0
     x.phase == .running && x.interp && !x.waiting && queueWordAt x 0 4 == 0x200004 && queueWordAt x 0 8 == 0x200008 && ownsRange s 0 0x200008 4 &&
     !s.badLine 0x200008 && s.grids.isEmpty && s.launches.isEmpty && decide (s.grids.length + 2 ≤ 2 ^ 32) && mnat s.mem 0x200008 4 == 0 &&
     x.fresh.getLsbD 0 && !x.fresh.getLsbD 1 && decide (0 ≤ s.clock.time)) = true ∧
    (let s := queueing fun x => { x with phase := .running, interp := true, packet := 2 }
     let s := { s with bad := [0x200000], grids := [(gridKey 0 1, { queue := some 0, packet := 1 })] }
     s.badLine 0x200008 && s.grids.any fun e => e.2.queue == some 0 && decide (e.2.packet < (s.queue 0).packet)) = true := by
  decide +kernel

/-- An image of one entry, for packet type 1, that is HALT; or an empty one. -/
def imaged (ok : Bool) : State :=
  let s := queueing fun x => { x with en := false, prog := 0x200100 }
  let words := [0x51500100, 1, 0x01000000, 0xB0000000]
  { s with mem := if ok then mwrite s.mem 0x200100 (words.flatMap fun w => bytesOf w 4) else s.mem }

/-- A queue that applies staged effects. -/
def applying (l : List Staged) : State := queueing fun x => { x with phase := .applying, staged := l }

/-- `QueuesAndPackets`: an image that passes and one that does not; a packet to be read, of each sort; one to start, whole and not;
a queue that waits; each staged effect. -/
theorem test_witness_queues :
    ([true, false].all fun ok => !((imaged ok).queue 0).en && match (imaged ok).loadCheck ((imaged ok).queue 0) with
      | .ok _ => ok
      | .error _ => !ok) = true ∧
    ([0, 0x00410000, 0x00010000, 0x01010000].all fun h =>
      let s := queueing fun x => { x with wptr := 8, ents := [(1, 0)] }
      let s := { s with mem := poke s.mem 0x200000 4 h }
      queueWordAt (s.queue 0) 0 0 == 0x200000 && mnat s.mem 0x200000 4 == h && ownsRange s 0 0x200000 4 && !s.badLine 0x200000 && (s.queue 0).phase == .idle &&
      !(s.queue 0).haltd) = true ∧
    ([4, 0].all fun w =>
      let s := queueing fun x => { x with wptr := w, phase := .header, len := 1, ents := [(0, 0)] }
      (s.queue 0).en && (s.queues.filter fun e => e.2.interp).length == 0 && decide (s.lastServed < 256) &&
      (List.range 255).all fun j => (s.queue (j + 1)).phase == .idle) = true ∧
    (let s := queueing fun x => { x with phase := .running, waiting := true, code := [0x98000000], w := [(0, 7)] }
     (codeAt (s.queue 0).code 0 matches some (.qTimeat _)) && (s.queue 0).waiting) = true ∧
    ([Staged.store 0x200008 1, .signal 0x200008 1, .intr 1 2, .unfresh 1, .node 1 0 []].all fun e =>
      let s := applying [e]
      (s.queue 0).stuck == none && ownsRange s 0 0x200008 4 && !s.frontBusy 0x200008 4 && !s.badLine 0x200008 && s.beds.isEmpty &&
      s.grid 0 1 == none && s.grid 0 0 == none) = true ∧
    (applying [.store 0x200008 1]).frontBusy 0x200008 4 = false ∧
    ({ applying [.store 0x200000 1] with blockFills := [{ pa := 0x200000, part := 0, codec := 1 }] }).frontBusy 0x200000 4 = true ∧
    (let s := applying [.dispatch 1 0 0 1]
     (List.range 24).all (fun j => let pa := queueWordAt (s.queue 0) 0 (4 * j); !s.badLine pa && ownsRange s 0 pa 4) && (s.asSlot 0 0).en &&
     s.pool.isEmpty && (s.part 0).poolShare == 1) = true ∧
    (let n : GNode := { qlog := 0, recs := [(0, [])] }
     let s := applying [.node 1 0 []]
     let s := { s with grids := [(gridKey 0 1, { root := 1, nodes := [(0, n)] })] }
     ∃ y, s.grid 0 1 = some y ∧ s.grid 0 y.root = some y ∧ tget y.nodes 0 = some n ∧ 2 ^ n.qlog ≤ n.recs.length) := by
  refine ⟨by decide +kernel, by decide +kernel, by decide +kernel, by decide +kernel, by decide +kernel, by decide +kernel, by decide +kernel, by decide +kernel,
    _, rfl, rfl, rfl, by decide⟩

/-- A descriptor of one VECTOR group of 64 KiB of budget with 1 KiB of scratchpad, in slot 0. -/
def descr : Descr := { entry := [4096, 4096, 4096, 4096], slot := 0, scrkib := 1, ngrp := [0, 0, 1, 0], bud := [16, 16, 16, 16], cls := 0 }

/-- A group that waits on EV, grid 1 with it, its records, and room in the pool or none. -/
def launching (g : Grid) (f : State → State) (room : Bool := true) : State :=
  let i : Issue := { id := 7, ctr := some .ev, dst := .v 16, lanes := [(0, {})], top := 0 }
  let s := tabled (edited .nop (fun g => { g with issues := [i], ctr := { ev := 1 } }))
  f ({ s with grids := [(gridKey 0 1, g)] }.modPart 0 fun x => { x with poolShare := if room then 1 else 0 })

/-- The group's request may be taken, and its answer finds it so. -/
def takes (s : State) : Bool :=
  s.fabric.isEmpty && s.beds.isEmpty && match s.findGroup (request .store).gk with
    | some (p, k, g, _) => p == 0 && k == 0 && g.issues.all (fun i => i.id == 7 && i.ctr == some .ev && i.dst == .v 16 && i.regs == 1 && i.failed == none) &&
        g.th.any fun e => e.2.st != .exited
    | none => false

def launchReq (teams : Nat) : LaunchReq :=
  { gk := (request .store).gk, pan := 0, slot := 0, asSlot := 0, issue := 7, lanes := [0], desc := 0, param := 0, teams := teams, tag := 0, ok := true, rc := 0 }

/-- `GridsAndGraphs`: a launch with room in the pool, on the list, and with none; a list to move; a word; a record for a node, and
for none; a timer; a team to land, and an entry to make ready; a grid that has ended, alone and in a queue; a completion to post. -/
theorem test_witness_grids :
    ([0, 1].all fun len => [true, false].all fun room => [0, 1].all fun teams =>
      takes (launching { d := { ovflen := len } } (fun s => { s with launches := [launchReq teams] }) room)) = true ∧
    ([true, false].all fun room =>
      let s := launching { ovf := [launchReq 1] } id room
      (s.pool.filter fun e => e.part == 0).length < 16 * (s.part 0).poolShare || !room) = true ∧
    ([none, some 0].all fun q =>
      takes (launching { queue := q } fun s => { s with posts := [{ gk := (request .store).gk, pan := 0, issue := 7, lanes := [0], word := 1, val := 2, rc := 0 }] })) = true ∧
    ([[], [(0, ({ recs := [(0, [])], timer := 1 } : GNode))]].all fun ns =>
      let s := launching { root := 1, nodes := ns } id
      takes s && addressOk s 0 0 0 && (walk s 0 0 0 == .leaf leaf 0) && pteW leaf && pteCodec leaf == 0 && !isEndpoint (leafPa leaf 0) &&
      !s.badLine (leafPa leaf 0)) = true ∧
    ([true, false].all fun ready =>
      let s := launching {} fun s => { s with pool := [{ part := 0, grid := 2, d := descr, ready := ready, left := 1 }] }
      (s.part 0).lastPan == 191 && s.panOpen 0 2 1 && (descr.fits (s.pan 1)).isSome && (s.asSlot 0 0).en && !(s.asSlot 0 0).torn && descr.ok &&
      s.couldLand 0 descr) = true ∧
    ([none, some 0].all fun q =>
      let s := launching { queue := q } fun s => s.modQueue 0 fun x => { x with cmpBase := if q == none then 0 else 0x200000 }
      s.pool.isEmpty && s.recs.isEmpty && s.pans.all fun e => e.2.undo.isEmpty) = true ∧
    (let s := queueing fun x => { x with cmpBase := 0x200000, cmpWait := [(gridKey 0 1, List.replicate 16 0)] }
     !s.badLine 0x200000 && s.beds.isEmpty) = true := by
  decide +kernel

/-- A line is read at its bed at once, and written there (`FrontReads`, `FrontWrites`). -/
def frontLine (s : State) (part pa : Nat) : Bool :=
  (wayFind (tgetD (s.bed (homeBed (lineOf pa))).sets (setOf (lineOf pa)) []) part (lineOf pa) false).isNone && s.bypass part (lineOf pa) 0 &&
    !s.shut (lineOf pa) 0 && s.mergeRoom (lineOf pa) false

theorem front_line {s : State} {part pa : Nat} (h : frontLine s part pa = true) : FrontReads s part (lineOf pa) ∧ FrontWrites s pa := by
  simp only [frontLine, Bool.and_eq_true, Bool.not_eq_true', Option.isNone_iff_eq_none] at h
  exact ⟨⟨.inr ⟨h.1.1.1, .inr ⟨rfl, h.1.1.2⟩⟩, h.1.2⟩, h.2, h.1.2⟩

/-- `FrontReaches` at page 0, a bytecode's line, and a request that the front end takes. -/
theorem test_witness_front :
    (∃ s, s = launching { root := 1 } id ∧ FrontReaches s 0 0 32 leaf) ∧
    FrontReads (queueing id) 0 (lineOf 0x200008) ∧ FrontWrites (queueing id) 0x200008 ∧
    FrontTakes (launching {} id) (request .store).gk 0 7 0 [0] := by
  have hq : frontLine (queueing id) 0 0x200008 = true := by decide +kernel
  refine ⟨⟨_, rfl, by decide +kernel, ⟨0, by decide +kernel⟩, by decide +kernel, fun l hl => ?_, (front_line (part := 0) (by decide +kernel)).2⟩,
    (front_line hq).1, (front_line hq).2, by decide +kernel, by decide +kernel, ?_, ?_⟩
  · have hall : ((launching { root := 1 } id).linesOfWalk none 0 0 32).all (fun l => lineOf l == l && frontLine (launching { root := 1 } id) 0 l) = true := by
      decide +kernel
    have := List.all_eq_true.mp hall l hl
    simp only [Bool.and_eq_true, beq_iff_eq] at this
    exact this.1 ▸ (front_line this.2).1
  · have : (launching {} id).fabric = [] := by decide +kernel
    simp [this]
  · have : (launching {} id).beds = [] := by decide +kernel
    simp [this]

/-! ## Witnesses: streams, energy, translation and ports -/

/-- A stream that may be enabled: 32 columns, 64 rows, one strip, two units of the ring, 1 ms a frame. -/
def idleStream : Stream :=
  { cfg := 0x0003400400400020, fmt := 0x0001600000000000, fp := 1000000, ring := 0x0000000200000000 }

/-- It is enabled from frame 0 on, with chains, at a time. -/
def streaming (chains : Tbl Chain) (now : Nat) (outs : List OutStrip := []) (f : Stream → Stream := id) : State :=
  let s : State := State.reset
  { s with
    streams := [(0, f { idleStream with cfg := 0x8003400400400020, chains := chains, outs := outs, alloc := true, base := 5000000 })],
    clock := { s.clock with ns := now } }

/-- `StreamsAndChains`: a stream that fits; one enabled, with a chain admitted before and after its start, before and after its
deadline; one yet to be considered, with a reserve and without; a team of class 3 that waits for it; strips to send, to a sink of
either sort, and one sent. -/
theorem test_witness_streams :
    StreamFits idleStream ∧
    ([4000000, 5000000].all fun now => [ChainSt.admitted, .claimable, .ended].all fun st =>
      let s := streaming [(0, { st := st })] now
      tSorted s.streams && tSorted (s.stream 0).chains && (s.stream 0).en && decide ((s.stream 0).start 0 ≤ s.clock.nowNs) &&
      (decide ((s.stream 0).deadline 0 ≤ s.clock.nowNs) == decide (now = 5000000 ∨ (s.stream 0).deadline 0 = 4000000))) = true ∧
    (let s := streaming [] 4000000
     decide ((s.stream 0).start 0 - 5000 ≤ s.clock.nowNs) && decide ((s.clock.nowNs : Int) ≤ (s.stream 0).deadline 0) && (s.admissionPlan 0).isNone) = true ∧
    ([0, 1].all fun sink =>
      let s := streaming [] 5000000 [{ num := 0 }] fun x => if sink = 1 then { x with cfg := x.cfg ||| 0x0400000000000000 } else x
      (s.stream 0).sink == sink && (s.stream 0).outs.find? (fun o => !o.sent) == some { num := 0 } && decide (((s.stream 0).scan 0 0 : Int) ≤ s.clock.nowNs)) = true ∧
    ((streaming [] 0 [{ num := 0, sent := true }]).stream 0).outs.any (fun o => o.num == 0 && o.sent) = true := by
  refine ⟨?_, by decide +kernel, by decide +kernel, by decide +kernel, by decide +kernel⟩
  unfold StreamFits
  decide +kernel

/-- A resident team of class 3 that waits in BINPOP for stream 0, in a deadline pan, and a chain due. -/
def admissible : State :=
  let c : GfxCmd := { gk := (request .store).gk, slot := 0, team := 0, part := 0, asSlot := 0, cls := 3, issue := 7, lanes := [0], addr := 0, pos := 0,
                      opc := 0xC0, base := 0, size := 1024, admitted := true }
  let s := (edited .nop id (fun t => { t with cls := 3 }) fun s => s.modCore 0 fun p => { p with gfx := [c] }).modPart 0 fun x => { x with pans := 1, dlPans := 1 }
  { s with streams := (streaming [] 4000000).streams, clock := { s.clock with ns := 4000000 } }

theorem test_witness_admission : admissible.admissionPlan 0 = some ((request .store).gk.team_, 0, [], none) := by decide +kernel

/-- `EnergyAndPreemption`: each command that may be admitted; ticks due and not; a quiet pan; a team to drain, to seal, sealing in
time and late, torn and not, fenced by the watchdog; a context that may return, good and bad; a group swapped out. -/
theorem test_witness_energy :
    ([0, 2000000].all fun ns =>
      let s : State := { State.reset with clock := { State.reset.clock with ns := ns } }
      (decide (s.clock.nanos / 1000000 ≤ (s.part 0).dlrMs) == decide (ns = 0)) && tSorted s.parts && (s.pan 5).quiet && decide ((s.pan 0).pw.cur ≤ 28)) = true ∧
    (∃ s : State, (s.pan 0).off = false ∧ (s.pan 0).core.squeue = [[slice 0 0]] ∧ s = edited .nop id id fun s => s.modCore 0 fun c => { c with squeue := [[slice 0 0]] }) ∧
    (∃ s g, s = arrayState { mxCmd 0xA7 0 with admitted := false } ∧ s.group 0 0 = some g ∧ ({ mxCmd 0xA7 0 with admitted := false } : MxCmd).awaits g = false ∧
      (mxCmd 0xA7 0).blockOk = true ∧ (mxCmd 0xA7 0).headOk g.mx = true) ∧
    ([0, 1000000].all fun ns => [none, some (0, SealCause.host)].all fun x => [none, some 0].all fun d =>
      let s := edited .nop id id fun s => { (s.modPart 0 fun x => { x with pans := 1, wdog := 100 }).modPan 0 fun n =>
        { n with pre := [(0, { sealing := x, drain := d })] } with clock := { s.clock with ns := ns } }
      (s.team 0 0).isSome && ((s.pan 0).preempt 0).sealing == x && bitOf (s.part 0).pans 0 && (s.pan 0).undo.isEmpty && !(s.pan 0).off &&
      (s.joined.isEmpty) && !(s.asSlot 0 0).torn) = true ∧
    ([true, false].all fun bad =>
      let tm : Team := { grid := 1, num := 0, part := 0, slot := 0, size := 0 }
      let g : Group := { team := 0, num := 0, role := .vector, th := [(0, {})] }
      let x : Context := { pan := 0, team := 0, cause := .host, go := true, tm := tm, groups := [(0, g)], bad := bad }
      let s := (tabled State.reset).modPart 0 fun x => { x with en := true }
      let s := { s with contexts := [x] }
      match s.restorable 0 0 with
      | some (y, _, _, xs) => y == x && xs.length == 1 && s.receipts.isEmpty
      | none => false) = true := by
  refine ⟨by decide +kernel, ⟨_, by decide +kernel, by decide +kernel, rfl⟩, ⟨_, _, rfl, rfl, by decide, by decide, by decide +kernel⟩, by decide +kernel, by decide +kernel⟩

/-- A block whose 32 lines are dirty, or clean, on its way out of partition 0 with codec 2; its slot says so, or holds nothing. -/
def ported (hdr : Nat) (f : State → State := id) : State :=
  let s := tabled State.reset
  f { s with mem := poke s.mem 0x200000 16 hdr, blockFills := [{ pa := 0x200000, part := 0, codec := 2 }], blockOuts := [{ pa := 0x200000, part := 0, codec := 2 }] }

/-- A block of zeros that a port holds. -/
def held : Overflow := { kind := 0, port := 8, entry := 0, pa := 0x200000, part := 0, codec := 2, bytes := List.replicate 4096 0 }

/-- `TransformPorts`: a block that a port holds, so that what it reads is known; a fill of it; one that is to be written back; a table
write in range and out; an entry to move, release and retry; a group that waits for a block. -/
theorem test_witness_ports :
    (PortReads (ported 0 fun s => { s with overflow := [held] }) 0 2 0x200000 (.ok held.bytes) ∧ held.bytes.length = 4096 ∧ portFor 0x200000 = (0, 8)) ∧
    BlockSays [] 2 (List.replicate 16 0) (.error 1) ∧ PortReads (ported 0 fun s => { s with mem := [] }) 0 2 0x600000 (.error 1) ∧
    (tSorted (ported 0).pans && (ported 0).beds.isEmpty && (ported 0).pans.all fun e => tSorted e.2.core.groups) = true ∧
    InOwned (ported 0) 0 0x200000 4096 := by
  refine ⟨⟨?_, List.length_replicate, by decide⟩, .inl ⟨rfl, fun h => absurd h.1 (by decide)⟩, ?_, by decide +kernel, ?_⟩
  · have h : (ported 0 fun s => { s with overflow := [held] }).overflow.find? (fun o => o.pa == 0x200000) = some held := rfl
    unfold PortReads
    rw [h]
  · have h : (ported 0 fun s => { s with mem := [] }).overflow = [] := rfl
    simp only [PortReads, h, List.find?_nil]
    refine .inl ⟨rfl, fun h => absurd h.1 (by decide +kernel)⟩
  · refine ⟨.inl (by decide), fun a h1 h2 => ?_⟩
    have ha : a / 2 ^ 32 = 0 := by omega
    rw [if_pos (by omega), ha]
    rfl

/-- Miss 0 of pan 0: virtual page 0 of slot 0, for group slot 0. -/
def missing (stale torn : Bool) (va : Nat := 0) : State :=
  let s := (tabled State.reset).modPan 0 fun n => { n with misses := [{ asid := 0, vpn := va / 4096, waiters := [0], stale := stale }], l2tlb := [] }
  s.modPart 0 fun x => { x with slots := [(0, { en := true, torn := torn, root := 0x210000 })] }

/-- `WalksAndShootdowns`: a walk to be begun again, one of a torn slot, one whose root is no table; the steps of `Walked` for page 0
and page 1; commands, with room and without; one that stands before a pan and one that it has reached; records to post. -/
theorem test_witness_walks :
    ([true, false].all fun st => [true, false].all fun torn =>
      let s := missing st torn
      (s.pan 0).misses[0]? == some { asid := 0, vpn := 0, waiters := [0], stale := st } && (s.asSlot 0 0).torn == torn) = true ∧
    (let s := missing false false
     Walked s 0 0 0 0x214000 (.leaf leaf 0) ∧ Walked s 0 4096 0 0x214000 (.fault 1 0 0)) ∧
    (∃ s : State, s = { missing false false with bad := [0x214000] } ∧ Walked s 0 0 0 0x214000 (.dataError 0x214000)) ∧
    ([[], List.replicate 64 ({ kind := 2, todo := [0] } : XinvCmd)].all fun l =>
      let s := State.reset.modPart 0 fun x => { x with xinvCmds := l }
      decide ((s.part 0).xinvCmds.length < 64) == l.isEmpty && ((s.part 0).xinvCmds.all fun c => c.todo.contains 0)) = true ∧
    (let c : XinvCmd := { kind := 2, reached := [(0, 0)] }
     let s := State.reset.modPart 0 fun x => { x with xinvCmds := [c] }
     s.settledAt 0 c 0 0 = true ∧ c.todo = []) ∧
    (∃ r : RecRing, r = { wait := [List.replicate 32 0] } ∧ r.head - r.tail < 2 ^ r.log ∧ 2 ^ ({ log := 0, head := 1 } : RecRing).log ≤ 1) := by
  refine ⟨by decide +kernel, ⟨?_, ?_⟩, ⟨_, rfl, .corrupt 0 _ _ (by decide) (by decide +kernel)⟩, by decide +kernel, by decide +kernel, ⟨_, rfl, by decide, by decide⟩⟩
  · refine .stops 0 _ 0x214000 leaf _ (by decide) (by decide +kernel) (by decide +kernel) (.inr (.inr (.inr ⟨by decide, by decide, ?_, by decide, rfl⟩)))
    refine ⟨by decide, by decide, fun h => absurd h (by decide), fun _ => ⟨by decide, by decide, .inl ⟨.inl (by decide), fun a h1 h2 => ?_⟩, by decide, by decide, by decide, by decide, by decide⟩⟩
    have h1' : 0x200000 ≤ a := h1
    have h2' : a < 0x200000 + 4096 := h2
    clear h1 h2
    have ha : a / 2 ^ 32 = 0 := by omega
    rw [if_pos (by omega), ha]
    rfl
  · exact .stops 0 _ 0x214008 0 _ (by decide) (by decide +kernel) (by decide +kernel) (.inl ⟨by decide, rfl⟩)

/-- Nothing makes the reads of a walk wait; a stream's drain holds a strip sent; a fill that nothing holds up, with one line asked for;
masks that leave no way to the partition, so that no line is installed. -/
theorem test_witness_nothing_waits :
    (let s := missing false false
     free s 5 && (s.linesOfWalk (some 0) 0 0 0).all fun l => lineOf l == l && frontLine s 0 l) = true ∧
    (let s : State := { State.reset with drains := [{ stream := 0, x := { idleStream with outs := [{ num := 0, sent := true }] } }] }
     match s.drains with
     | [d] => d.stream == 0 && d.x.outs.any (fun o => o.num == 0 && o.sent) && (d.x.chains.all fun c => c.2.team == .nobody)
     | _ => false) = true ∧
    ([0, 1].all fun mask =>
      let f : BlockFill := { pa := 0x200000, part := 0, codec := 2, asks := [(0x200000, 0, 0)] }
      let s := { ported 0 with blockOuts := [], blockFills := [f] }.modPart 0 fun x => { x with salMask := mask }
      s.wants.isEmpty && (s.blockFills.find? fun f => portFor f.pa == (0, 8) && !s.backing f.pa) == some f && f.pa % 4096 == 0 && f.waiters.isEmpty &&
      s.beds.isEmpty && (chooseVictim (s.pinWays (tgetD (s.bed (homeBed 0x200000)).sets (setOf 0x200000) [])) (s.wayMask (homeBed 0x200000) 0)).isSome == (mask == 1)) = true ∧
    (let s := { ported 0 with overflow := [held] }.modPart 0 fun x => { x with ovfPa := 0x200000 }
     s.wants.isEmpty && s.beds.isEmpty && s.tests.isEmpty && (s.part 0).ovfPa % 4096 == 0) = true ∧
    (let s := { State.reset with parts := [(0, { xfr := { base := 0x200000, wait := [List.replicate 32 0] } })] }
     frontLine s 0 0x200000 && s.wants.isEmpty && !s.badLine 0x200000) = true := by
  refine ⟨?_, ?_, ?_, ?_, ?_⟩ <;> decide +kernel

/-! ## Witnesses: recovery, errors, partitions, time and transport -/

/-- `DurabilityAndRecovery`: a pan with a journal record to make durable and one without; one that is off, its test to come and under
way; a context recovered whose partition has its key, and one whose partition has not. -/
theorem test_witness_recovery :
    ([([] : List PanCore), [{}]].all fun undo => [true, false].all fun off => [[], [Test.pan 0]].all fun tests =>
      let s := { State.reset.modPan 0 fun n => { n with undo := undo, off := off } with tests := tests }
      ((s.pan 0).undo == undo) && ((s.pan 0).off == off) && !s.testing .shadow 0 (fun _ => true) && tSorted s.pans && s.receipts.isEmpty &&
      s.eventReceipts.isEmpty && (s.pan 0).core.held.isEmpty) = true ∧
    ([none, some 5].all fun key =>
      let tm : Team := { grid := 1, num := 0, part := 0, slot := 0, size := 0 }
      let x : Context := { pan := 0, team := 0, cause := .host, go := true, tm := tm, key := some 5 }
      let s := { State.reset.modPart 0 fun y => { y with en := true, key := key } with rcv := [(0, x)] }
      tget s.rcv (8 * 0 + 0) == some x && (s.part 0).en && (((s.part 0).key == x.key) == (key == some 5))) = true ∧
    (∃ img : FwImage, img = { sigOk := true, digestOk := true, version := Config.minVersion, keyIdx := 0, digest := 0 } ∧ Config.minVersion ≤ img.version ∧
      (State.reset).boot.running = false) := by
  refine ⟨by decide +kernel, by decide +kernel, _, rfl, Nat.le_refl _, by decide +kernel⟩

/-- `ErrorsTestsAndFences`: a corrected error after a test that passed, and one without; a test under way; the log with a record, with
room and with none; a link that is up. -/
theorem test_witness_errors :
    (let r : ErrReport := { unit := .matrix, inst := 0, sub := 1, corrected := true, part := 0, pa := 0 }
     let s := { State.reset with passed := [(errUnit r, 0)], tests := [.unit r] }
     tget s.passed (errUnit r) == some 0 && s.clock.nowNs == 0 && s.tests == [.unit r] && State.reset.tests.isEmpty) = true ∧
    ([0, 16].all fun h =>
      let s := { State.reset with err := { base := 0x200000, head := h, wait := [List.replicate 32 0] } }
      (decide (s.err.head - s.err.tail < 2 ^ s.err.log) == decide (h = 0)) && (s.err.base + 32 * (h % 2 ^ s.err.log)) % 32 == 0 && s.bad.isEmpty &&
      s.beds.isEmpty) = true ∧
    ((State.reset.modLink 0 fun l => { l with up := true }).link 0).up = true := by
  decide +kernel

/-- `PartitionsAndRegisters`: a partition that is off, on, sealed, and busy with a pan to leave, an extent to move, or nothing; a
challenge; the manager's and a partition's function. -/
theorem test_witness_partitions :
    ([(false, false, false), (false, false, true), (true, false, false), (true, true, false), (true, false, true)].all fun (en, sl, busy) =>
      let s := State.reset.modPart 0 fun x => { x with en := en, sealed_ := sl, busy := busy }
      (s.part 0).en == en && (s.part 0).sealed_ == sl && (s.part 0).busy == busy && (s.part 0).taking.isEmpty && (s.partIdle 0 == true)) = true ∧
    (let s := State.reset.modPart 0 fun x => { x with en := true, busy := true, pans := 1, leaving := 1 }
     (s.part 0).taking = [] ∧ ∀ k, (s.part 0).leaving.testBit k = true → (s.part 0).pans.testBit k = true ∧ k < 192) ∧
    (let s := State.reset.modPart 0 fun x => { x with en := true, busy := true, taking := [(3, none)] }
     (s.part 0).taking == [(3, none)] && (s.part 0).leaving == 0 && (s.part 0).xinvCmds.isEmpty && s.beds.isEmpty && s.blockOuts.isEmpty) = true ∧
    (let s := { State.reset.modPart 0 fun x => { x with en := true } with boot := { State.reset.boot with running := true }, pmOwn := [(3, 0)] }
     s.boot.running && (s.part 0).en && s.mayWrite 8 (.pkgPlim) && s.mayWrite 0 (.xinvVa 0) && !s.mayWrite 0 (.pkgPlim) && tget s.pmOwn 3 == some 0 &&
     (s.parts.map fun e => e.2.share).sum == 0) = true := by
  refine ⟨by decide +kernel, ⟨rfl, fun k hk => ?_⟩, by decide +kernel, by decide +kernel⟩
  have : k = 0 := by
    by_contra h
    have : Nat.testBit 1 k = true := hk
    rw [Nat.testBit_one_eq_true_iff_self_eq_zero] at this
    exact h this
  subst this
  decide

/-- `ServoKeepsStationTime`: the servo off, without a grandmaster, and locked in one step and in two, with a Sync and a request. -/
theorem test_witness_servo :
    ([PtpSt.init, .freerun, .uncal, .locked].all fun st => [true, false].all fun two =>
      let y : Ptp := { en := st != .init, two := two, st := st, sync := some (1, 5), asked := some 3 }
      let s := { State.reset with ptp := y }
      s.ptp == y && s.streams.isEmpty && ((s.ptp.en && (s.ptp.st == .uncal || s.ptp.st == .locked)) == (st == .uncal || st == .locked))) = true ∧
    Corrects State.reset { State.reset with clock := { State.reset.clock with owed := 5 * 2 ^ 16 } } (-5) := by
  refine ⟨by decide +kernel, fun h => absurd h (by decide), fun _ => by decide +kernel⟩

/-- A packet of connection 0 of partition 0 that writes four bytes of its memory. -/
def packet (seq : Nat) (len : Nat := 4) : SltPacket :=
  { vf := 0, conn := 0, seq := seq, ackseq := 0, addr := 0x200010, len := len, data := [1, 2, 3, 4], ok := true }

/-- The device runs its firmware; partition 0 is on. -/
def running : State :=
  let s := (tabled State.reset).modPart 0 fun x => { x with en := true }
  { s with boot := { s.boot with running := true } }

/-- `TransportAndLinks`: a packet in turn, of a bad form, and before and after its turn; sent packets to resend, once more and once
too often; an endpoint store that may go on; a packet to leave a port that is up; a link down, up, with a request of a peer that may
ask and of one that may not. -/
theorem test_witness_transport :
    (running.boot.running && (running.part 0).en && ((running.conn 0 0).rx == 0) && !running.frontBusy 0x200010 4 &&
      running.beds.isEmpty && (packet 0).ok && (packet 0).data.length == 4) = true ∧
    InOwned running 0 (packet 0).addr (packet 0).len ∧
    ([1, 16].all fun n =>
      let y : SltSent := { seq := 0, x := .notice (.intr 0 0), last := 0, sends := n }
      let s := { running.modConn 0 0 fun c => { c with sent := [y] } with clock := { running.clock with ns := 50000 } }
      (s.conn 0 0).sent == [y] && decide (y.last + 50000 ≤ s.clock.nowNs)) = true ∧
    (let q := { request .store with line := 2 ^ 41 }
     let s := { running with fabric := [q] }
     s.request 0 == some q && isEndpoint q.line && q.line % 128 == 0 && s.maySend q) = true ∧
    (let s := running.modFlow 0 0 fun f => { f with closed := [[0]] }
     s.portUp 0 && (s.flow 0 0).closed == [[0]]) = true ∧
    ([0, 9].all fun id =>
      let r : RemoteReq := { slot := 0, va := 0, op := .write [1], scope := 0, acq := false, rel := false }
      let s := (running.modLink 0 fun l => { l with up := true, peer := 9, reqs := [(1, r)] }).modPart 0 fun x => { x with peers := [(0, id)] }
      let s := { s with sideOwn := [(0, 0)] }
      (s.link 0).up && (s.link 0).reqs[0]? == some (1, r) && tget s.sideOwn 0 == some 0 && (s.part 0).peers.any (fun e => e.2 == 9) == (id == 9) &&
      (s.asSlot 0 0).en && !(s.asSlot 0 0).torn && pteW leaf && !pteDl leaf && pteCodec leaf == 0 && !isEndpoint (leafPa leaf 0)) = true ∧
    ((running.link 0).up = false ∧ running.fenSide.testBit 0 = false ∧ running.testing .sidePort 0 (fun _ => true) = false) := by
  refine ⟨by decide +kernel, ⟨.inl (by decide), fun a h1 h2 => ?_⟩, by decide +kernel, by decide +kernel, by decide +kernel, by decide +kernel, by decide +kernel⟩
  have h1' : 0x200010 ≤ a := h1
  have h2' : a < 0x200010 + 4 := h2
  clear h1 h2
  have ha : a / 2 ^ 32 = 0 := by omega
  rw [if_pos (by omega), ha]
  rfl

/-! ## Witnesses: steps, turns and encodings -/

/-- `StepRunsDecodedInstruction`: a group that may issue before an instruction, and before words that are none. -/
theorem test_witness_step :
    ([((encode (.add (sample 0x00 8 false))).zipIdx.map fun e => e.1.toNat * 2 ^ (32 * e.2)).sum, 0x1D].all fun w =>
      let s := State.reset.placeIsa w
      s.agenda == [.issue 0 0] && match s.group 0 0 with
        | some g => s.mayIssue 0 0 g && g.run.isSome
        | none => false) = true := by
  decide +kernel

/-- `TurnsAndRunBegins`: turns of an event, of time, of a micro-word, of the rake and of a bytecode; a group whose choice is made, its
run decoded, its counters low and high. -/
theorem test_witness_turns :
    ([Turn.event .ptpDelayReq, .advance 1 1, .rake 0].all fun e => ({ State.reset with agenda := [e] }).agenda == [e]) = true ∧
    (let s := State.reset.placeMicro 0xD0000000
     s.agenda == [.micro 0 0] && (tget (s.pan 0).rake.visits 0).isSome && (decodeMicro 0xD0000000).isSome && !s.testing .rake 0 fun _ => true) = true ∧
    (let s := State.reset.placeQueue 0xB0000000
     s.agenda == [.queue 0] && (codeAt (s.queue 0).code (s.queue 0).pc).isSome) = true ∧
    ([0, 9].all fun n =>
      let ch : Choice := { addr := 0, entry := none, mode := false, set := 1 }
      let d : DecodedRun := { asid := 0, addr := 0, words := [0xB0001001, 0xE3] }
      let s := mapped (edited .nop (fun g => { g with run := none, st := .bound, choice := some ch, active := true, ctr := { ld := n } }) id fun s =>
        s.modPan 0 fun p => { p with decoded := [(0, [d])] })
      match s.group 0 0, s.team 0 0 with
      | some g, some tm => g.active && g.run.isNone && g.st == .bound && g.hold.isNone && !(s.pan 0).off && !s.heldByTest 0 0 && !(s.pan 0).isSealing 0 &&
          decide (g.pwait ≤ (s.pan 0).drc) && !(s.asSlot 0 0).torn && ((s.pan 0).decodedRun 0 (asid 0 0) 0 == some d) && runOk d.words (tm.budget g.role) &&
          (g.ctr.atMost 1 0 == decide (n = 0))
      | _, _ => false) = true := by
  refine ⟨by decide +kernel, by decide +kernel, by decide +kernel, by decide +kernel⟩

/-- `DecodingUndoesEncoding`: a well-formed instruction of each form, and words of the short and the one-word forms. -/
theorem test_witness_encodings :
    Instr.wf (.add (sample 0x00 8 false)) = true ∧ (Instr.add (sample 0x00 8 false)).stdForm = some (0x00, sample 0x00 8 false) ∧
    (shortWord .nop).isSome = true ∧ (decodeShort 0x000000E0).isSome = true ∧ (microWord .rkYld).isSome = true ∧ (decodeMicro 0xD0000000).isSome = true ∧
    (bytecodeWord .qHalt).isSome = true ∧ Instr.wf .qHalt = true ∧ (decodeQueue 0xB0000000).isSome = true := by
  decide +kernel

/-- The invariants of `StepKeepsMemoryForm` and `StepKeepsTables` hold of a state with memory, pans and teams. -/
theorem test_witness_invariants : (tabled (before .nop)).mem.wf = true ∧ tSorted (tabled (before .nop)).pans = true ∧ (tabled (before .nop)).mem ≠ [] := by
  decide +kernel

/-- Nothing makes the front end's reads and writes wait where the device runs its firmware: a packet's line, the error log's record, and
the walk of a peer's request; and a partition of another identifier is asked nothing of a line that is shut. -/
theorem test_witness_unhindered_front :
    (frontLine running 0 (packet 0).addr && frontLine running 0 0x200000 && running.wants.isEmpty && running.tests.isEmpty && running.beds.isEmpty &&
      (running.linesOfWalk none 0 0 0).all fun l => lineOf l == l && frontLine running 0 l) = true ∧
    (let r : ErrReport := { unit := .salWay, inst := homeBed 0x200000, sub := 1, corrected := false, part := 0, pa := 0 }
     let s := { running with tests := [.unit r] }
     s.shut 0x200000 0) = true := by
  decide +kernel

end Sys2Proof.Tests
end

section
/-! The integer instructions of spec chapter 9 (R194, R195, R200, R201, R203 to R206): what an issue that executes leaves in its
destination, reduced to what the model computes from its sources, and that value as a bit vector. -/

namespace Sys2Proof.Machine

/-! ## Sources and destinations -/

theorem regsNat_lt (f : Nat → Word) (n k : Nat) : regsNat f n k < 2 ^ (32 * k) := by
  induction k generalizing n with
  | zero => simp [regsNat]
  | succ k ih =>
    have hlow := (f n).isLt
    have hhigh := ih (n + 1)
    simp only [regsNat]
    rw [Nat.mul_succ, Nat.add_comm (32 * k), pow_add]
    omega

/-- A source read as `k` registers fits them. -/
theorem srcNat_lt (g : Group) (t : Thread) {k : Nat} (hk : 0 < k) (x : Src) : srcNat g t k x < 2 ^ (32 * k) := by
  cases x with
  | none => exact Nat.two_pow_pos _
  | v n => exact regsNat_lt ..
  | g n => exact regsNat_lt ..
  | t n => exact regsNat_lt ..
  | imm i => exact BitVec.isLt _
  | lit w => exact BitVec.isLt _
  | pred neg code => exact lt_of_le_of_lt (Bool.toNat_le _) (Nat.one_lt_two_pow (by omega))

theorem widRegs_pos (wid : Nat) : 0 < widRegs wid := by
  unfold widRegs
  split <;> decide

theorem elemW_le (wid : Nat) : elemW wid ≤ 32 * widRegs wid := by
  unfold elemW widRegs
  split_ifs <;> omega

theorem elemW_of_unpacked {wid : Nat} (h : wid < 2) : elemW wid = 32 * widRegs wid := by
  obtain rfl | rfl : wid = 0 ∨ wid = 1 := by omega
  · rfl
  · rfl

/-- The integer rows that write a register or a pair: all but ICMP and PLOGT, which write a predicate, and V2P (R191). -/
def writesRegister (opc : Nat) : Bool := decide (opc < 0x40) && !([0x11, 0x35, 0x37].contains opc)

/-- Every listed form of these rows has a register or a pair in its D slot. -/
theorem intSig_dst {opc fn : Nat} {sg : Sig} (h : intSig opc fn = some sg) (hopc : writesRegister opc = true) :
    sg.d = .val ∨ sg.d = .pair := by
  have hwid (wid : Nat) : dvalW wid = .val ∨ dvalW wid = .pair := by
    unfold dvalW
    split <;> simp
  -- each row guards one set of slots, and the rows left out contradict `hopc`
  unfold intSig at h
  split at h <;> simp [writesRegister] at hopc h <;> (obtain ⟨_, rfl⟩ := h) <;> simp [hwid]

theorem cut_register {kd : DKind} {d : Dst} (h : dstOk kd d = true) (hk : kd = .val ∨ kd = .pair) (k v : Nat) :
    cut d k v = v % 2 ^ (32 * k) := by
  rcases hk with rfl | rfl <;> cases d <;> simp [dstOk] at h <;> rfl

/-! ## From a value per lane to what stands in the destination -/

/-- An instruction that computes one value per thread and writes registers leaves that value, cut to their width; of its FN only
the values that its row lists need be looked at, since R39 refuses the others. -/
theorem yields_of_perLane {opc : Nat} {i : Instr} {x : Std} {k : Nat} {f : Group → Thread → Nat} {P : Group → Thread → Nat → Prop}
    (hi : ∀ s, exec i s = execPerLane opc x k s f) (hopc : writesRegister opc = true)
    (hP : ∀ sg, intSig opc x.fn.toNat = some sg → ∀ g t, P g t (f g t % 2 ^ (32 * k))) : Yields opc i x k P := by
  intro s g r tm h
  obtain ⟨t, hexec, hval⟩ := execPerLane_gives hi s g r tm h
  obtain ⟨hok, sg, hsig⟩ := executes_ok h
  have hrow : opc < 0x40 := by
    simp only [writesRegister, Bool.and_eq_true, decide_eq_true_eq] at hopc
    exact hopc.1
  have hint : intSig opc x.fn.toNat = some sg := by simpa [Std.sig, sigOf, hrow] using hsig
  have hdst : dstOk sg.d x.d = true := by
    simp only [Std.ok, hsig, Bool.and_eq_true] at hok
    tauto
  refine ⟨t, hexec, fun l th hl hk => ⟨_, hval l th hl hk, ?_⟩⟩
  rw [cut_register hdst (intSig_dst hint hopc)]
  exact hP sg hint g th

theorem element_zero (w v : Nat) : element w 0 v = BitVec.ofNat w v := by simp [element]

theorem element_zero_mod (wid v : Nat) :
    element (elemW wid) 0 (v % 2 ^ (32 * widRegs wid)) = BitVec.ofNat (elemW wid) v := by
  rw [element_mod (by simpa using elemW_le wid), element_zero]

theorem element_zero_getLsbD {w j : Nat} (v : Nat) (hj : j < w) : (element w 0 v).getLsbD j = v.testBit j := by
  rw [element_zero, BitVec.getLsbD_ofNat, decide_eq_true hj, Bool.true_and]

/-- A value built of elements that fill its `k` registers is read back element by element. -/
theorem element_build_mod {w n k e : Nat} (hw : w * n = 32 * k) (f : Nat → Nat) (he : e < n) :
    element w e (build w n f % 2 ^ (32 * k)) = BitVec.ofNat w (f e) := by
  rw [← hw, Nat.mod_eq_of_lt (build_lt ..), element_build f he]

theorem perElement_of_execElem {opc : Nat} {i : Instr} {x : Std} {f : Nat → Nat → Nat → Nat → Nat}
    {P : {w : Nat} → BitVec w → BitVec w → BitVec w → BitVec w → Prop}
    (hi : ∀ s, exec i s = execElem opc x s f) (hopc : writesRegister opc = true)
    (hP : ∀ {w : Nat} (a b c : BitVec w), P a b c (BitVec.ofNat w (f w a.toNat b.toNat c.toNat))) : PerElement opc i x P := by
  simp only [execElem] at hi
  refine yields_of_perLane hi hopc fun _ _ g t e he => ?_
  rw [element_build_mod (elemW_mul_elemN (widOf_lt x)) _ he]
  simpa only [element_toNat] using hP (element _ e (intVal _ g t x.a)) (element _ e (intVal _ g t x.b)) (element _ e (intVal _ g t x.c))

theorem shifts_of_execShift {opc : Nat} {i : Instr} {x : Std} {f : Nat → Nat → Nat → Nat}
    {F : {w : Nat} → BitVec w → Nat → BitVec w} (hi : ∀ s, exec i s = execShift opc x s f) (hopc : writesRegister opc = true)
    (hF : ∀ {w : Nat} (a : BitVec w) (n : Nat), BitVec.ofNat w (f w a.toNat n) = F a n) : Shifts opc i x F := by
  simp only [execShift] at hi
  refine yields_of_perLane hi hopc fun _ _ g t e he => ?_
  rw [element_build_mod (elemW_mul_elemN (widOf_lt x)) _ he]
  refine Eq.trans ?_ (hF _ _)
  rw [element_toNat]
  unfold shiftAmount
  split
  · rw [element_toNat]
  · rfl

/-! ## Integers and their patterns -/

theorem val_toNat {w : Nat} (a : BitVec w) (s : Nat) : val a.toNat w s = ival s a := by
  rw [val_eq, BitVec.ofNat_toNat, BitVec.setWidth_eq]

theorem ival_eq_zero_iff {w : Nat} (s : Nat) (a : BitVec w) : ival s a = 0 ↔ a = 0 := by
  unfold ival
  split
  · rw [← BitVec.toInt_inj]; simp
  · rw [← BitVec.toNat_inj]; simp

theorem ival_bounds {w : Nat} (s : Nat) (a : BitVec w) : -2 ^ w ≤ ival s a ∧ ival s a < 2 ^ w := by
  have hpos : (0 : Int) < 2 ^ w := by positivity
  have hn : (a.toNat : Int) < 2 ^ w := by exact_mod_cast a.isLt
  unfold ival
  split
  · rw [BitVec.toInt_eq_toNat_cond]
    split <;> push_cast <;> omega
  · omega

theorem slt_zero_iff {w : Nat} (a : BitVec w) : a.slt 0 = true ↔ ival 1 a < 0 := by
  simp [BitVec.slt, ival]

theorem ofNat_allOnes (w : Nat) : BitVec.ofNat w (2 ^ w - 1) = BitVec.allOnes w := by
  apply BitVec.eq_of_toNat_eq
  simp

theorem ofNat_intMin (w : Nat) : BitVec.ofNat w (2 ^ (w - 1)) = BitVec.intMin w := by
  apply BitVec.eq_of_toNat_eq
  rw [BitVec.toNat_intMin, BitVec.toNat_ofNat]

theorem ofNat_intMax (w : Nat) : BitVec.ofNat w (2 ^ (w - 1) - 1) = BitVec.intMax w := by
  have hle := Nat.pow_le_pow_right (n := 2) (by decide) (Nat.sub_le w 1)
  have hpos := Nat.two_pow_pos (w - 1)
  apply BitVec.eq_of_toNat_eq
  rw [BitVec.toNat_intMax, BitVec.toNat_ofNat, Nat.mod_eq_of_lt (by omega)]

/-- A floor quotient by a power of two that reaches past its dividend is that dividend's sign. -/
theorem div_two_pow_of_le {x : Int} {w n : Nat} (hlo : -2 ^ w ≤ x) (hhi : x < 2 ^ w) (h : w ≤ n) :
    x / 2 ^ n = if x < 0 then -1 else 0 := by
  have hpow : (2 : Int) ^ w ≤ 2 ^ n := pow_le_pow_right₀ (by decide) h
  split
  · exact (Int.ediv_eq_iff_of_pos (by positivity)).2 (by omega)
  · exact Int.ediv_eq_zero_of_lt (by omega) (by omega)

/-! ## Carries, quotients and remainders (R194, R195) -/

/-- The pair of ADDC: the low word of the sum, and its carry. -/
theorem word_carry {a b : Nat} (ha : a < 2 ^ 32) (hb : b < 2 ^ 32) (c : Nat) :
    (element 32 0 ((a + b + c % 2) % 2 ^ 64)).toNat = (a + b + c % 2) % 2 ^ 32 ∧
      (element 32 1 ((a + b + c % 2) % 2 ^ 64)).toNat = (a + b + c % 2) / 2 ^ 32 := by
  simp only [element_toNat, elem, Nat.shiftRight_eq_div_pow]
  omega

/-- The pair of SUBB: the pattern of the difference, and its borrow. -/
theorem word_borrow (n : Int) :
    element 32 0 ((wrap n 32 + if n < 0 then 2 ^ 32 else 0) % 2 ^ 64) = BitVec.ofInt 32 n ∧
      (element 32 1 ((wrap n 32 + if n < 0 then 2 ^ 32 else 0) % 2 ^ 64)).toNat = if n < 0 then 1 else 0 := by
  have hw := wrap_lt n 32
  constructor
  · rw [← ofNat_wrap]
    apply BitVec.eq_of_toNat_eq
    simp only [element_toNat, elem, BitVec.toNat_ofNat, Nat.shiftRight_eq_div_pow]
    split <;> omega
  · simp only [element_toNat, elem, Nat.shiftRight_eq_div_pow]
    split <;> omega

theorem val_zero (w n : Nat) : val 0 w n = 0 := by
  simpa using (val_toNat (0 : BitVec w) n).trans ((ival_eq_zero_iff n 0).2 rfl)

theorem ofNat_divVal_zero {w : Nat} (n sat : Nat) (a : BitVec w) :
    BitVec.ofNat w (divVal w n sat a.toNat 0) =
      if n = 0 then BitVec.allOnes w else if ival n a < 0 then BitVec.intMin w else BitVec.intMax w := by
  simp only [divVal, val_zero, if_true, val_toNat]
  split_ifs
  · exact ofNat_allOnes w
  · exact ofNat_intMin w
  · exact ofNat_intMax w

theorem ofNat_divVal {w : Nat} (n sat : Nat) (a : BitVec w) {b : BitVec w} (hb : b ≠ 0) :
    BitVec.ofNat w (divVal w n sat a.toNat b.toNat) = resBits w n sat (Int.tdiv (ival n a) (ival n b)) := by
  simp only [divVal, val_toNat, if_neg (mt (ival_eq_zero_iff n b).1 hb), ofNat_res]

theorem ofNat_remVal_zero {w : Nat} (n : Nat) (a : BitVec w) : BitVec.ofNat w (remVal w n a.toNat 0) = a := by
  simp [remVal, val_zero]

theorem ofNat_remVal {w : Nat} (n : Nat) (a : BitVec w) {b : BitVec w} (hb : b ≠ 0) :
    BitVec.ofNat w (remVal w n a.toNat b.toNat) = BitVec.ofInt w (Int.tmod (ival n a) (ival n b)) := by
  simp only [remVal, val_toNat, if_neg (mt (ival_eq_zero_iff n b).1 hb), ofNat_wrap, Int.tmod_def]

/-- Settles O2: each value of the model is the pattern that R194 and R195 name, with the zero divisors as a case of their own. -/
theorem carryProductQuotient : Obligations.CarryProductQuotient := by
  intro x
  refine ⟨?_, ?_, ?_, ?_, ?_⟩
  · exact yields_of_perLane (exec_addc x) (by decide) fun _ _ g t =>
      word_carry (srcNat_lt g t Nat.one_pos x.a) (srcNat_lt g t Nat.one_pos x.b) _
  · exact yields_of_perLane (exec_subb x) (by decide) fun _ _ _ _ => word_borrow _
  · refine yields_of_perLane (exec_madw x) (by decide) fun _ _ g t => ?_
    rw [element_mod (by decide)]
    simp only [element_zero, ofNat_res, val_eq]
  · refine perElement_of_execElem (exec_div x) (by decide) fun {w} a b _ => ⟨?_, fun hb => ofNat_divVal _ _ a hb⟩
    rintro rfl
    have hzero := ofNat_divVal_zero (sgnOf x) (satOf x) a
    refine ⟨fun hs => by simpa [hs] using hzero, fun hs => ?_⟩
    simp only [slt_zero_iff]
    simpa [hs] using hzero
  · refine perElement_of_execElem (exec_rem x) (by decide) fun {w} a b _ => ⟨?_, fun hb => ofNat_remVal _ a hb⟩
    rintro rfl
    exact ofNat_remVal_zero _ a

/-! ## Shifts, rotations and funnels (R203, R204) -/

theorem ofNat_mul_two_pow (w a n : Nat) : BitVec.ofNat w (a * 2 ^ n % 2 ^ w) = BitVec.ofNat w a <<< n := by
  apply BitVec.eq_of_toNat_eq
  simp [Nat.shiftLeft_eq]

theorem ofNat_div_two_pow {w : Nat} (a : BitVec w) (n : Nat) : BitVec.ofNat w (a.toNat / 2 ^ n) = a >>> n := by
  apply BitVec.eq_of_toNat_eq
  rw [BitVec.toNat_ofNat, BitVec.toNat_ushiftRight, Nat.shiftRight_eq_div_pow,
    Nat.mod_eq_of_lt (lt_of_le_of_lt (Nat.div_le_self ..) a.isLt)]

/-- The model's shift to the left, which tells an amount of `w` or more apart. -/
theorem ofNat_shl (w a n : Nat) : BitVec.ofNat w (if w ≤ n then 0 else a * 2 ^ n % 2 ^ w) = BitVec.ofNat w a <<< n := by
  split
  · rename_i h
    rw [BitVec.shiftLeft_eq_zero h]
  · exact ofNat_mul_two_pow w a n

theorem ofNat_shr {w : Nat} (a : BitVec w) (n : Nat) :
    BitVec.ofNat w (if w ≤ n then 0 else a.toNat / 2 ^ n) = a >>> n := by
  split
  · rename_i h
    rw [BitVec.ushiftRight_eq_zero h]
  · exact ofNat_div_two_pow a n

theorem ofNat_sar {w : Nat} (a : BitVec w) (n : Nat) :
    BitVec.ofNat w (if w ≤ n then (if sval a.toNat w < 0 then 2 ^ w - 1 else 0) else wrap (Int.fdiv (sval a.toNat w) (2 ^ n)) w) =
      a.sshiftRight n := by
  have hval : sval a.toNat w = ival 1 a := val_toNat a 1
  have hshift : a.sshiftRight n = BitVec.ofInt w (ival 1 a / 2 ^ n) := by
    simp [BitVec.sshiftRight, ival, Int.shiftRight_eq_div_pow]
  rw [hval, hshift]
  split
  · rename_i h
    obtain ⟨hlo, hhi⟩ := ival_bounds 1 a
    rw [div_two_pow_of_le hlo hhi h]
    split
    · rw [ofNat_allOnes, BitVec.ofInt_neg, ← BitVec.neg_one_eq_allOnes]
      rfl
    · rfl
  · rw [ofNat_wrap, Int.fdiv_eq_ediv_of_nonneg _ (by positivity)]

theorem ofNat_rol {w : Nat} (a : BitVec w) (n : Nat) :
    BitVec.ofNat w ((a.toNat * 2 ^ (n % w)) % 2 ^ w ||| a.toNat / 2 ^ (w - n % w)) = a.rotateLeft n := by
  rw [BitVec.ofNat_or, ofNat_mul_two_pow, ofNat_div_two_pow, BitVec.ofNat_toNat, BitVec.setWidth_eq, BitVec.rotateLeft_def]

theorem ofNat_ror {w : Nat} (a : BitVec w) (n : Nat) :
    BitVec.ofNat w (a.toNat / 2 ^ (n % w) ||| (a.toNat * 2 ^ (w - n % w)) % 2 ^ w) = a.rotateRight n := by
  rw [BitVec.ofNat_or, ofNat_mul_two_pow, ofNat_div_two_pow, BitVec.ofNat_toNat, BitVec.setWidth_eq, BitVec.rotateRight_def]

theorem append_toNat {w : Nat} (a b : BitVec w) : (a ++ b).toNat = a.toNat * 2 ^ w + b.toNat := by
  rw [BitVec.toNat_append, ← Nat.shiftLeft_add_eq_or_of_lt b.isLt, Nat.shiftLeft_eq]

theorem ofNat_fshl {w : Nat} (a b : BitVec w) (n : Nat) :
    BitVec.ofNat w (((a.toNat * 2 ^ w + b.toNat) * 2 ^ n) % 2 ^ (2 * w) / 2 ^ w) = ((a ++ b) <<< n).extractLsb' w w := by
  apply BitVec.eq_of_toNat_eq
  rw [BitVec.extractLsb'_toNat, BitVec.toNat_shiftLeft, append_toNat, BitVec.toNat_ofNat, Nat.shiftRight_eq_div_pow,
    Nat.shiftLeft_eq, two_mul]

theorem ofNat_fshr {w : Nat} (a b : BitVec w) (n : Nat) :
    BitVec.ofNat w ((a.toNat * 2 ^ w + b.toNat) / 2 ^ n % 2 ^ w) = ((a ++ b) >>> n).extractLsb' 0 w := by
  apply BitVec.eq_of_toNat_eq
  rw [BitVec.extractLsb'_toNat, BitVec.toNat_ushiftRight, append_toNat, BitVec.toNat_ofNat, Nat.mod_mod, Nat.shiftRight_zero,
    Nat.shiftRight_eq_div_pow]

/-- A funnel shift has no packed form (R191). -/
theorem funnel_unpacked {opc fn : Nat} {sg : Sig} (hopc : opc = 0x2C ∨ opc = 0x2D) (h : intSig opc fn = some sg) : fn / 16 < 2 := by
  rcases hopc with rfl | rfl <;> simp [intSig] at h <;> omega

theorem element_srcNat_toNat {wid : Nat} (hwid : wid < 2) (g : Group) (t : Thread) (x : Src) :
    (element (elemW wid) 0 (srcNat g t (widRegs wid) x)).toNat = srcNat g t (widRegs wid) x := by
  rw [element_zero, BitVec.toNat_ofNat, elemW_of_unpacked hwid, Nat.mod_eq_of_lt (srcNat_lt g t (widRegs_pos wid) x)]

/-- Settles O4: the shifts element by element, and the funnels, which join whole registers since they have no packed form. -/
theorem shiftsAndFunnels : Obligations.ShiftsAndFunnels := by
  intro x
  refine ⟨?_, ?_, ?_, ?_, ?_, ?_, ?_⟩
  · exact shifts_of_execShift (exec_shl x) (by decide) fun a n => by rw [ofNat_shl, BitVec.ofNat_toNat, BitVec.setWidth_eq]
  · exact shifts_of_execShift (exec_shr x) (by decide) ofNat_shr
  · exact shifts_of_execShift (exec_sar x) (by decide) ofNat_sar
  · exact shifts_of_execShift (exec_rol x) (by decide) ofNat_rol
  · exact shifts_of_execShift (exec_ror x) (by decide) ofNat_ror
  · refine yields_of_perLane (exec_fshl x) (by decide) fun _ hsig g t => ?_
    have hwid : widOf x < 2 := funnel_unpacked (.inl rfl) hsig
    dsimp only
    rw [element_zero_mod, ← ofNat_fshl, element_srcNat_toNat hwid, element_srcNat_toNat hwid]
  · refine yields_of_perLane (exec_fshr x) (by decide) fun _ hsig g t => ?_
    have hwid : widOf x < 2 := funnel_unpacked (.inr rfl) hsig
    dsimp only
    rw [element_zero_mod, ← ofNat_fshr, element_srcNat_toNat hwid, element_srcNat_toNat hwid]

/-! ## Bytes (R201) -/

theorem bitOf_eq_testBit (x k : Nat) : bitOf x k = x.testBit k := by
  rw [bitOf, Nat.testBit_eq_decide_div_mod_eq, Nat.shiftRight_eq_div_pow]
  rfl

/-- Byte `i` of BYSEL's result after its second step, which goes upward from byte 0. -/
def byselOut (a b c : Nat) : Nat → Nat
  | 0 => byselByte a b c 0
  | i + 1 => if bitOf c (16 + (i + 1)) then (if bitOf (byselOut a b c i) 7 then 0xFF else 0) else byselByte a b c (i + 1)

theorem byselByte_lt (a b c i : Nat) : byselByte a b c i < 2 ^ 8 := by
  unfold byselByte
  dsimp only
  split
  · decide
  · exact Nat.mod_lt _ (by decide)

theorem byselOut_lt (a b c i : Nat) : byselOut a b c i < 2 ^ 8 := by
  cases i with
  | zero => exact byselByte_lt ..
  | succ i =>
    rw [byselOut]
    split
    · split <;> decide
    · exact byselByte_lt ..

theorem byselVal_eq_build (a b c : Nat) : byselVal a b c = build 8 4 (byselOut a b c) := by
  have hbyte (i : Nat) : byselOut a b c i % 2 ^ 8 = byselOut a b c i := Nat.mod_eq_of_lt (byselOut_lt a b c i)
  change byselOut a b c 0 + 2 ^ 8 * byselOut a b c 1 + 2 ^ 16 * byselOut a b c 2 + 2 ^ 24 * byselOut a b c 3 = _
  simp only [build_succ, hbyte]
  simp only [build, List.range_zero, List.foldl_nil]
  ring

theorem element_byselVal (a b c : Nat) {i : Nat} (hi : i < 4) :
    element 8 i (byselVal a b c % 2 ^ 32) = BitVec.ofNat 8 (byselOut a b c i) := by
  rw [byselVal_eq_build]
  exact element_build_mod (w := 8) (n := 4) (k := 1) rfl _ hi

/-- BYSEL's first step on the four bits of C that choose byte `i`. -/
theorem ofNat_byselByte (a b c : Nat) {i : Nat} (hi : i < 4) :
    BitVec.ofNat 8 (byselByte a b c i) =
      if (element 32 0 c).getLsbD (4 * i + 2) then 0
      else element 8 (element 2 0 (c >>> (4 * i))).toNat (if (element 32 0 c).getLsbD (4 * i + 3) then b else a) := by
  have hfield {j : Nat} (hj : j < 4) : bitOf (bitsOf c (4 * i) 4) j = (element 32 0 c).getLsbD (4 * i + j) := by
    rw [element_zero_getLsbD _ (by omega), bitOf_eq_testBit, bitsOf, Nat.testBit_mod_two_pow, Nat.testBit_shiftRight,
      decide_eq_true hj, Bool.true_and]
  have hsel : bitsOf c (4 * i) 4 % 4 = (element 2 0 (c >>> (4 * i))).toNat := by
    simp only [bitsOf, element_toNat, elem, Nat.mul_zero, Nat.shiftRight_zero]
    omega
  simp only [byselByte, hfield (show 2 < 4 by decide), hfield (show 3 < 4 by decide), hsel]
  split
  · rfl
  · exact ofNat_elem 8 (element 2 0 (c >>> (4 * i))).toNat _

/-- BYSEL's second step on the byte below. -/
theorem ofNat_byselOut_succ (a b c : Nat) {i : Nat} (hi : i + 1 < 4) :
    BitVec.ofNat 8 (byselOut a b c (i + 1)) =
      if (element 32 0 c).getLsbD (16 + (i + 1)) then
        (if (BitVec.ofNat 8 (byselOut a b c i)).getLsbD 7 then BitVec.allOnes 8 else 0)
      else BitVec.ofNat 8 (byselByte a b c (i + 1)) := by
  rw [element_zero_getLsbD _ (by omega), BitVec.getLsbD_ofNat, decide_eq_true (by decide), Bool.true_and, ← bitOf_eq_testBit,
    ← bitOf_eq_testBit, byselOut]
  split
  · split <;> rfl
  · rfl

/-! ## Fields and counts (R205, R206) -/

/-- The quotient of BFE, for which the model tells a position of `w` or more apart. -/
theorem bfe_quotient {w : Nat} (n pos : Nat) (a : BitVec w) :
    (if w ≤ pos then (if ival n a < 0 then -1 else 0) else Int.fdiv (ival n a) (2 ^ pos)) = ival n a / 2 ^ pos := by
  split
  · rename_i h
    obtain ⟨hlo, hhi⟩ := ival_bounds n a
    rw [div_two_pow_of_le hlo hhi h]
  · exact Int.fdiv_eq_ediv_of_nonneg _ (by positivity)

theorem ofInt_mod_two_pow (l : Nat) (y : Int) : BitVec.ofInt l (y % 2 ^ l) = BitVec.ofNat l (wrap y l) := by
  rw [ofNat_wrap]
  apply BitVec.eq_of_toNat_eq
  simp [BitVec.toNat_ofInt]

theorem ofNat_bfeVal (w n a pos len : Nat) :
    BitVec.ofNat w (bfeVal w n a pos len) =
      let l := Nat.min len w
      let f : Int := ival n (BitVec.ofNat w a) / 2 ^ pos % 2 ^ l
      if n = 1 then (BitVec.ofInt l f).signExtend w else (BitVec.ofInt l f).setWidth w := by
  simp only [bfeVal, val_eq, bfe_quotient, ofInt_mod_two_pow]
  generalize Nat.min len w = l
  split
  · rename_i h
    subst h
    rw [BitVec.of_length_zero (x := BitVec.ofNat 0 (wrap _ 0))]
    split <;> simp [BitVec.signExtend]
  · split
    · rw [ofNat_wrap, sval_eq]
      rfl
    · apply BitVec.eq_of_toNat_eq
      rw [BitVec.toNat_setWidth, BitVec.toNat_ofNat, BitVec.toNat_ofNat, Nat.mod_eq_of_lt (wrap_lt _ l)]

theorem ofNat_notw (m w : Nat) : BitVec.ofNat w (notw m w) = ~~~BitVec.ofNat w m := by
  have hpos := Nat.two_pow_pos w
  apply BitVec.eq_of_toNat_eq
  rw [BitVec.toNat_not, BitVec.toNat_ofNat, BitVec.toNat_ofNat, notw, Nat.mod_eq_of_lt (by omega)]

theorem ofNat_fieldMask (w pos len : Nat) :
    BitVec.ofNat w (fieldMask w pos len) = BitVec.ofNat w (2 ^ Nat.min len w - 1) <<< pos :=
  ofNat_shl ..

theorem ones_eq_countP (a n : Nat) : ones a n = (List.range n).countP fun j => a.testBit j := by
  simp only [ones, bitOf_eq_testBit, List.countP_eq_length_filter]

/-- A count of bits of an element fits one register. -/
theorem count_mod {wid v : Nat} (h : v ≤ elemW wid) : v % 2 ^ (32 * 1) = v := by
  have hw : elemW wid ≤ 64 := by
    unfold elemW
    split_ifs <;> decide
  exact Nat.mod_eq_of_lt (by omega)

/-- The first place below `w` where a test holds, or `w`. -/
theorem find_range_getD (w : Nat) (p : Nat → Bool) :
    ((List.range w).find? p).getD w ≤ w ∧ (∀ j, j < ((List.range w).find? p).getD w → p j = false) ∧
      (((List.range w).find? p).getD w < w → p (((List.range w).find? p).getD w) = true) := by
  cases h : (List.range w).find? p with
  | none =>
    simp only [List.find?_range_eq_none, Bool.not_eq_true'] at h
    simpa using h
  | some i =>
    simp only [List.find?_range_eq_some, Bool.not_eq_true', List.mem_range] at h
    obtain ⟨hp, hi, hbefore⟩ := h
    exact ⟨hi.le, hbefore, fun _ => hp⟩

theorem testBit_build_one {w j : Nat} (p : Nat → Bool) (hj : j < w) : (build 1 w fun j => (p j).toNat).testBit j = p j := by
  have hbit := elem_build (w := 1) (fun j => (p j).toNat) hj
  rw [Nat.one_mul, Nat.pow_one] at hbit
  rw [← bitOf_eq_testBit, bitOf, hbit]
  cases p j <;> rfl

/-- Settles O5, form by form: PACK and UNPK are built values, BYSEL is the recursion of `byselOut`, a field is a shifted mask, and
a leading or trailing count is the first place where a search stops. -/
theorem widthsFieldsAndCounts : Obligations.WidthsFieldsAndCounts := by
  refine ⟨fun x => ⟨?cvti, ?pack, ?unpk, ?bysel⟩, fun x => ⟨?bfe, ?bfi, ?bmsk, ?popc, ?clz, ?ctz, ?brev⟩⟩
  case cvti =>
    refine yields_of_perLane (exec_cvti x) (by decide) fun _ _ g t => ?_
    dsimp only
    rw [element_zero_mod, val_eq, element_zero, ← ofNat_wrap, ← ofNat_res]
    split <;> rfl
  case pack =>
    refine yields_of_perLane (exec_pack x) (by decide) fun _ _ g t => ?_
    dsimp only
    have hm : (if widOf x = 2 then 16 else 8) * (2 * (16 / if widOf x = 2 then 16 else 8)) = 32 * 1 := by split <;> rfl
    generalize (if widOf x = 2 then 16 else 8) = m at hm ⊢
    intro e he
    constructor
    · rw [element_build_mod hm _ (by omega), if_pos he, ofNat_res, val_elem]
    · rw [element_build_mod hm _ (by omega), if_neg (by omega), Nat.add_sub_cancel_left, ofNat_res, val_elem]
  case unpk =>
    refine yields_of_perLane (exec_unpk x) (by decide) fun _ _ g t => ?_
    dsimp only
    have hm : 2 * (if widOf x = 2 then 16 else 8) * (32 / if widOf x = 2 then 16 else 8) = 32 * 2 := by split <;> rfl
    generalize (if widOf x = 2 then 16 else 8) = m at hm ⊢
    intro e he
    rw [element_build_mod hm _ he, ofNat_wrap, val_elem]
  case bysel =>
    refine yields_of_perLane (exec_bysel x) (by decide) fun _ _ g t => ?_
    intro c i hi
    rw [← ofNat_byselByte _ _ _ hi]
    cases i with
    | zero => exact (element_byselVal _ _ _ hi).trans (if_neg (by omega)).symm
    | succ i =>
      refine (element_byselVal _ _ _ hi).trans ((ofNat_byselOut_succ _ _ _ hi).trans ?_)
      rw [← element_byselVal _ _ _ (by omega)]
      simp only [Nat.add_sub_cancel, Nat.le_add_left, true_and]
      rfl
  case bfe =>
    refine yields_of_perLane (exec_bfe x) (by decide) fun _ _ g t => ?_
    dsimp only
    rw [element_zero_mod, ofNat_bfeVal, element_zero]
  case bfi =>
    refine yields_of_perLane (exec_bfi x) (by decide) fun _ _ g t => ?_
    dsimp only
    rw [element_zero_mod, BitVec.ofNat_or, BitVec.ofNat_and, BitVec.ofNat_and, ofNat_notw, ofNat_fieldMask, ofNat_shl,
      element_zero, element_zero]
  case bmsk =>
    refine yields_of_perLane (exec_bmsk x) (by decide) fun _ _ g t => ?_
    rw [element_zero_mod, ofNat_fieldMask]
  case popc =>
    refine yields_of_perLane (exec_popc x) (by decide) fun _ _ g t => ?_
    rw [ones_eq_countP]
    exact count_mod (List.countP_le_length.trans_eq List.length_range)
  case clz =>
    refine yields_of_perLane (exec_clz x) (by decide) fun _ _ g t => ?_
    have hfind := find_range_getD (elemW (widOf x)) fun j => bitOf (srcNat g t (widRegs (widOf x)) x.a) (elemW (widOf x) - 1 - j)
    dsimp only
    rw [clzVal, count_mod hfind.1]
    simpa only [bitOf_eq_testBit] using hfind
  case ctz =>
    refine yields_of_perLane (exec_ctz x) (by decide) fun _ _ g t => ?_
    have hfind := find_range_getD (elemW (widOf x)) fun j => bitOf (srcNat g t (widRegs (widOf x)) x.a) j
    dsimp only
    rw [ctzVal, count_mod hfind.1]
    simpa only [bitOf_eq_testBit] using hfind
  case brev =>
    refine yields_of_perLane (exec_brev x) (by decide) fun _ _ g t j hj => ?_
    have hw := elemW_le (widOf x)
    rw [Nat.testBit_mod_two_pow, decide_eq_true (by omega), Bool.true_and, testBit_build_one _ hj, bitOf_eq_testBit]

end Sys2Proof.Machine
end

section
/-! Floating-point arithmetic and products of spec chapter 10 (R213, R214): the exact values that the model computes are the
rationals of the rules, and RoundToFormat looks at the rational alone, so each result is the rule's value rounded once. -/

namespace Sys2Proof.Machine

/-! ## RoundToFormat looks at the rational alone (R181) -/

/-- The fraction `n / d` scaled by a power of two reaches 1 where the model's comparison says so. -/
theorem two_zpow_le_div_iff {n d : Nat} (hd : 0 < d) (e : Int) :
    ((2 : Nat) : ℚ) ^ e ≤ (n : ℚ) / d ↔
      (if 0 ≤ e then decide (d * 2 ^ e.toNat ≤ n) else decide (d ≤ n * 2 ^ (-e).toNat)) = true := by
  have hdq : (0 : ℚ) < d := by exact_mod_cast hd
  rw [le_div_iff₀ hdq]
  split <;> rename_i he
  · obtain ⟨k, rfl⟩ := Int.eq_ofNat_of_zero_le he
    rw [decide_eq_true_iff, Int.toNat_natCast, zpow_natCast, mul_comm]
    exact_mod_cast Iff.rfl
  · obtain ⟨k, hk⟩ := Int.eq_ofNat_of_zero_le (show 0 ≤ -e by omega)
    obtain rfl : e = -(k : Int) := by omega
    rw [decide_eq_true_iff, neg_neg, Int.toNat_natCast, zpow_neg, zpow_natCast, inv_mul_le_iff₀ (by positivity), mul_comm]
    exact_mod_cast Iff.rfl

theorem log2q_eq_log {n d : Nat} (hn : 0 < n) (hd : 0 < d) : log2q n d = Int.log 2 ((n : ℚ) / d) := by
  have hq : (0 : ℚ) < (n : ℚ) / d := by positivity
  have hdq : (0 : ℚ) < d := by exact_mod_cast hd
  have hlo : (Nat.log2 n : Int) - Nat.log2 d - 1 ≤ Int.log 2 ((n : ℚ) / d) := by
    rw [← Int.zpow_le_iff_le_log one_lt_two hq, le_div_iff₀ hdq, sub_sub, zpow_sub₀ (by norm_num), div_mul_eq_mul_div,
      div_le_iff₀ (by positivity)]
    exact_mod_cast Nat.mul_le_mul (Nat.log2_self_le hn.ne') Nat.lt_log2_self.le
  have hhi : Int.log 2 ((n : ℚ) / d) < (Nat.log2 n : Int) - Nat.log2 d + 1 := by
    rw [← Int.lt_zpow_iff_log_lt one_lt_two hq, div_lt_iff₀ hdq, sub_add_eq_add_sub, zpow_sub₀ (by norm_num), div_mul_eq_mul_div,
      lt_div_iff₀ (by positivity)]
    exact_mod_cast Nat.mul_lt_mul_of_lt_of_le Nat.lt_log2_self (Nat.log2_self_le hd.ne') (by positivity)
  have hge := (two_zpow_le_div_iff (n := n) hd ((Nat.log2 n : Int) - Nat.log2 d)).symm.trans (Int.zpow_le_iff_le_log one_lt_two hq)
  unfold log2q
  dsimp only
  by_cases h : (Nat.log2 n : Int) - Nat.log2 d ≤ Int.log 2 ((n : ℚ) / d)
  · rw [if_pos (hge.2 h)]
    omega
  · rw [if_neg (mt hge.1 h)]
    omega

/-- The choice between the neighbours looks at the remainder in proportion to the step. -/
theorem roundUp_mul (rnd : Nat) (neg : Bool) (lo r den draw : Nat) {k : Nat} (hk : 0 < k) :
    roundUp rnd neg lo (r * k) (den * k) draw = roundUp rnd neg lo r den draw := by
  have hlt (a b : Nat) : a * k < b * k ↔ a < b := Nat.mul_lt_mul_right hk
  have hle (a b : Nat) : a * k ≤ b * k ↔ a ≤ b := Nat.mul_le_mul_right_iff hk
  have heq (a b : Nat) : (a * k == b * k) = (a == b) := by
    rw [Bool.eq_iff_iff, beq_iff_eq, beq_iff_eq, Nat.mul_left_inj hk.ne']
  simp only [roundUp, Nat.mul_eq_zero, hk.ne', or_false, ← Nat.sub_mul, ← Nat.mul_assoc, Nat.mul_right_comm _ k, hlt, hle, heq]

theorem roundUp_congr (rnd : Nat) (neg : Bool) (lo draw : Nat) {r den r' den' : Nat} (hden : 0 < den) (hden' : 0 < den')
    (h : r * den' = r' * den) : roundUp rnd neg lo r den draw = roundUp rnd neg lo r' den' draw := by
  rw [← roundUp_mul rnd neg lo r den draw hden', ← roundUp_mul rnd neg lo r' den' draw hden, h, Nat.mul_comm den]

theorem div_eq_of_cross {a b c d : Nat} (hb : 0 < b) (hd : 0 < d) (h : a * d = c * b) : a / b = c / d := by
  rw [← Nat.mul_div_mul_right a b hd, h, Nat.mul_comm b, Nat.mul_div_mul_right c d hb]

theorem mod_cross {a b c d : Nat} (h : a * d = c * b) : a % b * d = c % d * b := by
  rw [← Nat.mul_mod_mul_right, ← Nat.mul_mod_mul_right, h, Nat.mul_comm b]

theorem roundF_zero (m : Fmt) (neg : Bool) (d rnd : Nat) (sat : Bool) (draw : Nat) :
    roundF m (.fin neg 0 d) rnd sat draw = { code := signBit m neg } := by
  simp only [roundF, if_true]

/-- Two fractions of one rational round alike. -/
theorem roundF_congr (m : Fmt) (neg : Bool) (rnd : Nat) (sat : Bool) (draw : Nat) {n d n' d' : Nat} (hd : 0 < d) (hd' : 0 < d')
    (h : n * d' = n' * d) : roundF m (.fin neg n d) rnd sat draw = roundF m (.fin neg n' d') rnd sat draw := by
  rcases Nat.eq_zero_or_pos n with rfl | hn
  · obtain rfl : n' = 0 := by simpa [hd.ne'] using h.symm
    rw [roundF_zero, roundF_zero]
  have hn' : 0 < n' := Nat.pos_of_mul_pos_right (h ▸ Nat.mul_pos hn hd')
  have hq : (n : ℚ) / d = (n' : ℚ) / d' := by
    rw [div_eq_div_iff (Nat.cast_ne_zero.2 hd.ne') (Nat.cast_ne_zero.2 hd'.ne')]
    exact_mod_cast h
  have hlog : log2q n d = log2q n' d' := by
    rw [log2q_eq_log hn hd, log2q_eq_log hn' hd', hq]
  simp only [roundF, hn.ne', hn'.ne', if_false, ← hlog]
  generalize (if log2q n d < 1 - (m.bias : Int) then 1 - (m.bias : Int) else log2q n d) - m.f = u
  have hcross : (if 0 ≤ u then n else n * 2 ^ (-u).toNat) * (if 0 ≤ u then d' * 2 ^ u.toNat else d') =
      (if 0 ≤ u then n' else n' * 2 ^ (-u).toNat) * (if 0 ≤ u then d * 2 ^ u.toNat else d) := by
    split
    · rw [← Nat.mul_assoc, h, Nat.mul_assoc]
    · rw [Nat.mul_right_comm, h, Nat.mul_right_comm]
  have hden : 0 < (if 0 ≤ u then d * 2 ^ u.toNat else d) := by split <;> positivity
  have hden' : 0 < (if 0 ≤ u then d' * 2 ^ u.toNat else d') := by split <;> positivity
  generalize (if 0 ≤ u then n else n * 2 ^ (-u).toNat) = num, (if 0 ≤ u then d * 2 ^ u.toNat else d) = den,
    (if 0 ≤ u then n' else n' * 2 ^ (-u).toNat) = num', (if 0 ≤ u then d' * 2 ^ u.toNat else d') = den' at *
  have hmod := mod_cross hcross
  have hzero : num % den = 0 ↔ num' % den' = 0 := by
    constructor <;> intro h0 <;> simpa [h0, hden.ne', hden'.ne'] using hmod
  simp only [div_eq_of_cross hden hden' hcross, roundUp_congr rnd neg _ draw hden hden' hmod, hzero]

/-! ## Exact values and the rationals that they are (R174, R181) -/

/-- A value with a denominator that is not zero, as every code decodes to. -/
def FVal.wf : FVal → Prop
  | .fin _ _ d => 0 < d
  | _ => True

/-- The value in lowest terms. -/
def FVal.canon : FVal → FVal
  | .fin neg n d => .fin neg ((n : ℚ) / d).num.natAbs ((n : ℚ) / d).den
  | x => x

theorem dyadic_wf (neg : Bool) (n : Nat) (e : Int) : (dyadic neg n e).wf := by
  unfold dyadic
  split
  · exact Nat.one_pos
  · exact Nat.two_pow_pos _

theorem decodeF_wf (m : Fmt) (code : Nat) : (decodeF m code).wf := by
  unfold decodeF
  dsimp only
  split_ifs
  exacts [dyadic_wf .., trivial, trivial, trivial, dyadic_wf ..]

theorem negate_wf {x : FVal} (h : x.wf) : x.negate.wf := by
  cases x <;> exact h

theorem ratOf_fin_eq_zero_iff {neg : Bool} {n d : Nat} (hd : 0 < d) : ratOf (.fin neg n d) = 0 ↔ n = 0 := by
  cases neg <;> simp [ratOf, hd.ne']

theorem natAbs_num_div_den (q : ℚ) : (q.num.natAbs : ℚ) / q.den = |q| := by
  rw [Rat.abs_def, Rat.divInt_eq_div, Int.cast_natCast, Int.cast_natCast]

theorem ratOf_ofRat (zneg : Bool) (q : ℚ) : ratOf (ofRat zneg q) = q := by
  unfold ofRat
  split
  · rename_i h
    simp [ratOf, h]
  · rw [ratOf, natAbs_num_div_den]
    rcases lt_or_ge q 0 with h | h
    · simp [h, abs_of_neg h]
    · simp [h.not_gt, abs_of_nonneg h]

@[simp] theorem ofRat_isNan (zneg : Bool) (q : ℚ) : (ofRat zneg q).isNan = false := by
  unfold ofRat
  split <;> rfl

/-- A finite value in lowest terms is its rational, with the value's sign on a zero. -/
theorem canon_fin_eq_ofRat {neg : Bool} {n d : Nat} (hd : 0 < d) :
    (FVal.fin neg n d).canon = ofRat neg (ratOf (.fin neg n d)) := by
  unfold ofRat
  split <;> rename_i h
  · rw [ratOf_fin_eq_zero_iff hd] at h
    simp [FVal.canon, h]
  · have hn : n ≠ 0 := mt (ratOf_fin_eq_zero_iff hd).2 h
    have hpos : (0 : ℚ) < (n : ℚ) / d := by positivity
    cases neg
    · simp [FVal.canon, ratOf, hpos.le]
    · simp [FVal.canon, ratOf, hpos]

@[simp] theorem canon_isInf (x : FVal) : x.canon.isInf = x.isInf := by
  cases x <;> rfl

@[simp] theorem canon_isNan (x : FVal) : x.canon.isNan = x.isNan := by
  cases x <;> rfl

@[simp] theorem canon_neg (x : FVal) : x.canon.neg = x.neg := by
  cases x <;> rfl

theorem canon_negate (x : FVal) : x.negate.canon = x.canon.negate := by
  cases x <;> rfl

theorem canon_isZero {x : FVal} (h : x.wf) : x.canon.isZero = x.isZero := by
  cases x with
  | fin neg n d =>
    have hd : d ≠ 0 := Nat.ne_of_gt h
    rw [Bool.eq_iff_iff]
    simp [FVal.canon, FVal.isZero, hd]
  | _ => rfl

theorem ratOf_canon {x : FVal} (h : x.wf) : ratOf x.canon = ratOf x := by
  cases x with
  | fin neg n d => rw [canon_fin_eq_ofRat h, ratOf_ofRat]
  | _ => rfl

/-- Rounding looks at the rational alone, and at the sign of a zero. -/
theorem roundF_canon (m : Fmt) {x : FVal} (h : x.wf) (rnd : Nat) : roundF m x.canon rnd = roundF m x rnd := by
  cases x with
  | fin neg n d =>
    have hd : (d : ℚ) ≠ 0 := Nat.cast_ne_zero.2 (Nat.ne_of_gt h)
    refine roundF_congr m neg rnd false 0 (Rat.den_pos _) h ?_
    have hq := natAbs_num_div_den ((n : ℚ) / d)
    rw [abs_of_nonneg (by positivity), div_eq_div_iff (Nat.cast_ne_zero.2 (Rat.den_nz _)) hd] at hq
    exact_mod_cast hq
  | _ => rfl

/-! ## What an exact operation answers (R184, R213) -/

/-- What an exact operation must answer for `arith`: the NaN where an operand is one or the operation is invalid, else the
exact value up to its denominator; and fv where a signalling operand or an invalid operation raises it. -/
structure Exactly (ops : List FVal) (invalid : Bool) (exact : FVal) (r : FVal × Nat) : Prop where
  nan : (ops.any FVal.isNan || invalid) = true → r.1 = .nan false
  value : (ops.any FVal.isNan || invalid) = false → r.1.wf ∧ r.1.canon = exact ∧ exact.isNan = false
  flags : r.2 = if ops.any FVal.isSig || invalid then fv else 0

theorem isNan_of_isSig {x : FVal} (h : x.isSig = true) : x.isNan = true := by
  cases x with
  | nan sig => rfl
  | _ => cases h

theorem any_isSig_of_any_isNan_eq_false {xs : List FVal} (h : xs.any FVal.isNan = false) : xs.any FVal.isSig = false := by
  rw [List.any_eq_false] at h ⊢
  exact fun x hx => mt isNan_of_isSig (h x hx)

theorem fv_or_fv (a b : Bool) : (if a then fv else 0) ||| (if b then fv else 0) = if a || b then fv else 0 := by
  cases a <;> cases b <;> rfl

/-- One rounding of such an answer is the `Arith` of R213. -/
theorem finishF_eq_arith {m : Fmt} {ops : List FVal} {invalid : Bool} {exact : FVal} {r : FVal × Nat} {rnd : Nat}
    (h : Exactly ops invalid exact r) : finishF m r rnd = arith m ops invalid exact rnd := by
  unfold arith finishF
  rw [h.flags]
  cases hbad : ops.any FVal.isNan || invalid with
  | true =>
    rw [h.nan hbad]
    simp [roundF]
  | false =>
    obtain ⟨hwf, rfl, -⟩ := h.value hbad
    rw [Bool.or_eq_false_iff] at hbad
    simp [any_isSig_of_any_isNan_eq_false hbad.1, hbad.2, roundF_canon m hwf]

theorem Exactly.wf {ops : List FVal} {invalid : Bool} {exact : FVal} {r : FVal × Nat} (h : Exactly ops invalid exact r) :
    r.1.wf := by
  cases hbad : ops.any FVal.isNan || invalid with
  | true => rw [h.nan hbad]; trivial
  | false => exact (h.value hbad).1

theorem Exactly.isNan {ops : List FVal} {invalid : Bool} {exact : FVal} {r : FVal × Nat} (h : Exactly ops invalid exact r) :
    r.1.isNan = (ops.any FVal.isNan || invalid) := by
  cases hbad : ops.any FVal.isNan || invalid with
  | true => rw [h.nan hbad]; rfl
  | false =>
    obtain ⟨-, hcanon, hnan⟩ := h.value hbad
    rw [← canon_isNan, hcanon, hnan]

/-- The NaN of an exact operation is quiet. -/
theorem Exactly.isSig {ops : List FVal} {invalid : Bool} {exact : FVal} {r : FVal × Nat} (h : Exactly ops invalid exact r) :
    r.1.isSig = false := by
  cases hbad : ops.any FVal.isNan || invalid with
  | true => rw [h.nan hbad]; rfl
  | false =>
    rw [← Bool.not_eq_true]
    exact mt isNan_of_isSig (by rw [h.isNan, hbad]; decide)

/-- An answer negated is the answer of the exact value negated. -/
theorem Exactly.negate {ops : List FVal} {invalid : Bool} {exact : FVal} {r : FVal × Nat} (h : Exactly ops invalid exact r) :
    Exactly ops invalid exact.negate (r.1.negate, r.2) where
  nan hbad := by rw [h.nan hbad]; rfl
  value hbad := by
    obtain ⟨hwf, rfl, hnan⟩ := h.value hbad
    refine ⟨negate_wf hwf, canon_negate _, ?_⟩
    cases hr : r.1.canon <;> simp_all [FVal.negate, FVal.isNan]
  flags := h.flags

/-! ## The tests of a value, by its form -/

@[simp] theorem nan_tests (g : Bool) : (FVal.nan g).isNan = true ∧ (FVal.nan g).isSig = g ∧ (FVal.nan g).isInf = false ∧
    (FVal.nan g).isZero = false ∧ (FVal.nan g).neg = false := ⟨rfl, rfl, rfl, rfl, rfl⟩

@[simp] theorem inf_tests (s : Bool) : (FVal.inf s).isNan = false ∧ (FVal.inf s).isSig = false ∧ (FVal.inf s).isInf = true ∧
    (FVal.inf s).isZero = false ∧ (FVal.inf s).neg = s := ⟨rfl, rfl, rfl, rfl, rfl⟩

@[simp] theorem fin_tests (s : Bool) (n d : Nat) : (FVal.fin s n d).isNan = false ∧ (FVal.fin s n d).isSig = false ∧
    (FVal.fin s n d).isInf = false ∧ (FVal.fin s n d).isZero = (n == 0) ∧ (FVal.fin s n d).neg = s := ⟨rfl, rfl, rfl, rfl, rfl⟩

/-! ## Products and quotients -/

theorem ratOf_mul (s t : Bool) (a b c d : Nat) :
    ratOf (.fin (s != t) (a * c) (b * d)) = ratOf (.fin s a b) * ratOf (.fin t c d) := by
  cases s <;> cases t <;> simp [ratOf, mul_div_mul_comm]

theorem ratOf_div (s t : Bool) (a b c d : Nat) :
    ratOf (.fin (s != t) (a * d) (b * c)) = ratOf (.fin s a b) / ratOf (.fin t c d) := by
  cases s <;> cases t <;> simp [ratOf, div_div_div_eq, neg_div, div_neg]

/-- An infinity as the answer, with no flag. -/
theorem exactly_inf {ops : List FVal} (h : ops.any FVal.isNan = false) (s : Bool) : Exactly ops false (.inf s) (.inf s, 0) where
  nan hbad := by simp [h] at hbad
  value _ := ⟨trivial, rfl, rfl⟩
  flags := by simp [any_isSig_of_any_isNan_eq_false h]

/-- A finite value as the answer, with no flag. -/
theorem exactly_fin {ops : List FVal} (h : ops.any FVal.isNan = false) {s : Bool} {n d : Nat} (hd : 0 < d) {q : ℚ}
    (hq : ratOf (.fin s n d) = q) : Exactly ops false (ofRat s q) (.fin s n d, 0) where
  nan hbad := by simp [h] at hbad
  value _ := ⟨hd, by rw [canon_fin_eq_ofRat hd, hq], ofRat_isNan ..⟩
  flags := by simp [any_isSig_of_any_isNan_eq_false h]

/-- An invalid operation as the answer, which raises fv. -/
theorem exactly_invalid {ops : List FVal} {exact : FVal} : Exactly ops true exact (.nan false, fv) where
  nan _ := rfl
  value hbad := by simp at hbad
  flags := by simp

/-- A NaN operand as the answer, of an operation that is invalid for numbers alone. -/
theorem exactly_nan {ops : List FVal} {invalid : Bool} {exact : FVal} (h : ops.any FVal.isNan = true) (hi : invalid = false) :
    Exactly ops invalid exact (.nan false, if ops.any FVal.isSig then fv else 0) where
  nan _ := rfl
  value hbad := by simp [h] at hbad
  flags := by simp [hi]

/-- An infinity as the answer, unless the operation is invalid. -/
theorem exactly_inf_or_invalid {ops : List FVal} (h : ops.any FVal.isNan = false) (invalid : Bool) {exact : FVal} {s : Bool}
    (he : exact = .inf s) : Exactly ops invalid exact (if invalid then (.nan false, fv) else (.inf s, 0)) := by
  subst he
  cases invalid with
  | true => exact exactly_invalid
  | false => exact exactly_inf h s

theorem mulExact_nan {x y : FVal} (h : [x, y].any FVal.isNan = true) :
    mulExact x y = (.nan false, if [x, y].any FVal.isSig then fv else 0) := by
  cases x <;> cases y <;> simp [mulExact] at h ⊢

theorem mulExact_fin (s t : Bool) (a b c d : Nat) :
    mulExact (.fin s a b) (.fin t c d) = (.fin (s != t) (a * c) (b * d), 0) := rfl

theorem divExact_fin_inf (s t : Bool) (a b : Nat) : divExact (.fin s a b) (.inf t) = (.fin (s != t) 0 1, 0) := rfl

theorem divExact_nan {x y : FVal} (h : [x, y].any FVal.isNan = true) :
    divExact x y = (.nan false, if [x, y].any FVal.isSig then fv else 0) := by
  cases x <;> cases y <;> simp [divExact] at h ⊢

theorem zeroTimesInf_nan {x y : FVal} (h : [x, y].any FVal.isNan = true) : zeroTimesInf x y = false := by
  cases x <;> cases y <;> simp [zeroTimesInf] at h ⊢

/-- The product of the model is the exact one of R213, and 0 × ∞ is invalid. -/
theorem mulExact_exactly {x y : FVal} (hx : x.wf) (hy : y.wf) :
    Exactly [x, y] (zeroTimesInf x y) (wholeProduct x y) (mulExact x y) := by
  cases hnan : [x, y].any FVal.isNan with
  | true =>
    rw [mulExact_nan hnan]
    exact exactly_nan hnan (zeroTimesInf_nan hnan)
  | false =>
    cases x with
    | nan a => simp at hnan
    | inf a =>
      cases y with
      | nan b => simp at hnan
      | inf b => exact exactly_inf hnan _
      | fin t c d => exact exactly_inf_or_invalid hnan (c == 0) rfl
    | fin s a b =>
      cases y with
      | nan g => simp at hnan
      | inf t => simpa [mulExact, zeroTimesInf, wholeProduct] using exactly_inf_or_invalid hnan (a == 0) (s := s != t) rfl
      | fin t c d =>
        simpa [mulExact_fin, zeroTimesInf, wholeProduct] using exactly_fin hnan (Nat.mul_pos hx hy) (ratOf_mul s t a b c d)

/-- A finite value that is not zero over a zero: an infinity, and fz where the dividend is finite (R184, R213). -/
theorem divExact_zero {x y : FVal} (hx : x.isNan = false) (hx0 : x.isZero = false) (hy : y.isZero = true) :
    divExact x y = (.inf (x.neg != y.neg), if x.isInf then 0 else fz) := by
  cases y with
  | fin t c d =>
    cases x with
    | nan a => simp at hx
    | inf a => rfl
    | fin s a b => simp_all [divExact]
  | _ => simp at hy

/-- The quotient of the model is the exact one of R213, and 0 / 0 and ∞ / ∞ are invalid. -/
theorem divExact_exactly {x y : FVal} (hx : x.wf) (hy : y.wf)
    (hzero : (!x.isNan && !y.isNan && y.isZero && !x.isZero) = false) :
    Exactly [x, y] ((x.isZero && y.isZero) || (x.isInf && y.isInf))
      (if x.isInf then .inf (x.neg != y.neg) else if y.isInf then .fin (x.neg != y.neg) 0 1
        else ofRat (x.neg != y.neg) (ratOf x / ratOf y)) (divExact x y) := by
  cases hnan : [x, y].any FVal.isNan with
  | true =>
    rw [divExact_nan hnan]
    refine exactly_nan hnan ?_
    cases x <;> cases y <;> simp at hnan ⊢
  | false =>
    cases x with
    | nan a => simp at hnan
    | inf a =>
      cases y with
      | nan b => simp at hnan
      | inf b => exact exactly_invalid
      | fin t c d => exact exactly_inf hnan _
    | fin s a b =>
      cases y with
      | nan g => simp at hnan
      | inf t =>
        have hq : ratOf (.fin (s != t) 0 1) = 0 := by simp [ratOf]
        simpa [divExact_fin_inf, ofRat] using exactly_fin hnan Nat.one_pos hq
      | fin t c d =>
        cases hc : c == 0 with
        | true =>
          obtain rfl : c = 0 := by simpa using hc
          obtain rfl : a = 0 := by simpa using hzero
          exact exactly_invalid
        | false =>
          have hc0 : c ≠ 0 := by simpa using hc
          simpa [divExact, hc, hc0] using exactly_fin hnan (Nat.mul_pos hx (Nat.pos_of_ne_zero hc0)) (ratOf_div s t a b c d)

/-! ## Sums -/

/-- One addition of the sum of finite values, on fractions. -/
def addNum (a : Int × Nat) (x : FVal) : Int × Nat :=
  if a.2 = x.num.2 then (a.1 + x.num.1, a.2) else (a.1 * x.num.2 + x.num.1 * a.2, a.2 * x.num.2)

theorem sumFin_eq_foldl (xs : List FVal) : sumFin xs = xs.foldl addNum (0, 1) := rfl

theorem ratOf_num (x : FVal) : (x.num.1 : ℚ) / x.num.2 = ratOf x := by
  cases x with
  | fin neg n d => cases neg <;> simp [FVal.num, ratOf, neg_div]
  | _ => simp [FVal.num, ratOf]

theorem num_snd_pos {x : FVal} (h : x.wf) : 0 < x.num.2 := by
  cases x with
  | fin neg n d => exact h
  | _ => exact Nat.one_pos

theorem addNum_spec {a : Int × Nat} {x : FVal} (ha : 0 < a.2) (hx : x.wf) :
    0 < (addNum a x).2 ∧ ((addNum a x).1 : ℚ) / (addNum a x).2 = a.1 / a.2 + ratOf x := by
  have hd := num_snd_pos hx
  have ha0 : (a.2 : ℚ) ≠ 0 := Nat.cast_ne_zero.2 ha.ne'
  have hd0 : (x.num.2 : ℚ) ≠ 0 := Nat.cast_ne_zero.2 hd.ne'
  rw [← ratOf_num]
  unfold addNum
  split <;> rename_i h
  · refine ⟨ha, ?_⟩
    rw [← h]
    push_cast
    rw [add_div]
  · refine ⟨Nat.mul_pos ha hd, ?_⟩
    push_cast
    rw [div_add_div _ _ ha0 hd0, mul_comm (a.2 : ℚ) (x.num.1 : ℚ)]

/-- The fraction that a sum is kept as is the sum of the rationals. -/
theorem foldl_addNum {xs : List FVal} (h : ∀ x ∈ xs, x.wf) {a : Int × Nat} (ha : 0 < a.2) :
    0 < (xs.foldl addNum a).2 ∧ ((xs.foldl addNum a).1 : ℚ) / (xs.foldl addNum a).2 = a.1 / a.2 + (xs.map ratOf).sum := by
  induction xs generalizing a with
  | nil => simpa using ha
  | cons x xs ih =>
    rw [List.forall_mem_cons] at h
    obtain ⟨hpos, hval⟩ := addNum_spec ha h.1
    obtain ⟨ihpos, ihval⟩ := ih h.2 hpos
    exact ⟨ihpos, by rw [List.foldl_cons, ihval, hval, List.map_cons, List.sum_cons, add_assoc]⟩

theorem sumFin_spec {xs : List FVal} (h : ∀ x ∈ xs, x.wf) :
    0 < (sumFin xs).2 ∧ ((sumFin xs).1 : ℚ) / (sumFin xs).2 = (xs.map ratOf).sum := by
  simpa [sumFin_eq_foldl] using foldl_addNum h (a := (0, 1)) Nat.one_pos

/-- Infinities of both signs among the addends (R184). -/
def opposites (xs : List FVal) : Bool := xs.contains (.inf false) && xs.contains (.inf true)

/-- The exact sum of addends that are neither NaN nor opposite infinities. -/
def sumValue (xs : List FVal) (rnd : Nat) : FVal :=
  (xs.find? FVal.isInf).getD (ofRat (zeroSumNeg xs rnd) (xs.map ratOf).sum)

theorem isInf_iff {x : FVal} : x.isInf = true ↔ ∃ s, x = .inf s := by
  cases x <;> simp

/-- An infinity of one sign alone is the sum. -/
theorem sumValue_inf {xs : List FVal} {s : Bool} (rnd : Nat) (hs : xs.contains (.inf s) = true)
    (ho : xs.contains (.inf !s) = false) : sumValue xs rnd = .inf s := by
  cases hf : xs.find? FVal.isInf with
  | none =>
    have := List.find?_eq_none.1 hf _ (List.contains_iff_mem.1 hs)
    simp at this
  | some i =>
    obtain ⟨t, rfl⟩ := isInf_iff.1 (List.find?_some hf)
    have ht : t ≠ !s := by
      rintro rfl
      rw [List.contains_iff_mem.2 (List.mem_of_find?_eq_some hf)] at ho
      cases ho
    rw [sumValue, hf, Option.getD_some, Bool.eq_not_of_ne ht, Bool.not_not]

theorem sumValue_fin {xs : List FVal} (rnd : Nat) (h : ∀ s, xs.contains (.inf s) = false) :
    sumValue xs rnd = ofRat (zeroSumNeg xs rnd) (xs.map ratOf).sum := by
  have hf : xs.find? FVal.isInf = none := by
    rw [List.find?_eq_none]
    intro x hx hi
    obtain ⟨s, rfl⟩ := isInf_iff.1 hi
    simpa [hx] using h s
  rw [sumValue, hf, Option.getD_none]

theorem ofRat_of_ne_zero {q : ℚ} (h : q ≠ 0) (s t : Bool) : ofRat s q = ofRat t q := by
  simp [ofRat, h]

theorem ratOf_ofInt_div (i : Int) (d : Nat) : ratOf (.fin (decide (i < 0)) i.natAbs d) = (i : ℚ) / d := by
  rcases lt_or_ge i 0 with h | h
  · simp [ratOf, h, Nat.cast_natAbs, abs_of_neg h, neg_div]
  · simp [ratOf, h.not_gt, Nat.cast_natAbs, abs_of_nonneg h]

/-- The sum of the model is the exact one, and a sum of opposite infinities is invalid. -/
theorem sumExact_exactly {xs : List FVal} (hwf : ∀ x ∈ xs, x.wf) (rnd : Nat) :
    Exactly xs (!xs.any FVal.isNan && opposites xs) (sumValue xs rnd) (sumExact xs rnd) := by
  unfold sumExact opposites
  simp only [List.any_beq']
  cases hnan : xs.any FVal.isNan with
  | true => exact exactly_nan hnan rfl
  | false =>
    cases hp : xs.contains (.inf false) with
    | true =>
      cases hm : xs.contains (.inf true) with
      | true => exact exactly_invalid
      | false =>
        rw [sumValue_inf rnd hp hm]
        exact exactly_inf hnan _
    | false =>
      cases hm : xs.contains (.inf true) with
      | true =>
        rw [sumValue_inf rnd hm hp]
        exact exactly_inf hnan _
      | false =>
        rw [sumValue_fin rnd (Bool.forall_bool.2 ⟨hp, hm⟩)]
        obtain ⟨hpos, hsum⟩ := sumFin_spec hwf
        by_cases hz : (sumFin xs).1 = 0
        · have h0 : (xs.map ratOf).sum = 0 := by simp [← hsum, hz]
          simpa [hz, h0] using exactly_fin hnan Nat.one_pos (s := zeroSumNeg xs rnd) (n := 0) (by simp [ratOf])
        · have h0 : (xs.map ratOf).sum ≠ 0 := by simp [← hsum, hz, hpos.ne']
          rw [ofRat_of_ne_zero h0 _ (decide ((sumFin xs).1 < 0))]
          simpa [hz] using exactly_fin hnan hpos ((ratOf_ofInt_div ..).trans hsum)

theorem canon_wf {x : FVal} (h : x.wf) : x.canon.wf := by
  cases x with
  | fin neg n d => exact Rat.den_pos _
  | _ => exact h

theorem canon_canon (x : FVal) : x.canon.canon = x.canon := by
  cases x with
  | fin neg n d => simp only [FVal.canon, natAbs_num_div_den, abs_of_nonneg (show (0 : ℚ) ≤ (n : ℚ) / d by positivity)]
  | _ => rfl

theorem canon_of_isInf {x : FVal} (h : x.isInf = true) : x.canon = x := by
  obtain ⟨s, rfl⟩ := isInf_iff.1 h
  rfl

/-- A sum is one of rationals: its addends may be taken in lowest terms. -/
theorem sumValue_map_canon {xs : List FVal} (h : ∀ x ∈ xs, x.wf) (rnd : Nat) :
    sumValue (xs.map FVal.canon) rnd = sumValue xs rnd := by
  have hfind : (xs.map FVal.canon).find? FVal.isInf = xs.find? FVal.isInf := by
    rw [List.find?_map, show FVal.isInf ∘ FVal.canon = FVal.isInf from funext canon_isInf]
    cases hf : xs.find? FVal.isInf with
    | none => rfl
    | some i => rw [Option.map_some, canon_of_isInf (List.find?_some hf)]
  have hrat : (xs.map FVal.canon).map ratOf = xs.map ratOf := by
    rw [List.map_map]
    exact List.map_congr_left fun x hx => ratOf_canon (h x hx)
  have hzero : zeroSumNeg (xs.map FVal.canon) rnd = zeroSumNeg xs rnd := by
    have hall (p : FVal → Bool) (hp : ∀ x ∈ xs, p x.canon = p x) : (xs.map FVal.canon).all p = xs.all p := by
      rw [List.all_map, Bool.eq_iff_iff, List.all_eq_true, List.all_eq_true]
      exact forall₂_congr fun x hx => by rw [Function.comp_apply, hp x hx]
    have hz (x : FVal) (hx : x ∈ xs) : x.canon.isZero = x.isZero := canon_isZero (h x hx)
    rw [zeroSumNeg, zeroSumNeg, hall _ fun x hx => by rw [hz x hx, canon_neg], hall _ fun x hx => by rw [hz x hx, canon_neg]]
  rw [sumValue, sumValue, hfind, hrat, hzero]

theorem sumValue_pair (x y : FVal) (rnd : Nat) : sumValue [x, y] rnd = wholeSum x y rnd := by
  simp only [sumValue, wholeSum, List.find?_cons, List.find?_nil]
  cases x.isInf <;> cases y.isInf <;> simp [zeroSumNeg, Bool.and_assoc]

theorem wholeSum_canon {x y : FVal} (hx : x.wf) (hy : y.wf) (rnd : Nat) : wholeSum x.canon y rnd = wholeSum x y rnd := by
  have hwf : ∀ v ∈ [x, y], v.wf := by simp [hx, hy]
  have hwf' : ∀ v ∈ [x.canon, y], v.wf := by simp [canon_wf, hx, hy]
  rw [← sumValue_pair, ← sumValue_pair, ← sumValue_map_canon hwf, ← sumValue_map_canon hwf']
  simp only [List.map_cons, List.map_nil, canon_canon]

theorem opposites_pair (x y : FVal) : (!([x, y].any FVal.isNan) && opposites [x, y]) = oppositeInf x y := by
  cases x with
  | inf s => cases y with
    | inf t => cases s <;> cases t <;> rfl
    | _ => simp [opposites, oppositeInf]
  | _ => cases y <;> simp [opposites, oppositeInf]

theorem sumExact_pair {x y : FVal} (hx : x.wf) (hy : y.wf) (rnd : Nat) :
    Exactly [x, y] (oppositeInf x y) (wholeSum x y rnd) (sumExact [x, y] rnd) := by
  rw [← opposites_pair, ← sumValue_pair]
  exact sumExact_exactly (by simp [hx, hy]) rnd

/-- FADD is `Arith` on the exact sum (R213). -/
theorem addF_eq_addSpec (m : Fmt) (a b rnd : Nat) : addF m a b rnd = addSpec m a b rnd :=
  finishF_eq_arith (sumExact_pair (decodeF_wf m a) (decodeF_wf m b) rnd)

/-- FMUL is `Arith` on the exact product (R213). -/
theorem mulF_eq_arith (m : Fmt) (a b rnd : Nat) : mulF m a b rnd =
    arith m [decodeF m a, decodeF m b] (zeroTimesInf (decodeF m a) (decodeF m b)) (wholeProduct (decodeF m a) (decodeF m b)) rnd :=
  finishF_eq_arith (mulExact_exactly (decodeF_wf m a) (decodeF_wf m b))

/-- FDIV is `Arith` on the exact quotient, with the infinity of a zero divisor (R213). -/
theorem divF_eq_divSpec {m : Fmt} (hm : m.hasInf = true) (a b rnd : Nat) : divF m a b rnd = divSpec m a b rnd := by
  unfold divF divSpec
  dsimp only
  split <;> rename_i hzero
  · simp only [Bool.and_eq_true, Bool.not_eq_true'] at hzero
    obtain ⟨⟨⟨hx, -⟩, hy⟩, hx0⟩ := hzero
    simp [divExact_zero hx hx0 hy, finishF, roundF, hm]
  · exact finishF_eq_arith (divExact_exactly (decodeF_wf m a) (decodeF_wf m b) (by simpa using hzero))

/-- The same answer for other operands that hold the same NaNs. -/
theorem Exactly.of_ops {ops ops' : List FVal} {invalid : Bool} {exact : FVal} {r : FVal × Nat} (h : Exactly ops invalid exact r)
    (hn : ops'.any FVal.isNan = ops.any FVal.isNan) (hs : ops'.any FVal.isSig = ops.any FVal.isSig) :
    Exactly ops' invalid exact r where
  nan := by rw [hn]; exact h.nan
  value := by rw [hn]; exact h.value
  flags := by rw [hs]; exact h.flags

/-! ## The fused multiply-add -/

/-- A sum with the product: invalid for 0 × ∞, or for an infinite product and the other infinity (R184, R213). -/
theorem fma_exactly {x y z : FVal} (hx : x.wf) (hy : y.wf) (hz : z.wf) (rnd : Nat) :
    Exactly [x, y, z]
      ((!(x.isNan || y.isNan) && zeroTimesInf x y) ||
        (!(x.isNan || y.isNan) && !zeroTimesInf x y && oppositeInf (wholeProduct x y) z))
      (wholeSum (wholeProduct x y) z rnd)
      ((sumExact [(mulExact x y).1, z] rnd).1, (mulExact x y).2 ||| (sumExact [(mulExact x y).1, z] rnd).2) := by
  have hp := mulExact_exactly hx hy
  have hs := sumExact_pair hp.wf hz rnd
  cases hnan : x.isNan || y.isNan with
  | true =>
    have hops : [x, y].any FVal.isNan = true := by simpa using hnan
    rw [mulExact_nan hops] at hs ⊢
    rw [hs.nan (by simp), hs.flags, fv_or_fv]
    have h3 : [x, y, z].any FVal.isNan = true := by
      simp only [List.any_cons, ← Bool.or_assoc, hnan, Bool.true_or]
    simpa [oppositeInf, Bool.or_assoc] using exactly_nan h3 rfl
  | false =>
    cases hzi : zeroTimesInf x y with
    | true =>
      rw [hs.nan (by simp [hp.isNan, hzi]), hs.flags, hp.flags, fv_or_fv]
      simpa [hzi] using exactly_invalid
    | false =>
      obtain ⟨hpwf, hcanon, -⟩ := hp.value (by simpa [hzi] using hnan)
      have hsig : ([x, y].any FVal.isSig) = false := any_isSig_of_any_isNan_eq_false (by simpa using hnan)
      have hopp : oppositeInf (wholeProduct x y) z = oppositeInf (mulExact x y).1 z := by
        rw [← hcanon]
        simp [oppositeInf]
      rw [hp.flags, hsig, hzi, hopp, ← hcanon, wholeSum_canon hpwf hz]
      have hnans : [x, y, z].any FVal.isNan = [(mulExact x y).1, z].any FVal.isNan := by
        simp [hp.isNan, hzi, Bool.or_assoc]
      have hsigs : [x, y, z].any FVal.isSig = [(mulExact x y).1, z].any FVal.isSig := by
        simp only [List.any_cons, List.any_nil, Bool.or_false] at hsig ⊢
        rw [← Bool.or_assoc, hsig, hp.isSig]
      simpa using hs.of_ops hnans hsigs

/-- FFMA is `Arith` on the exact product and sum (R213). -/
theorem fmaF_eq_fmaSpec (m : Fmt) (a b c rnd : Nat) : fmaF m a b c rnd = fmaSpec m a b c rnd :=
  finishF_eq_arith (fma_exactly (decodeF_wf m a) (decodeF_wf m b) (decodeF_wf m c) rnd)

/-! ## The sum of two products -/

/-- The product that FDOTP2 adds to the sum of a pair of elements: none where one of them is NaN. -/
def addend (a b e : FVal) : List FVal := if a.isNan || b.isNan then [] else [e]

/-- An answer that is not invalid is an infinity where the exact value is. -/
theorem Exactly.contains_inf {a b e : FVal} {r : FVal × Nat} (h : Exactly [a, b] false e r) (s : Bool) :
    (addend a b e).contains (.inf s) = [r.1].contains (.inf s) := by
  unfold addend
  cases hnan : a.isNan || b.isNan with
  | true =>
    rw [h.nan (by simpa using hnan)]
    rfl
  | false =>
    obtain ⟨-, rfl, -⟩ := h.value (by simpa using hnan)
    cases hr : r.1 <;> rfl

theorem sumValue_eq_of_isInf {xs : List FVal} {i : FVal} (rnd : Nat) (hi : i ∈ xs) (hinf : i.isInf = true)
    (ho : opposites xs = false) : sumValue xs rnd = i := by
  obtain ⟨s, rfl⟩ := isInf_iff.1 hinf
  have hs := List.contains_iff_mem.2 hi
  refine sumValue_inf rnd hs ?_
  cases s <;> simpa [opposites, hi] using ho

/-- Infinities of both signs among the addend C and the products (R214). -/
theorem opposites_addends {a0 b0 a1 b1 w e0 e1 : FVal} {p0 p1 : FVal × Nat} (h0 : Exactly [a0, b0] false e0 p0)
    (h1 : Exactly [a1, b1] false e1 p1) : opposites (w :: (addend a0 b0 e0 ++ addend a1 b1 e1)) = opposites [w, p0.1, p1.1] := by
  simp only [opposites, List.contains_cons, List.contains_append, h0.contains_inf, h1.contains_inf, List.contains_nil, Bool.or_false]

/-- The exact sum of C and the products that R214 rounds. -/
def dotValue (w e0 e1 : FVal) (rnd : Nat) : FVal :=
  if e0.isInf then e0 else if e1.isInf then e1 else if w.isInf then w
  else ofRat (zeroSumNeg [w, e0, e1] rnd) (ratOf w + ratOf e0 + ratOf e1)

theorem sumValue_eq_dotValue {w e0 e1 : FVal} (rnd : Nat) (ho : opposites [w, e0, e1] = false) :
    sumValue [w, e0, e1] rnd = dotValue w e0 e1 rnd := by
  unfold dotValue
  split_ifs with he0 he1 hw
  · exact sumValue_eq_of_isInf rnd (by simp) he0 ho
  · exact sumValue_eq_of_isInf rnd (by simp) he1 ho
  · exact sumValue_eq_of_isInf rnd (by simp) hw ho
  · simp [sumValue, he0, he1, hw, add_assoc]

theorem sumValue_canon_products {w r0 r1 : FVal} (hw : w.wf) (h0 : r0.wf) (h1 : r1.wf) (rnd : Nat) :
    sumValue [w, r0.canon, r1.canon] rnd = sumValue [w, r0, r1] rnd := by
  have hwf : ∀ v ∈ [w, r0, r1], v.wf := by simp [hw, h0, h1]
  have hwf' : ∀ v ∈ [w, r0.canon, r1.canon], v.wf := by simp [canon_wf, hw, h0, h1]
  rw [← sumValue_map_canon hwf, ← sumValue_map_canon hwf']
  simp only [List.map_cons, List.map_nil, canon_canon]

/-- The sum with the flag of opposite infinities raised also where another addend is NaN, as R214 has it. -/
theorem sumExact_raising {xs : List FVal} (hwf : ∀ x ∈ xs, x.wf) (rnd : Nat) :
    Exactly xs (opposites xs) (sumValue xs rnd)
      ((sumExact xs rnd).1, (sumExact xs rnd).2 ||| if opposites xs then fv else 0) := by
  have hs := sumExact_exactly hwf rnd
  have habsorb (n o : Bool) : (n || (!n && o)) = (n || o) := by cases n <;> rfl
  refine ⟨?_, ?_, ?_⟩
  · rw [← habsorb]
    exact hs.nan
  · rw [← habsorb]
    exact hs.value
  · rw [hs.flags, fv_or_fv, Bool.or_assoc]
    cases xs.any FVal.isNan <;> cases opposites xs <;> rfl

/-- The sum of C and two products: invalid for 0 × ∞ in a product or opposite infinities among the addends (R214). -/
theorem dot_exactly {a0 b0 a1 b1 w e0 e1 : FVal} {bad0 bad1 : Bool} {p0 p1 : FVal × Nat} (h0 : Exactly [a0, b0] bad0 e0 p0)
    (h1 : Exactly [a1, b1] bad1 e1 p1) (hw : w.wf) (rnd : Nat) :
    Exactly [a0, a1, b0, b1, w] (bad0 || bad1 || opposites (w :: (addend a0 b0 e0 ++ addend a1 b1 e1))) (dotValue w e0 e1 rnd)
      ((sumExact [w, p0.1, p1.1] rnd).1,
        (sumExact [w, p0.1, p1.1] rnd).2 ||| p0.2 ||| p1.2 ||| if opposites [w, p0.1, p1.1] then fv else 0) := by
  have hq := sumExact_raising (xs := [w, p0.1, p1.1]) (by simp [hw, h0.wf, h1.wf]) rnd
  have hnan : [w, p0.1, p1.1].any FVal.isNan = ([a0, a1, b0, b1, w].any FVal.isNan || bad0 || bad1) := by
    simp only [List.any_cons, List.any_nil, Bool.or_false, h0.isNan, h1.isNan]
    ac_rfl
  have hsig : [w, p0.1, p1.1].any FVal.isSig = w.isSig := by simp [h0.isSig, h1.isSig]
  have hops : [a0, a1, b0, b1, w].any FVal.isSig = (w.isSig || [a0, b0].any FVal.isSig || [a1, b1].any FVal.isSig) := by
    simp only [List.any_cons, List.any_nil, Bool.or_false]
    ac_rfl
  have hflags : (sumExact [w, p0.1, p1.1] rnd).2 ||| p0.2 ||| p1.2 ||| (if opposites [w, p0.1, p1.1] then fv else 0) =
      if [a0, a1, b0, b1, w].any FVal.isSig || (bad0 || bad1 || opposites [w, p0.1, p1.1]) then fv else 0 := by
    have hqflags := hq.flags
    dsimp only at hqflags
    rw [Nat.or_right_comm, Nat.or_right_comm (sumExact _ _).2, hqflags, h0.flags, h1.flags, fv_or_fv, fv_or_fv, hsig, hops]
    congr 2
    ac_rfl
  rw [hflags]
  cases hbad : bad0 || bad1 with
  | true =>
    rw [hq.nan (by simp [hnan, Bool.or_assoc, hbad])]
    simpa using exactly_invalid
  | false =>
    obtain ⟨rfl, rfl⟩ := Bool.or_eq_false_iff.1 hbad
    rw [opposites_addends h0 h1, Bool.false_or]
    simp only [Bool.or_false] at hnan
    refine ⟨?_, ?_, rfl⟩
    · rw [← hnan]
      exact hq.nan
    · intro h
      obtain ⟨hwf, hcanon, hval⟩ := hq.value (hnan ▸ h)
      obtain ⟨hn, ho⟩ := Bool.or_eq_false_iff.1 h
      simp only [List.any_cons, List.any_nil, Bool.or_false, Bool.or_eq_false_iff] at hn
      obtain ⟨ha0, ha1, hb0, hb1, -⟩ := hn
      obtain ⟨-, rfl, -⟩ := h0.value (by simp [ha0, hb0])
      obtain ⟨-, rfl, -⟩ := h1.value (by simp [ha1, hb1])
      have ho' : opposites [w, p0.1.canon, p1.1.canon] = false := by
        rw [← opposites_addends h0 h1] at ho
        simpa [addend, ha0, ha1, hb0, hb1] using ho
      rw [← sumValue_eq_dotValue rnd ho', sumValue_canon_products hw h0.wf h1.wf]
      exact ⟨hwf, hcanon, hval⟩

/-- FDOTP2 of R214 on decoded elements, its products negated where `negP`. -/
def dotSpec (a0 b0 a1 b1 w : FVal) (negP : Bool) (rnd : Nat) : FRes :=
  let neg (v : FVal) : FVal := if negP then v.negate else v
  let e0 := neg (wholeProduct a0 b0)
  let e1 := neg (wholeProduct a1 b1)
  arith f32 [a0, a1, b0, b1, w]
    (zeroTimesInf a0 b0 || zeroTimesInf a1 b1 || opposites (w :: (addend a0 b0 e0 ++ addend a1 b1 e1))) (dotValue w e0 e1 rnd) rnd

theorem negateIf_exactly {ops : List FVal} {invalid : Bool} {exact : FVal} {r : FVal × Nat} (h : Exactly ops invalid exact r)
    (neg : Bool) : Exactly ops invalid (if neg then exact.negate else exact) (if neg then r.1.negate else r.1, r.2) := by
  cases neg with
  | false => exact h
  | true => exact h.negate

theorem fdotp2_eq_dotSpec (m : Fmt) (a0 a1 b0 b1 c : Nat) (negP negC : Bool) (rnd : Nat) :
    fdotp2 m a0 a1 b0 b1 c negP negC rnd =
      dotSpec (decodeF m a0) (decodeF m b0) (decodeF m a1) (decodeF m b1) (decodeF f32 (signCtl f32 c negC)) negP rnd :=
  finishF_eq_arith (dot_exactly (negateIf_exactly (mulExact_exactly (decodeF_wf m a0) (decodeF_wf m b0)) negP)
    (negateIf_exactly (mulExact_exactly (decodeF_wf m a1) (decodeF_wf m b1)) negP) (decodeF_wf f32 _) rnd)

/-! ## Codes fit their format (R173, R182) -/

theorem precFmt_shape (prec : Nat) :
    (precFmt prec).hasInf = true ∧ 0 < (precFmt prec).f ∧ (precFmt prec).f < (precFmt prec).w - 1 := by
  unfold precFmt
  split_ifs <;> decide

section
variable {m : Fmt} (hm : m.hasInf = true ∧ 0 < m.f ∧ m.f < m.w - 1)
include hm

theorem emax_mul_add : m.emax * 2 ^ m.f + 2 ^ m.f = 2 ^ (m.w - 1) := by
  obtain ⟨-, -, hw⟩ := hm
  have hpos := Nat.two_pow_pos (m.w - 1 - m.f)
  rw [Fmt.emax, ← Nat.succ_mul, Nat.succ_eq_add_one, Nat.sub_add_cancel hpos, ← pow_add, Nat.sub_add_cancel hw.le]

theorem signBit_add_lt (neg : Bool) {c : Nat} (hc : c < 2 ^ (m.w - 1)) : signBit m neg + c < 2 ^ m.w := by
  obtain ⟨-, -, hw⟩ := hm
  have h2 : 2 ^ m.w = 2 ^ (m.w - 1) + 2 ^ (m.w - 1) := by
    rw [← Nat.two_mul, ← pow_succ', Nat.sub_add_cancel (by omega)]
  unfold signBit
  split <;> omega

theorem canonNan_lt : canonNan m < 2 ^ m.w := by
  have he := emax_mul_add hm
  have hlt : 2 ^ (m.f - 1) < 2 ^ m.f := Nat.pow_lt_pow_right (by decide) (by omega)
  have hs := signBit_add_lt hm false (c := m.emax * 2 ^ m.f + 2 ^ (m.f - 1)) (by omega)
  simpa [canonNan, signBit, hm.1] using hs

theorem infCode_lt (neg : Bool) : infCode m neg < 2 ^ m.w := by
  have he := emax_mul_add hm
  exact signBit_add_lt hm neg (by have := Nat.two_pow_pos m.f; omega)

theorem maxCode_false_lt : maxCode m false < 2 ^ (m.w - 1) := by
  have he := emax_mul_add hm
  have := Nat.two_pow_pos m.f
  rw [maxCode, signBit, if_pos hm.1, if_neg Bool.false_ne_true]
  omega

theorem maxCode_lt (neg : Bool) : maxCode m neg < 2 ^ m.w := by
  have h := signBit_add_lt hm neg (maxCode_false_lt hm)
  simpa [maxCode, signBit] using h

theorem overflowF_code_lt (neg : Bool) (rnd : Nat) (sat : Bool) : (overflowF m neg rnd sat).code < 2 ^ m.w := by
  unfold overflowF
  dsimp only
  split_ifs
  exacts [maxCode_lt hm neg, infCode_lt hm neg, canonNan_lt hm]

/-- A rounded code fits its format: above the greatest finite code it overflows. -/
theorem roundF_code_lt (x : FVal) (rnd : Nat) : (roundF m x rnd).code < 2 ^ m.w := by
  cases x with
  | nan g => exact canonNan_lt hm
  | inf neg => simpa [roundF, hm.1] using infCode_lt hm neg
  | fin neg n d =>
    unfold roundF
    dsimp only
    -- a zero, an overflow, or a code that is at most the greatest finite one
    refine iteInduction (motive := (FRes.code · < 2 ^ m.w)) (fun _ => signBit_add_lt hm neg (Nat.two_pow_pos _)) fun _ => ?_
    refine iteInduction (motive := (FRes.code · < 2 ^ m.w)) (fun _ => overflowF_code_lt hm neg rnd false) fun hmax => ?_
    exact signBit_add_lt hm neg (lt_of_le_of_lt (Nat.not_lt.1 hmax) (maxCode_false_lt hm))

theorem finishF_code_lt (r : FVal × Nat) (rnd : Nat) : (finishF m r rnd).code < 2 ^ m.w := roundF_code_lt hm r.1 rnd

end

/-! ## Elements of a float result (R209, R210) -/

/-- The float rows that write a register or a pair: not FCMP and FCLASS, which write a predicate, CVTF, whose
control word says it, and FLGCLR, which writes nothing (R211). -/
def floatWritesRegister (opc : Nat) : Bool :=
  decide (0x40 ≤ opc) && decide (opc < 0x60) && !([0x48, 0x49, 0x5B, 0x5F].contains opc)

theorem floatSig_dst {opc prec rnd sgc : Nat} {dpred : Bool} {ctl : Option Nat} {sg : Sig}
    (h : floatSig opc prec rnd sgc dpred ctl = some sg) (hopc : floatWritesRegister opc = true) : sg.d = .val ∨ sg.d = .pair := by
  have hprec : dvalW prec = .val ∨ dvalW prec = .pair := by
    unfold dvalW
    split <;> simp
  unfold floatSig at h
  split at h <;> simp [floatWritesRegister] at hopc h <;> (obtain ⟨_, rfl⟩ := h) <;> simp [hprec, em']

theorem executes_floatSig {opc : Nat} {x : Std} {s : State} {g : Group} {r : RunIn} {tm : Team} (h : Executes opc x s g r tm)
    (hopc : floatWritesRegister opc = true) : ∃ sgc dpred ctl sg, floatSig opc (precOf x) (rndOf x) sgc dpred ctl = some sg ∧
      dstOk sg.d x.d = true := by
  obtain ⟨hok, sg, hsig⟩ := executes_ok h
  simp only [floatWritesRegister, Bool.and_eq_true, decide_eq_true_eq] at hopc
  obtain ⟨⟨hlo, hhi⟩, -⟩ := hopc
  simp only [Std.ok, hsig, Bool.and_eq_true] at hok
  refine ⟨_, _, _, sg, by simpa [Std.sig, sigOf, Nat.not_lt.2 hlo, hhi, precOf, rndOf] using hsig, ?_⟩
  tauto

theorem executes_cut {opc : Nat} {x : Std} {s : State} {g : Group} {r : RunIn} {tm : Team} (h : Executes opc x s g r tm)
    (hopc : floatWritesRegister opc = true) (k v : Nat) : cut x.d k v = v % 2 ^ (32 * k) := by
  obtain ⟨sgc, dpred, ctl, sg, hsig, hdst⟩ := executes_floatSig h hopc
  exact cut_register hdst (floatSig_dst hsig hopc) k v

theorem precFmt_w_mul (prec : Nat) : (precFmt prec).w * precN prec = 32 * precRegs prec := by
  unfold precFmt precN precRegs
  obtain rfl | rfl | h : prec = 0 ∨ prec = 1 ∨ 2 ≤ prec := by omega
  · rfl
  · rfl
  · have h0 : prec ≠ 0 := by omega
    have h1 : prec ≠ 1 := by omega
    rw [if_neg h0, if_neg h1, if_neg h1, if_pos h]
    split <;> rfl

theorem buildF_code (w n : Nat) (f : Nat → FRes) : (buildF w n f).code = build w n fun k => (f k).code := rfl

/-- The flags of a value of one or two elements are raised together. -/
theorem ofNat_buildF_flags (w prec : Nat) (f : Nat → FRes) (a : BitVec 5) :
    a ||| BitVec.ofNat 5 (buildF w (precN prec) f).flags =
      a ||| BitVec.ofNat 5 (f 0).flags ||| if precN prec = 2 then BitVec.ofNat 5 (f 1).flags else 0 := by
  unfold precN
  split
  · simp [buildF, List.range_succ, BitVec.ofNat_or, BitVec.or_assoc]
  · simp [buildF]

/-- An instruction that acts on each element gives the result of each by `f'`, where the model computes it and it fits the
format (R209, R210). -/
theorem floatElements_of_execFloat {opc : Nat} {i : Instr} {x : Std} {f f' : Fmt → Nat → Nat → Nat → FRes}
    (hi : ∀ s, exec i s = execFloat opc x s f) (hopc : floatWritesRegister opc = true)
    (hf : ∀ a b c, f (precFmt (precOf x)) a b c = f' (precFmt (precOf x)) a b c)
    (hlt : ∀ a b c, (f (precFmt (precOf x)) a b c).code < 2 ^ (precFmt (precOf x)).w) : FloatElements opc i x f' := by
  have hgives : GivesF opc i x (precRegs (precOf x)) fun g _ t => buildF (precFmt (precOf x)).w (precN (precOf x)) fun k =>
      f' (precFmt (precOf x)) (floatElem (precOf x) g t x.a k) (floatElem (precOf x) g t x.b k) (floatElem (precOf x) g t x.c k) :=
    execF_gives fun s c h => by simp only [hi, execFloat, h, hf]
  simp only [hf] at hlt
  intro s g r tm h
  obtain ⟨t, hexec, hval, hflags⟩ := hgives s g r tm h
  refine ⟨t, hexec, fun l th hl => ⟨fun hk => ⟨_, hval l th hl hk, fun e he => ?_⟩, ?_⟩⟩
  · rw [executes_cut h hopc, buildF_code, element_build_mod (precFmt_w_mul _) _ he, BitVec.toNat_ofNat,
      Nat.mod_eq_of_lt (hlt _ _ _)]
  · rw [hflags l th hl, ofNat_buildF_flags]

/-- A function may be exchanged for one that agrees with it where the instruction executes. -/
theorem givesF_congr {opc : Nat} {i : Instr} {x : Std} {k : Nat} {f f' : Group → Nat → Thread → FRes} (hgives : GivesF opc i x k f)
    (hf : ∀ s g r tm, Executes opc x s g r tm → ∀ g l t, f g l t = f' g l t) : GivesF opc i x k f' := by
  intro s g r tm h
  obtain ⟨t, hexec, hval, hflags⟩ := hgives s g r tm h
  have hff := hf s g r tm h
  exact ⟨t, hexec, fun l th hl hk => by rw [hval l th hl hk, hff], fun l th hl => by rw [hflags l th hl, hff]⟩

theorem build_two {w : Nat} {f : Nat → Nat} (h0 : f 0 < 2 ^ w) (h1 : f 1 < 2 ^ w) : build w 2 f = f 0 + 2 ^ w * f 1 := by
  rw [build_succ, build_succ, Nat.mod_eq_of_lt h0, Nat.mod_eq_of_lt h1]
  simp [build, Nat.mul_comm]

theorem buildF_two {w : Nat} {f : Nat → FRes} (h0 : (f 0).code < 2 ^ w) (h1 : (f 1).code < 2 ^ w) :
    buildF w 2 f = { code := (f 0).code + 2 ^ w * (f 1).code, flags := (f 0).flags ||| (f 1).flags } := by
  rw [buildF, build_two h0 h1]
  simp [List.range_succ]

/-- HFMA2 takes packed elements alone (R211). -/
theorem hfma2_packed {x : Std} {s : State} {g : Group} {r : RunIn} {tm : Team} (h : Executes 0x5A x s g r tm) :
    (precFmt (precOf x)).w = 16 := by
  obtain ⟨sgc, dpred, ctl, sg, hsig, -⟩ := executes_floatSig h (by decide)
  obtain ⟨⟨-, hprec⟩, -⟩ : (rndOf x < 5 ∧ 2 ≤ precOf x) ∧ _ := by simpa [floatSig] using hsig
  unfold precFmt
  rw [if_neg (by omega), if_neg (by omega)]
  split <;> rfl

theorem hfma2_gives (x : Std) :
    GivesF 0x5A (.hfma2 x) x 1 fun g _ t => buildF 16 2 fun k =>
      fmaF (precFmt (precOf x)) (floatElem (precOf x) g t x.a k) (floatElem (precOf x) g t x.b (hfmaB (sgcOf x) k))
        (floatElem (precOf x) g t x.c k) (rndOf x) :=
  execF_gives fun s c h => by rw [exec_hfma2, execHfma2, h]

theorem fdotp2_gives (x : Std) :
    GivesF 0x59 (.fdotp2 x) x 1 fun g _ t =>
      fdotp2 (precFmt (precOf x)) (floatElem (precOf x) g t x.a 0) (floatElem (precOf x) g t x.a 1) (floatElem (precOf x) g t x.b 0)
        (floatElem (precOf x) g t x.b 1) (floatElem 0 g t x.c 0) (sgc25 x) (sgc26 x) (rndOf x) :=
  execF_gives fun s c h => by rw [exec_fdotp2, execFdotp2, h]

theorem hfmaB_zero (sgc : Nat) (h : sgc < 4) : hfmaB sgc 0 = if sgc = 2 ∨ sgc = 3 then 1 else 0 := by
  interval_cases sgc <;> rfl

theorem hfmaB_one (sgc : Nat) (h : sgc < 4) : hfmaB sgc 1 = if sgc = 0 ∨ sgc = 2 then 1 else 0 := by
  interval_cases sgc <;> rfl

theorem sgcOf_lt (x : Std) : sgcOf x < 4 := by
  have h25 := Bool.toNat_lt (sgc25 x)
  have h26 := Bool.toNat_lt (sgc26 x)
  unfold sgcOf
  omega

theorem zeroTimesInf_of_numbers (a b : FVal) : (!a.isNan && !b.isNan && zeroTimesInf a b) = zeroTimesInf a b := by
  cases hnan : [a, b].any FVal.isNan with
  | true => rw [zeroTimesInf_nan hnan, Bool.and_false]
  | false =>
    obtain ⟨ha, hb⟩ : a.isNan = false ∧ b.isNan = false := by simpa using hnan
    simp [ha, hb]

theorem zeroSumNeg_three (w x y : FVal) (rnd : Nat) : zeroSumNeg [w, x, y] rnd =
    ((w.isZero && w.neg && x.isZero && x.neg && y.isZero && y.neg) ||
      (rnd == 3 && !(w.isZero && !w.neg && x.isZero && !x.neg && y.isZero && !y.neg))) := by
  simp [zeroSumNeg, Bool.and_assoc]

/-- Settles O7: the exact values of the model are the rationals of R213 and R214, and its one rounding looks at the rational
alone. -/
theorem floatArithmeticAndProducts : Obligations.FloatArithmeticAndProducts := by
  refine ⟨fun x => ?_, fun x => ⟨?hfma2, ?fdotp2⟩⟩
  · have hm := precFmt_shape (precOf x)
    have hlt (r : FVal × Nat) : (finishF (precFmt (precOf x)) r (rndOf x)).code < 2 ^ (precFmt (precOf x)).w := finishF_code_lt hm r _
    exact
      ⟨floatElements_of_execFloat (exec_fadd x) (by decide) (fun _ _ _ => addF_eq_addSpec ..) fun _ _ _ => hlt _,
        floatElements_of_execFloat (exec_fsub x) (by decide) (fun _ _ _ => addF_eq_addSpec ..) fun _ _ _ => hlt _,
        floatElements_of_execFloat (exec_fmul x) (by decide) (fun _ _ _ => mulF_eq_arith ..) fun _ _ _ => hlt _,
        floatElements_of_execFloat (exec_ffma x) (by decide) (fun _ _ _ => fmaF_eq_fmaSpec ..) fun _ _ _ => hlt _,
        floatElements_of_execFloat (exec_fdiv x) (by decide) (fun _ _ _ => divF_eq_divSpec hm.1 ..) fun _ _ _ => hlt _⟩
  case hfma2 =>
    refine givesF_congr (hfma2_gives x) fun _ _ _ _ h g l t => ?_
    have hlt (a b c : Nat) : (fmaF (precFmt (precOf x)) a b c (rndOf x)).code < 2 ^ 16 := by
      rw [← hfma2_packed h]
      exact finishF_code_lt (precFmt_shape _) ..
    rw [buildF_two]
    · simp only [hfmaB_zero _ (sgcOf_lt x), hfmaB_one _ (sgcOf_lt x), fmaF_eq_fmaSpec]
    · exact hlt ..
    · exact hlt ..
  case fdotp2 =>
    refine givesF_congr (fdotp2_gives x) fun _ _ _ _ _ g l t => ?_
    rw [fdotp2_eq_dotSpec]
    simp only [dotSpec, dotValue, zeroSumNeg_three, zeroTimesInf_of_numbers]
    rfl

end Sys2Proof.Machine
end
